-- ==== Sys2Proof/Word.lean ====
section
/-!
DEFINITION. The word types of the LC8: bytes of the trunk and the lines, and the 32-bit cumulative stream positions of R2.
-/
namespace Sys2Proof

/-- A byte of the trunk, of a line or of a cell. -/
abbrev Byte := BitVec 8

/-- An outbound stream position or count: a cumulative byte count kept modulo 2^32 (R2). -/
abbrev Pos := BitVec 32

end Sys2Proof
end

