-- ==== Sys2Proof/Syntax.lean ====
section
/-!
DEFINITION. The commands of the LC8: one constructor per row of spec/opcode_table.json, in the table's order.
A trunk command carries what arrives on TRX, a line command names its line, and an expiry or completion is the event itself.
-/
namespace Sys2Proof

/-- One character received on TRX (R167): a byte whose stop bit sampled at mark, or a character whose stop bit sampled at space. -/
inductive TrunkChar where
  | byte (b : Byte)
  | spaceStop
  deriving DecidableEq, Repr

/-- The two ways a frame ends in a CRC error (R169): all its bytes arrive and the CRC fails, or a space-stop character
abandons it after these bytes and TRX returns to mark before the trunk-break time. -/
inductive BadFrame where
  | badCrc (bytes : List Byte)
  | abandoned (bytes : List Byte)
  deriving DecidableEq, Repr

/-- What a REQUEST frame carries beside its request code: the frame's sequence, the tag and the operand bytes (Table 9-1). -/
structure Req where
  seq : Byte
  tag : Byte
  operands : List Byte
  deriving DecidableEq, Repr

/-- The commands: one constructor per row of spec/opcode_table.json. -/
inductive Instr where
  | powerOnReset (trs1 trs0 : Bool)
  | trunkBreak
  | huntByte (c : TrunkChar)
  | headerError (kindChannel seq length check : Byte)
  | crcError (f : BadFrame)
  | unknownFrame (kind channel : BitVec 4) (seq : Byte) (payload : List Byte)
  | data (line : Fin 8) (seq : Byte) (payload : List Byte)
  | requestDropped (seq : Byte) (payload : List Byte)
  | unknownRequest (code : Byte) (r : Req)
  | startSession (r : Req)
  | readPart (r : Req)
  | partReset (r : Req)
  | partResetComplete
  | setGrantRefresh (r : Req)
  | loadProfile (r : Req)
  | readProfile (r : Req)
  | bindLine (r : Req)
  | openLine (r : Req)
  | closeLineDrain (r : Req)
  | closeLineAbort (r : Req)
  | flush (r : Req)
  | flushComplete (line : Fin 8)
  | resume (r : Req)
  | discardBlocks (r : Req)
  | readLine (r : Req)
  | sendBreak (r : Req)
  | breakBegin (line : Fin 8)
  | pauseInbound (r : Req)
  | resumeInbound (r : Req)
  | setAux (r : Req)
  | loadPattern (r : Req)
  | clearPattern (r : Req)
  | readPattern (r : Req)
  | ackEventSpecific (r : Req)
  | ackEventNonSpecific (r : Req)
  | setEventMask (r : Req)
  | setEventOrder (r : Req)
  | setRepeatInterval (r : Req)
  | readEvents (r : Req)
  | transmitterChoice (line : Fin 8)
  | characterCompletion (line : Fin 8)
  | gapTimerExpiry (line : Fin 8)
  | ackTimerExpiry (line : Fin 8)
  | pauseTimerExpiry (line : Fin 8)
  | lingerTimerExpiry (line : Fin 8)
  | breakTimerExpiry (line : Fin 8)
  | rdyiChange (line : Fin 8) (asserted : Bool)
  | characterReceived (line : Fin 8) (sampled : Byte) (parityBit stopBit : Bool)
  | receiverBreakEnd (line : Fin 8)
  | idleTimerExpiry (line : Fin 8)
  | statusChange (line : Fin 8) (combination : Fin 8)
  | debounceTimerExpiry (line : Fin 8)
  | drainComplete (line : Fin 8)
  | abortComplete (line : Fin 8)
  | entryToClosed (line : Fin 8)
  | grantRefreshTimerExpiry
  | repeatTimerExpiry (cls : Fin 8)
  | announceTimerExpiry
  | arbiterChoice
  | frameEnd
  | startEdge (line : Fin 8)
  | falseStart (line : Fin 8)
  | receiverArmed (line : Fin 8)
  | trunkBreakEnd
  deriving DecidableEq, Repr

end Sys2Proof
end

