-- ==== Sys2Proof/Decode.lean ====
section
/-!
DEFINITION. The command a table word spells. No row of spec/opcode_table.json gives bits, so no word spells a command (log 22).
-/
namespace Sys2Proof

/-- The command that a word spells by the table's bits: the table gives no row any bits, so none. -/
def decodeTableWord (_nbits _w : Nat) : Option Instr := none

end Sys2Proof
end

