-- ==== Sys2Proof/Config.lean ====
section
/-!
DEFINITION. What the part fixes: the constants the spec gives by number. There is no free value: the spec leaves no value open that a command can read (log 8).
-/
namespace Sys2Proof.Config

/-- Cells of the pool (R4, R5). -/
def poolCells : Nat := 384
/-- Data bytes of a cell (chapter 1.1). -/
def cellBytes : Nat := 32
/-- Markers a line's list holds at most (R130). -/
def maxMarkers : Nat := 16
/-- Request slots (R159). -/
def maxSlots : Nat := 4
/-- Places of the refusal list (R158). -/
def maxRefusals : Nat := 4
/-- The longest payload of a trunk frame (Table 10-1). -/
def maxPayload : Nat := 64
/-- The top of a line or trunk counter (R58, R177) and of the dropped-request count (R156). -/
def counterTop : Nat := 65535
/-- The top of a one-byte count of an event record (Table 8-2). -/
def countTop : Nat := 255
/-- The announce interval in ms (R172). -/
def announceMs : Nat := 250
/-- The repeat interval after reset, in units of 10 ms (R138). -/
def defaultRepeat : Nat := 50
/-- The family code (R165, Table 10-12). -/
def familyCode : Nat := 0x5A21
/-- The revision (R165, Table 10-12). -/
def revision : Nat := 0x01
/-- The number of lines (Table 10-12). -/
def lineCount : Nat := 8
/-- The start code of a trunk frame (Table 10-1). -/
def startCode : BitVec 8 := 0xC3#8

end Sys2Proof.Config
end

