-- ==== Sys2Proof/Machine/Records.lean ====
section
/-!
DEFINITION. The records and tables of the LC8: the forms of Tables 1-6, 2-1, 3-1, 4-1, 4-2, 5-1, 6-1, 7-1, 7-2, 8-2, 9-1 to 9-3, 10-1 and 10-3.
-/
namespace Sys2Proof.Machine

/-! ## Levels and timers -/

/-- The level of an asynchronous wire (Table 1-4). -/
inductive Level where
  | mark
  | space
  deriving DecidableEq, Repr

/-- A timer: stopped, or running with the interval it was started with, in ms (R3; the passing of time is log 4). -/
inductive Timer where
  | stopped
  | running (ms : Nat)
  deriving DecidableEq, Repr

/-- The ack timer may also be suspended (Table 4-1, R78). -/
inductive AckTimer where
  | stopped
  | running (ms : Nat)
  | suspended
  deriving DecidableEq, Repr

/-! ## Profiles (Table 2-1) -/

inductive Parity where
  | none
  | even
  | odd
  | mark
  | space
  deriving DecidableEq, Repr

inductive StopBits where
  | one
  | oneAndHalf
  | two
  deriving DecidableEq, Repr

/-- Outbound pacing (Table 2-2). -/
inductive OutPacing where
  | none
  | code
  | block
  deriving DecidableEq, Repr

/-- Inbound pacing (Table 2-2). -/
inductive InPacing where
  | none
  | code
  | line
  deriving DecidableEq, Repr

inductive BreakAction where
  | report
  | flush
  deriving DecidableEq, Repr

/-- The seven conditions (Table 6-2), in the order of their codes (Table 2-2). -/
inductive Condition where
  | ready
  | busy
  | offline
  | mediaOut
  | fault
  | detached
  | invalid
  deriving DecidableEq, Repr

/-- An entry of the decode map: a condition and a report flag (Table 2-1, fields 28 to 35). -/
structure MapEntry where
  cond : Condition
  report : Bool
  deriving DecidableEq, Repr

/-- A profile record: the fields of Table 2-1 in field index order. -/
structure Profile where
  rate : Nat
  dataBits : Nat
  parity : Parity
  stopBits : StopBits
  outPacing : OutPacing
  readyGate : Bool
  stopCode : Byte
  goCode : Byte
  goOnAny : Bool
  blockEnd : Byte
  ackCode : Byte
  nakCode : Option Byte
  blockLimit : Nat
  window : Nat
  ackTimeout : Nat
  retryLimit : Nat
  blockLinger : Nat
  pauseTimeout : Nat
  gap : Nat
  inPacing : InPacing
  highMark : Nat
  lowMark : Nat
  flushCode : Option Byte
  inboundIdle : Nat
  outQuota : Nat
  inQuota : Nat
  decoding : Bool
  debounce : Nat
  map : Vector MapEntry 8
  breakTime : Nat
  breakAction : BreakAction
  grantStep : Nat
  deriving DecidableEq, Repr

/-! ## Cells (Table 1-6) -/

/-- A cell of an outbound queue: its first position and the bytes written; its fill is their number (R9). -/
structure OutCell where
  first : Pos
  bytes : List Byte
  deriving DecidableEq, Repr

/-- A cell of an inbound queue: the bytes written, whether it is sealed, and whether a DATA frame carries it (R20 to R22).
The field `isSealed` is the "sealed" field of Table 1-6. -/
structure InCell where
  bytes : List Byte
  isSealed : Bool
  inFrame : Bool
  deriving DecidableEq, Repr

/-! ## Line control (Table 3-1) -/

inductive LineState where
  | closed
  | running
  | held
  | stalled
  | draining
  deriving DecidableEq, Repr

inductive LongKind where
  | closeDrain
  | closeAbort
  | flush
  | sendBreak
  deriving DecidableEq, Repr

/-- A line's long request (Table 3-1): its kind, its slot (`none`: unanswered, R45), whether the completion of a drain
has been taken (R48), and the two discarded-byte counts its response will carry (R48, R50, R53). -/
structure LongReq where
  kind : LongKind
  slot : Option (Fin 4)
  completing : Bool
  inBytes : Nat
  outBytes : Nat
  deriving DecidableEq, Repr

/-- The ten line counters (Table 3-4), in the table's order. -/
structure Counters where
  sent : Nat
  received : Nat
  framing : Nat
  parity : Nat
  overruns : Nat
  breaks : Nat
  resends : Nat
  strayAcks : Nat
  lateAcks : Nat
  refused : Nat
  deriving DecidableEq, Repr

/-! ## Outbound pacer and transmitter (Tables 4-1, 4-2) -/

/-- The kind of the character in the shift register (Table 4-1); a data byte has its stored position. -/
inductive CharKind where
  | data (pos : Pos)
  | insertedEnd
  | pacingCode
  deriving DecidableEq, Repr

/-- Which block end the character in the shift register is: none, the end of the open block, or the re-sent end of the
outstanding entry that ends at the position (R76, R85; log 14). -/
inductive EndRole where
  | noEnd
  | openEnd
  | entryEnd (fin : Pos)
  deriving DecidableEq, Repr

/-- A character as it is framed on TXDn or RXDn after its start bit (R27): data bits least significant first, the parity
bit if any, and the stop bits at mark. -/
structure CharFrame where
  dataBits : List Bool
  parityBit : Option Bool
  stopBits : StopBits
  deriving DecidableEq, Repr

/-- The character in the shift register: its kind, the byte, the end it is, and its framing. -/
structure ShiftChar where
  kind : CharKind
  byte : Byte
  role : EndRole
  frame : CharFrame
  deriving DecidableEq, Repr

/-- The transmitter state (Table 4-1). -/
inductive TxState where
  | idle
  | character (c : ShiftChar)
  | gap
  | brk
  deriving DecidableEq, Repr

/-- The block being sent for the first time (Table 4-1); `ended` is set from the start of its end (log 13). -/
structure OpenBlock where
  start : Pos
  count : Nat
  ended : Bool
  deriving DecidableEq, Repr

/-- How a block was ended the first time it was sent (Table 4-2). -/
inductive EndKind where
  | inData
  | inserted
  deriving DecidableEq, Repr

/-- An outstanding-block entry (Table 4-2); `fin` is its end, exclusive. -/
structure Block where
  start : Pos
  fin : Pos
  kind : EndKind
  sent : Bool
  deriving DecidableEq, Repr

/-- The state of a SEND BREAK (Table 4-1). -/
inductive BreakState where
  | none
  | pending
  | inProgress
  deriving DecidableEq, Repr

/-- The pause episode (Table 4-1). -/
inductive PauseEpisode where
  | none
  | running
  | reported
  deriving DecidableEq, Repr

/-! ## Receiver, inbound pacer (Table 5-1) -/

inductive RxState where
  | idle
  | character
  | brk
  deriving DecidableEq, Repr

/-- An inbound pacing state (Table 5-1). -/
inductive Pace where
  | go
  | stop
  deriving DecidableEq, Repr

/-! ## Patterns and markers (Tables 7-1, 7-2) -/

inductive PatternAction where
  | mark
  | hold
  | strip
  deriving DecidableEq, Repr

/-- A pattern entry (Table 7-1). The line set has line 0 in its least significant bit (chapter 9.7). -/
structure Pattern where
  inUse : Bool
  length : Nat
  bytes : Vector Byte 4
  action : PatternAction
  tag : Byte
  lineSet : BitVec 8
  deriving DecidableEq, Repr

inductive MarkerKind where
  | mark
  | hold
  deriving DecidableEq, Repr

/-- A marker (Table 7-2): `pos` is the stored position, `accepted` the accepted position. -/
structure Marker where
  kind : MarkerKind
  tag : Byte
  entry : Fin 16
  pos : Pos
  accepted : Pos
  reached : Bool
  deriving DecidableEq, Repr

/-! ## A line: every record kept once per line -/

structure Line where
  binding : Fin 8
  state : LineState
  long : Option LongReq
  counters : Counters
  A : Pos
  S : Pos
  T : Pos
  Rt : Pos
  Lsent : Pos
  grantDue : Bool
  recentGrant : Bool
  resOut : Nat
  resIn : Nat
  outQ : List OutCell
  inQ : List InCell
  tx : TxState
  openBlock : Option OpenBlock
  endWaiting : Bool
  blocks : List Block
  resend : Bool
  retry : Nat
  stopped : Bool
  brk : BreakState
  pause : PauseEpisode
  gapTimer : Timer
  ackTimer : AckTimer
  pauseTimer : Timer
  lingerTimer : Timer
  breakTimer : Timer
  rx : RxState
  armed : Bool
  idleTimer : Timer
  wanted : Pace
  lastSent : Pace
  paused : Bool
  rdyo : Bool
  settled : Fin 8
  candidate : Option (Fin 8)
  debounceTimer : Timer
  cond : Condition
  lastReported : Condition
  unreported : Nat
  markers : List Marker
  rxd : Level
  rdyi : Bool
  st : Fin 8
  auxo : Bool
  deriving DecidableEq, Repr

/-! ## Events (Tables 8-1, 8-2) -/

/-- The TIMEOUT cause set, least significant bit first (Table 10-10). -/
structure CauseSet where
  stopCode : Bool
  readyLow : Bool
  condition : Bool
  deriving DecidableEq, Repr

/-- The LINE ERROR kind set, least significant bit first (Table 10-10). -/
structure KindSet where
  framing : Bool
  parity : Bool
  overrun : Bool
  brk : Bool
  strayAck : Bool
  lateAck : Bool
  deriving DecidableEq, Repr

/-- The REFUSED reason set, least significant bit first (Table 10-10). -/
structure ReasonSet where
  credit : Bool
  closed : Bool
  markerOverflow : Bool
  deriving DecidableEq, Repr

/-- An event, and a record of the pending table: the fields of its class (Table 8-1). -/
inductive EventRec where
  | trunk (crc header gaps duplicates unknown dropped : Nat)
  | stall (outstanding retries : Nat) (oldest : Pos)
  | timeout (causes : CauseSet) (occurrences : Nat)
  | condition (current last : Condition) (changes : Nat)
  | lineError (kinds : KindSet) (framing parity overrun : Nat)
  | refused (reasons : ReasonSet) (frames bytes : Nat)
  | mark (count : Nat) (tag : Byte) (accepted : Pos)
  | hold (tag : Byte) (accepted : Pos)
  deriving DecidableEq, Repr

/-- An in-service report record (R138): its records in ascending source order. Source 8 is the part (chapter 8.1). -/
structure Report where
  cls : Fin 8
  number : Byte
  records : List (Fin 9 × EventRec)
  deriving DecidableEq, Repr

/-- A class entry of the Event Unit (R138). -/
structure ClassEntry where
  mask : Bool
  number : Byte
  report : Option Report
  timer : Timer
  due : Bool
  deriving DecidableEq, Repr

inductive OrderMode where
  | fixed
  | rotating
  deriving DecidableEq, Repr

/-- The Event Unit (R138). The pending table has a row for each class and in it a place for each source. -/
structure EventUnit where
  pending : Vector (Vector (Option EventRec) 9) 8
  classes : Vector ClassEntry 8
  order : List (Fin 8)
  mode : OrderMode
  interval : Nat
  deriving DecidableEq, Repr

/-! ## Requests (Tables 9-1 to 9-4) -/

/-- The result codes (Table 9-3), in the order of their values. -/
inductive Result where
  | ok
  | busy
  | duplicateTag
  | unknownRequest
  | badOperand
  | badProfile
  | profileInUse
  | noRoom
  | wrongState
  | lineBusy
  | notInService
  | drainFailed
  | aborted
  deriving DecidableEq, Repr

/-- A result and its data (R161). -/
structure Reply where
  result : Result
  data : List Byte
  deriving DecidableEq, Repr

/-- The phase of a held slot (R159); a completed or sending slot has its response. -/
inductive Phase where
  | inProgress
  | completed (r : Reply)
  | sending (r : Reply)
  deriving DecidableEq, Repr

/-- The owners of requests (Table 9-4). -/
inductive Owner where
  | trunkPort
  | requestUnit
  | cellPool
  | profileTable
  | lineControl
  | outboundPacer
  | inboundPacer
  | statusDecoder
  | patternUnit
  | eventUnit
  deriving DecidableEq, Repr

/-- A held slot (R159). -/
structure Slot where
  num : Fin 4
  code : Byte
  tag : Byte
  owner : Owner
  line : Option (Fin 8)
  phase : Phase
  deriving DecidableEq, Repr

/-- An entry of the refusal list (R158). -/
structure RefusalEntry where
  tag : Byte
  code : Byte
  result : Result
  deriving DecidableEq, Repr

/-- An item of the response order (R160): a completed slot, or the next refusal-list entry. The refusals of the list stand
in the response order in the order they were made, so the item need not say which. -/
inductive RespItem where
  | slot (num : Fin 4)
  | refusal
  deriving DecidableEq, Repr

/-- A PART RESET in progress (R163): its slot (`none` once a link restart has released it, R162) and keep or clear. -/
structure PartReset where
  slot : Option (Fin 4)
  clear : Bool
  deriving DecidableEq, Repr

/-- The Request Unit (R156 to R163). Slots stand in order of admission. -/
structure RequestUnit where
  slots : List Slot
  refusals : List RefusalEntry
  order : List RespItem
  dropped : Nat
  partReset : Option PartReset
  deriving DecidableEq, Repr

/-! ## Cell pool -/

/-- The part-wide counts of the pool and the grant refresh (R5, R18). -/
structure Pool where
  free : Nat
  unreserved : Nat
  refresh : Nat
  refreshTimer : Timer
  deriving DecidableEq, Repr

/-! ## Trunk port (Tables 10-1 to 10-4) -/

/-- The three header bytes of a frame (Table 10-1). -/
structure FrameHeader where
  kindChannel : Byte
  seq : Byte
  length : Byte
  deriving DecidableEq, Repr

/-- The frame receiver (R169): its four states with the bytes kept, and its two waits for TRX to return to mark, after a
space-stop character abandoned a frame and after a trunk break (R169, R174; log 12). -/
inductive TrunkRx where
  | hunt
  | header (kept : List Byte)
  | payload (h : FrameHeader) (kept : List Byte)
  | check (h : FrameHeader) (payload kept : List Byte)
  | abandoned
  | afterBreak
  deriving DecidableEq, Repr

inductive LinkState where
  | announcing
  | up
  deriving DecidableEq, Repr

/-- The reset cause (Table 10-4; code 2 is reserved). -/
inductive ResetCause where
  | powerOn
  | trunkBreak
  | sessionRestart
  deriving DecidableEq, Repr

/-- The kinds of frame the part builds (R176). -/
inductive FrameKind where
  | data
  | response
  | report
  | grant
  | announce
  deriving DecidableEq, Repr

/-- What the frame on TTX gives back at its end: the inbound cells of a line (R22), a slot (R159), the sending entry of
the refusal list (R158), or nothing. -/
inductive Carry where
  | nothing
  | cells (line : Fin 8)
  | slot (num : Fin 4)
  | refusal
  deriving DecidableEq, Repr

/-- A frame on TTX (Table 10-1): the header check and CRC are computed from it (R168). -/
structure TxFrame where
  kind : FrameKind
  channel : BitVec 4
  seq : Byte
  payload : List Byte
  carries : Carry
  deriving DecidableEq, Repr

/-- The session response (R173): its tag and its data, fixed when START SESSION is taken. -/
structure SessionResponse where
  tag : Byte
  data : List Byte
  deriving DecidableEq, Repr

/-- The seven trunk counters (R177), in the table's order. -/
structure TrunkCounters where
  crc : Nat
  header : Nat
  gaps : Nat
  duplicates : Nat
  unknown : Nat
  hunt : Nat
  restarts : Nat
  deriving DecidableEq, Repr

/-- The Trunk Port (Tables 10-3, 10-5). -/
structure Trunk where
  trs1 : Bool
  trs0 : Bool
  trx : Level
  link : LinkState
  cause : ResetCause
  lastAccepted : Byte
  txSeq : Byte
  announceTimer : Timer
  announceDue : Bool
  pointer : Fin 8
  session : Option SessionResponse
  counters : TrunkCounters
  rx : TrunkRx
  tx : Option TxFrame
  deriving DecidableEq, Repr

end Sys2Proof.Machine
end

