-- ==== Sys2Proof/Machine/Operands.lean ====
section
/-!
DEFINITION. The byte layouts the computer sees on the trunk (chapter 10.10), the codes they carry (Tables 2-2, 9-3, 9-4, 10-4, 10-13), the header check and CRC of a frame (R168), and the LOAD PROFILE checks (R31 to R35).
-/
namespace Sys2Proof.Machine

/-! ## Multi-byte fields (R1) -/

/-- A two-byte field, most significant byte first (R1). -/
def be16 (n : Nat) : List Byte := [BitVec.ofNat 8 (n / 256), BitVec.ofNat 8 n]

/-- A four-byte position, most significant byte first (R1). -/
def be32 (p : Pos) : List Byte :=
  [p.extractLsb' 24 8, p.extractLsb' 16 8, p.extractLsb' 8 8, p.extractLsb' 0 8]

/-- A one-byte number. -/
def byteOf (n : Nat) : Byte := BitVec.ofNat 8 n

/-- An on/off field: 0 or 1 (Table 2-2). -/
def bitByte (b : Bool) : Byte := if b then 1#8 else 0#8

/-- A flag byte whose bit c is the flag at place c, place 0 in the least significant bit (Table 10-13, Table 10-10). -/
def flagByte (flags : List Bool) : Byte :=
  byteOf (flags.foldr (fun f n => (if f then 1 else 0) + 2 * n) 0)

/-- The byte of a record at an offset. -/
def u8 (r : List Byte) (o : Nat) : Nat := (r.getD o 0#8).toNat

/-- The two-byte field of a record at an offset (R1). -/
def u16 (r : List Byte) (o : Nat) : Nat := u8 r o * 256 + u8 r (o + 1)

/-! ## Codes -/

def Condition.code : Condition → Nat
  | .ready => 0
  | .busy => 1
  | .offline => 2
  | .mediaOut => 3
  | .fault => 4
  | .detached => 5
  | .invalid => 6

def Condition.ofCode : Nat → Condition
  | 0 => .ready
  | 1 => .busy
  | 2 => .offline
  | 3 => .mediaOut
  | 4 => .fault
  | 5 => .detached
  | _ => .invalid

def Parity.code : Parity → Nat
  | .none => 0
  | .even => 1
  | .odd => 2
  | .mark => 3
  | .space => 4

def Parity.ofCode : Nat → Parity
  | 0 => .none
  | 1 => .even
  | 2 => .odd
  | 3 => .mark
  | _ => .space

def StopBits.code : StopBits → Nat
  | .one => 0
  | .oneAndHalf => 1
  | .two => 2

def StopBits.ofCode : Nat → StopBits
  | 0 => .one
  | 1 => .oneAndHalf
  | _ => .two

def OutPacing.num : OutPacing → Nat
  | .none => 0
  | .code => 1
  | .block => 2

def OutPacing.ofNum : Nat → OutPacing
  | 0 => .none
  | 1 => .code
  | _ => .block

def InPacing.num : InPacing → Nat
  | .none => 0
  | .code => 1
  | .line => 2

def InPacing.ofNum : Nat → InPacing
  | 0 => .none
  | 1 => .code
  | _ => .line

def BreakAction.code : BreakAction → Nat
  | .report => 0
  | .flush => 1

def BreakAction.ofCode : Nat → BreakAction
  | 0 => .report
  | _ => .flush

/-- Table 10-13. -/
def LineState.code : LineState → Nat
  | .closed => 0
  | .running => 1
  | .held => 2
  | .stalled => 3
  | .draining => 4

/-- Table 10-13: the code of a long request kind; 0 is none. -/
def LongKind.code : LongKind → Nat
  | .closeDrain => 1
  | .closeAbort => 2
  | .flush => 3
  | .sendBreak => 4

/-- Table 9-3. -/
def Result.code : Result → Byte
  | .ok => 0x00#8
  | .busy => 0x01#8
  | .duplicateTag => 0x02#8
  | .unknownRequest => 0x03#8
  | .badOperand => 0x04#8
  | .badProfile => 0x05#8
  | .profileInUse => 0x06#8
  | .noRoom => 0x07#8
  | .wrongState => 0x08#8
  | .lineBusy => 0x09#8
  | .notInService => 0x0A#8
  | .drainFailed => 0x0B#8
  | .aborted => 0x0C#8

/-- Table 10-4. -/
def ResetCause.code : ResetCause → Byte
  | .powerOn => 0#8
  | .trunkBreak => 1#8
  | .sessionRestart => 3#8

def OrderMode.code : OrderMode → Byte
  | .fixed => 0#8
  | .rotating => 1#8

/-- The action codes of LOAD PATTERN (R125). -/
def PatternAction.code : PatternAction → Byte
  | .mark => 0#8
  | .hold => 1#8
  | .strip => 2#8

def PatternAction.ofCode : Nat → PatternAction
  | 0 => .mark
  | 1 => .hold
  | _ => .strip

/-- The kinds of Table 10-2 and R176. -/
def FrameKind.code : FrameKind → BitVec 4
  | .data => 1#4
  | .response => 3#4
  | .report => 4#4
  | .grant => 5#4
  | .announce => 6#4

/-! ## Requests (Table 9-4) -/

/-- The requests the part knows (Table 9-4). -/
inductive ReqCode where
  | startSession
  | readPart
  | partReset
  | setGrantRefresh
  | loadProfile
  | readProfile
  | bindLine
  | openLine
  | closeLine
  | flush
  | resume
  | discardBlocks
  | readLine
  | sendBreak
  | pauseInbound
  | resumeInbound
  | setAux
  | loadPattern
  | clearPattern
  | readPattern
  | ackEvent
  | setEventMask
  | setEventOrder
  | setRepeatInterval
  | readEvents
  deriving DecidableEq, Repr

/-- The code of a request (Table 9-4). -/
def ReqCode.byte : ReqCode → Byte
  | .startSession => 0x01#8
  | .readPart => 0x02#8
  | .partReset => 0x03#8
  | .setGrantRefresh => 0x04#8
  | .loadProfile => 0x10#8
  | .readProfile => 0x11#8
  | .bindLine => 0x12#8
  | .openLine => 0x20#8
  | .closeLine => 0x21#8
  | .flush => 0x22#8
  | .resume => 0x23#8
  | .discardBlocks => 0x24#8
  | .readLine => 0x25#8
  | .sendBreak => 0x26#8
  | .pauseInbound => 0x27#8
  | .resumeInbound => 0x28#8
  | .setAux => 0x29#8
  | .loadPattern => 0x30#8
  | .clearPattern => 0x31#8
  | .readPattern => 0x32#8
  | .ackEvent => 0x40#8
  | .setEventMask => 0x41#8
  | .setEventOrder => 0x42#8
  | .setRepeatInterval => 0x43#8
  | .readEvents => 0x44#8

/-- Every request of Table 9-4. -/
def ReqCode.all : List ReqCode :=
  [.startSession, .readPart, .partReset, .setGrantRefresh, .loadProfile, .readProfile, .bindLine, .openLine,
   .closeLine, .flush, .resume, .discardBlocks, .readLine, .sendBreak, .pauseInbound, .resumeInbound, .setAux,
   .loadPattern, .clearPattern, .readPattern, .ackEvent, .setEventMask, .setEventOrder, .setRepeatInterval, .readEvents]

/-- The request of a code; a code not in Table 9-4 is unknown (R157 check 2). -/
def ReqCode.ofByte (b : Byte) : Option ReqCode := ReqCode.all.find? (fun c => c.byte == b)

/-- The operand length of a request (Table 9-4; the LOAD PROFILE operand is 47 bytes, Table 10-8). START SESSION takes any
length and does not reach this check (R157). -/
def ReqCode.operandBytes : ReqCode → Nat
  | .startSession => 0
  | .readPart => 1
  | .partReset => 1
  | .setGrantRefresh => 1
  | .loadProfile => 47
  | .readProfile => 1
  | .bindLine => 2
  | .openLine => 1
  | .closeLine => 2
  | .flush => 2
  | .resume => 1
  | .discardBlocks => 1
  | .readLine => 2
  | .sendBreak => 1
  | .pauseInbound => 1
  | .resumeInbound => 1
  | .setAux => 2
  | .loadPattern => 9
  | .clearPattern => 1
  | .readPattern => 1
  | .ackEvent => 3
  | .setEventMask => 1
  | .setEventOrder => 2
  | .setRepeatInterval => 1
  | .readEvents => 0

/-- The owner of a request (Table 9-4). -/
def ReqCode.owner : ReqCode → Owner
  | .startSession => .trunkPort
  | .readPart => .requestUnit
  | .partReset => .requestUnit
  | .setGrantRefresh => .cellPool
  | .loadProfile => .profileTable
  | .readProfile => .profileTable
  | .bindLine => .profileTable
  | .openLine => .lineControl
  | .closeLine => .lineControl
  | .flush => .lineControl
  | .resume => .lineControl
  | .discardBlocks => .lineControl
  | .readLine => .lineControl
  | .sendBreak => .outboundPacer
  | .pauseInbound => .inboundPacer
  | .resumeInbound => .inboundPacer
  | .setAux => .statusDecoder
  | .loadPattern => .patternUnit
  | .clearPattern => .patternUnit
  | .readPattern => .patternUnit
  | .ackEvent => .eventUnit
  | .setEventMask => .eventUnit
  | .setEventOrder => .eventUnit
  | .setRepeatInterval => .eventUnit
  | .readEvents => .eventUnit

/-- A number operand that names one of n things, if it is in range. -/
def indexOperand (n : Nat) (ops : List Byte) (o : Nat) : Option (Fin n) :=
  if h : u8 ops o < n then some ⟨u8 ops o, h⟩ else none

/-- Whether the first operand of a request names a line (the line requests of Table 9-4). -/
def ReqCode.namesLine : ReqCode → Bool
  | .bindLine | .openLine | .closeLine | .flush | .resume | .discardBlocks | .readLine | .sendBreak
  | .pauseInbound | .resumeInbound | .setAux => true
  | _ => false

/-! ## Frames (Table 10-1, R168) -/

/-- The header check: the ones' complement of the 8-bit sum of the three header bytes (R168). -/
def headerCheck (kindChannel seq length : Byte) : Byte := ~~~(kindChannel + seq + length)

/-- One bit of the CRC register's shift: polynomial 1021h (R168). -/
def crcShift (c : BitVec 16) : BitVec 16 :=
  if c.msb then (c <<< 1) ^^^ 0x1021#16 else c <<< 1

/-- One byte taken into the CRC, most significant bit first (R168). -/
def crcByte (c : BitVec 16) (b : Byte) : BitVec 16 :=
  Nat.repeat crcShift 8 (c ^^^ ((b.setWidth 16) <<< 8))

/-- The CRC of bytes: initial value FFFFh, no final inversion (R168). -/
def crc16 (bytes : List Byte) : BitVec 16 := bytes.foldl crcByte 0xFFFF#16

/-- The two CRC bytes, high byte first (R168). -/
def crcBytes (bytes : List Byte) : List Byte :=
  [(crc16 bytes).extractLsb' 8 8, (crc16 bytes).extractLsb' 0 8]

/-- The kind-and-channel byte: kind in the high four bits, channel in the low four (Table 10-1). -/
def kindChannelByte (kind channel : BitVec 4) : Byte := kind ++ channel

/-- The bytes of a frame after its start code (Table 10-1). -/
def frameBody (kind channel : BitVec 4) (seq : Byte) (payload : List Byte) : List Byte :=
  let k := kindChannelByte kind channel
  let n := byteOf payload.length
  [k, seq, n, headerCheck k seq n] ++ payload ++ crcBytes ([k, seq, n] ++ payload)

/-- The bytes of a frame (Table 10-1). -/
def frameBytes (kind channel : BitVec 4) (seq : Byte) (payload : List Byte) : List Byte :=
  Config.startCode :: frameBody kind channel seq payload

/-- The bytes of a frame on TTX (R168, R176). -/
def TxFrame.bytes (f : TxFrame) : List Byte := frameBytes f.kind.code f.channel f.seq f.payload

/-! ## Character framing (R27) -/

/-- The data bits sent of a byte, least significant first; bits above the data width are not sent (R27). -/
def dataBitList (width : Nat) (b : Byte) : List Bool := (List.range width).map (fun i => b.getLsbD i)

/-- The byte with the bits above the data width zero (R94). -/
def maskWidth (width : Nat) (b : Byte) : Byte := b &&& BitVec.ofNat 8 (2 ^ width - 1)

/-- The parity bit the profile's parity calls for over data bits (R27); none under NONE. -/
def parityBitOf (p : Parity) (bits : List Bool) : Option Bool :=
  let odd := bits.foldl (fun a b => a != b) false
  match p with
  | .none => none
  | .even => some odd
  | .odd => some (!odd)
  | .mark => some true
  | .space => some false

/-- A byte framed by a profile (R27). -/
def frameChar (p : Profile) (b : Byte) : CharFrame :=
  let bits := dataBitList p.dataBits b
  ⟨bits, parityBitOf p.parity bits, p.stopBits⟩

/-- Half bit periods of the stop bits (chapter 1.6, "Character time"). -/
def StopBits.halfBits : StopBits → Nat
  | .one => 2
  | .oneAndHalf => 3
  | .two => 4

/-- The levels of TXDn over a framed character, one for each half bit period: the start bit at space, data bits and parity
bit (1 at mark), stop bits at mark (R27). -/
def CharFrame.levels (f : CharFrame) : List Level :=
  let bit := fun b => if b then [Level.mark, Level.mark] else [Level.space, Level.space]
  [Level.space, Level.space] ++ f.dataBits.flatMap bit ++ f.parityBit.toList.flatMap bit
    ++ List.replicate f.stopBits.halfBits Level.mark

/-! ## Trunk characters (R167) -/

/-- A byte as it is framed on TTX and TRX after its start bit: eight data bits, least significant first, no parity bit and one
stop bit (R167). -/
def trunkChar (b : Byte) : CharFrame := ⟨dataBitList 8 b, none, .one⟩

/-- The levels of TTX over a frame, one for each half bit period, its characters one after another; idle time between two of them,
of which R167 says nothing, has no place in the list (log 4). -/
def TxFrame.levels (f : TxFrame) : List Level := f.bytes.flatMap (fun b => (trunkChar b).levels)

/-- The byte of eight sampled data bits, least significant first (R167). -/
def byteOfBits (bits : List Level) : Byte :=
  bits.foldr (fun b v => (v <<< 1) ||| (if b = .mark then 1#8 else 0#8)) 0#8

/-- What a trunk character is from its samples at the middles of its bit periods (R167): none where the start bit is not
confirmed, else a byte or a space-stop character by the stop bit. -/
def trunkCharOf : List Level → Option TrunkChar
  | [start, b0, b1, b2, b3, b4, b5, b6, b7, stop] =>
      if start = .mark then none
      else if stop = .mark then some (.byte (byteOfBits [b0, b1, b2, b3, b4, b5, b6, b7]))
      else some .spaceStop
  | _ => none

/-! ## Rates -/

/-- The divisor of 921600 for a rate index (Table 2-3). -/
def rateDivisor : Nat → Nat
  | 0 => 18432
  | 1 => 8378
  | 2 => 6144
  | 3 => 3072
  | 4 => 1536
  | 5 => 768
  | 6 => 384
  | 7 => 192
  | 8 => 96
  | 9 => 48
  | 10 => 24
  | 11 => 16
  | _ => 8

/-- The trunk rate in bit/s for the sampled straps (Table 1-2). -/
def trunkRate (trs1 trs0 : Bool) : Nat :=
  match trs1, trs0 with
  | false, false => 230400
  | false, true => 460800
  | true, false => 921600
  | true, true => 1843200

/-! ## Profile records (Tables 2-1, 2-2, 10-8) -/

/-- The byte of a decode map entry: condition code in the low three bits, report flag in the most significant (R26). -/
def MapEntry.byte (m : MapEntry) : Byte :=
  byteOf (m.cond.code + (if m.report then 128 else 0))

/-- Whether a decode map byte carries listed values and zeros in its other four bits (R26). -/
def mapByteOk (b : Byte) : Bool := (b &&& 0x78#8) == 0#8 && (b &&& 0x07#8) != 0x07#8

def MapEntry.ofByte (b : Byte) : MapEntry := ⟨Condition.ofCode (b &&& 0x07#8).toNat, b.msb⟩

/-- An optional code: presence flag and byte, the byte 00h when absent (R26). -/
def optCodeBytes : Option Byte → List Byte
  | none => [0#8, 0#8]
  | some b => [1#8, b]

def optCodeOf (r : List Byte) (o : Nat) : Option Byte :=
  if u8 r o = 1 then some (r.getD (o + 1) 0#8) else none

/-- The 46 bytes of a profile record (Table 10-8). -/
def Profile.bytes (p : Profile) : List Byte :=
  [byteOf p.rate, byteOf p.dataBits, byteOf p.parity.code, byteOf p.stopBits.code, byteOf p.outPacing.num,
   bitByte p.readyGate, p.stopCode, p.goCode, bitByte p.goOnAny, p.blockEnd, p.ackCode]
  ++ optCodeBytes p.nakCode
  ++ be16 p.blockLimit ++ [byteOf p.window] ++ be16 p.ackTimeout ++ [byteOf p.retryLimit]
  ++ be16 p.blockLinger ++ be16 p.pauseTimeout ++ [byteOf p.gap]
  ++ [byteOf p.inPacing.num, byteOf p.highMark, byteOf p.lowMark]
  ++ optCodeBytes p.flushCode
  ++ [byteOf p.inboundIdle, byteOf p.outQuota, byteOf p.inQuota, bitByte p.decoding, byteOf p.debounce]
  ++ (p.map.toList.map MapEntry.byte)
  ++ [byteOf p.breakTime, byteOf p.breakAction.code] ++ be16 p.grantStep

/-- The profile a 46-byte record carries (Table 10-8); absent codes are stored as absent whatever byte the record carried (R26). -/
def Profile.ofBytes (r : List Byte) : Profile where
  rate := u8 r 0
  dataBits := u8 r 1
  parity := Parity.ofCode (u8 r 2)
  stopBits := StopBits.ofCode (u8 r 3)
  outPacing := OutPacing.ofNum (u8 r 4)
  readyGate := u8 r 5 == 1
  stopCode := r.getD 6 0#8
  goCode := r.getD 7 0#8
  goOnAny := u8 r 8 == 1
  blockEnd := r.getD 9 0#8
  ackCode := r.getD 10 0#8
  nakCode := optCodeOf r 11
  blockLimit := u16 r 13
  window := u8 r 15
  ackTimeout := u16 r 16
  retryLimit := u8 r 18
  blockLinger := u16 r 19
  pauseTimeout := u16 r 21
  gap := u8 r 23
  inPacing := InPacing.ofNum (u8 r 24)
  highMark := u8 r 25
  lowMark := u8 r 26
  flushCode := optCodeOf r 27
  inboundIdle := u8 r 29
  outQuota := u8 r 30
  inQuota := u8 r 31
  decoding := u8 r 32 == 1
  debounce := u8 r 33
  map := Vector.ofFn (fun i : Fin 8 => MapEntry.ofByte (r.getD (34 + i.val) 0#8))
  breakTime := u8 r 42
  breakAction := BreakAction.ofCode (u8 r 43)
  grantStep := u16 r 44

/-- Whether a number lies in an inclusive range. -/
def within (lo hi n : Nat) : Bool := decide (lo ≤ n) && decide (n ≤ hi)

/-- The range check of each field, in ascending field index (R31, Tables 2-1 and 2-2). -/
def rangeChecks (r : List Byte) : List Bool :=
  [within 0 12 (u8 r 0), within 5 8 (u8 r 1), within 0 4 (u8 r 2), within 0 2 (u8 r 3), within 0 2 (u8 r 4),
   within 0 1 (u8 r 5), true, true, within 0 1 (u8 r 8), true, true, within 0 1 (u8 r 11), within 1 1024 (u16 r 13),
   within 1 4 (u8 r 15), within 10 65535 (u16 r 16), within 0 7 (u8 r 18), true,
   u16 r 21 == 0 || within 10 65535 (u16 r 21), true, within 0 2 (u8 r 24), within 2 64 (u8 r 25), within 1 63 (u8 r 26),
   within 0 1 (u8 r 27), within 1 255 (u8 r 29), within 2 128 (u8 r 30), within 2 64 (u8 r 31), within 0 1 (u8 r 32), true]
  ++ (List.range 8).map (fun i => mapByteOk (r.getD (34 + i) 0#8))
  ++ [within 1 255 (u8 r 42), within 0 1 (u8 r 43), within 16 2048 (u16 r 44)]

/-- The field index of the first field outside its range (R31). -/
def rangeFail (r : List Byte) : Option Nat := (rangeChecks r).findIdx? (fun ok => !ok)

/-- Whether a code fits the data width (R33). -/
def Profile.fits (p : Profile) (b : Byte) : Bool := decide (b.toNat < 2 ^ p.dataBits)

/-- The codes the profile's modes put into use, with their field indexes, in ascending field index (R33). -/
def Profile.codesInUse (p : Profile) : List (Nat × Byte) :=
  (if p.outPacing = .code ∨ p.inPacing = .code then [(6, p.stopCode), (7, p.goCode)] else [])
  ++ (if p.outPacing = .block then [(9, p.blockEnd), (10, p.ackCode)] ++ p.nakCode.toList.map (fun b => (11, b)) else [])
  ++ p.flushCode.toList.map (fun b => (22, b))

/-- The codes the receiver consumes under the outbound pacing mode (R34 check 8). -/
def Profile.consumed (p : Profile) : List Byte :=
  match p.outPacing with
  | .none => []
  | .code => [p.stopCode, p.goCode]
  | .block => p.ackCode :: p.nakCode.toList

/-- The consistency checks in the order of Table 2-5 (R32 to R34): the failing ones, each with the field it reports. -/
def consistencyFailures (p : Profile) : List Nat :=
  (if p.stopBits = .oneAndHalf ∧ p.dataBits ≠ 5 then [3] else [])
  ++ (if p.highMark ≤ p.lowMark then [21] else [])
  ++ (if p.inQuota < p.highMark then [20] else [])
  ++ (p.codesInUse.filter (fun c => !p.fits c.2)).map Prod.fst
  ++ (if (p.outPacing = .code ∨ p.inPacing = .code) ∧ p.stopCode = p.goCode then [7] else [])
  ++ (if p.outPacing = .block ∧ p.nakCode = some p.ackCode then [11] else [])
  ++ (if p.inPacing = .code ∧ p.outPacing = .block then
        (if p.stopCode = p.ackCode ∨ p.nakCode = some p.stopCode then [6] else [])
        ++ (if p.goCode = p.ackCode ∨ p.nakCode = some p.goCode then [7] else [])
      else [])
  ++ (match p.flushCode with
      | some f => if p.consumed.contains f then [22] else []
      | none => [])

/-- The field the first failing check of a record reports (R35): range checks first, then consistency checks. -/
def profileFail (r : List Byte) : Option Nat :=
  match rangeFail r with
  | some i => some i
  | none => (consistencyFailures (Profile.ofBytes r)).head?

/-! ## Event records (Table 10-10) -/

/-- The bytes of an event record after its source byte (Table 10-10). -/
def EventRec.bytes : EventRec → List Byte
  | .trunk c h g d u r => [byteOf c, byteOf h, byteOf g, byteOf d, byteOf u, byteOf r]
  | .stall o r p => [byteOf o, byteOf r] ++ be32 p
  | .timeout c n => [flagByte [c.stopCode, c.readyLow, c.condition], byteOf n]
  | .condition c l n => [byteOf c.code, byteOf l.code, byteOf n]
  | .lineError k f p o =>
      [flagByte [k.framing, k.parity, k.overrun, k.brk, k.strayAck, k.lateAck], byteOf f, byteOf p, byteOf o]
  | .refused r f b => [flagByte [r.credit, r.closed, r.markerOverflow], byteOf f] ++ be16 b
  | .mark n t p => [byteOf n, t] ++ be32 p
  | .hold t p => t :: be32 p

/-- The payload of a REPORT frame (Table 10-9). -/
def Report.payload (r : Report) : List Byte :=
  [byteOf r.cls.val, r.number] ++ r.records.flatMap (fun sr => byteOf sr.1.val :: sr.2.bytes)

end Sys2Proof.Machine
end

