-- ==== Sys2Proof/Machine/Defaults.lean ====
section
/-!
DEFINITION. The values records take after a power-on reset, and on a line's entry to CLOSED (Tables 1-8, 2-1, 3-5, 4-6, 5-5, 6-4, 7-3, 8-4, 9-4a, 10-5).
-/
namespace Sys2Proof.Machine

/-- The default of every profile field (Table 2-1, R25). -/
def Profile.default : Profile where
  rate := 8
  dataBits := 8
  parity := .none
  stopBits := .one
  outPacing := .none
  readyGate := false
  stopCode := 0x13#8
  goCode := 0x11#8
  goOnAny := false
  blockEnd := 0x03#8
  ackCode := 0x06#8
  nakCode := none
  blockLimit := 256
  window := 1
  ackTimeout := 2000
  retryLimit := 2
  blockLinger := 0
  pauseTimeout := 0
  gap := 0
  inPacing := .none
  highMark := 6
  lowMark := 2
  flushCode := none
  inboundIdle := 20
  outQuota := 16
  inQuota := 8
  decoding := false
  debounce := 10
  map := Vector.replicate 8 ⟨.ready, false⟩
  breakTime := 250
  breakAction := .report
  grantStep := 128

/-- Counters at 0 (R58). -/
def Counters.zero : Counters := ⟨0, 0, 0, 0, 0, 0, 0, 0, 0, 0⟩

/-- Trunk counters at 0 (R177). -/
def TrunkCounters.zero : TrunkCounters := ⟨0, 0, 0, 0, 0, 0, 0⟩

/-- The cleared values of a pattern entry (R124). -/
def Pattern.cleared : Pattern where
  inUse := false
  length := 1
  bytes := Vector.replicate 4 0#8
  action := .mark
  tag := 0#8
  lineSet := 0#8

/-- The values a line takes on entry to CLOSED (R52, R62, R93, R113, R24): its binding, its counters, AUXOn and the levels
of its input pins are kept, all else is at its CLOSED value. -/
def Line.closedFrom (ln : Line) : Line where
  binding := ln.binding
  state := .closed
  long := none
  counters := ln.counters
  A := 0
  S := 0
  T := 0
  Rt := 0
  Lsent := 0
  grantDue := false
  recentGrant := false
  resOut := 0
  resIn := 0
  outQ := []
  inQ := []
  tx := .idle
  openBlock := none
  endWaiting := false
  blocks := []
  resend := false
  retry := 0
  stopped := false
  brk := .none
  pause := .none
  gapTimer := .stopped
  ackTimer := .stopped
  pauseTimer := .stopped
  lingerTimer := .stopped
  breakTimer := .stopped
  rx := .idle
  armed := false
  idleTimer := .stopped
  wanted := .go
  lastSent := .go
  paused := false
  rdyo := false
  settled := 0
  candidate := none
  debounceTimer := .stopped
  cond := .ready
  lastReported := .ready
  unreported := 0
  markers := []
  rxd := ln.rxd
  rdyi := ln.rdyi
  st := ln.st
  auxo := ln.auxo

/-- A line after a power-on reset, with its input pins at the given levels (R40, R62, R93, R113, R122, R25). -/
def Line.powerOn (rxd : Level) (rdyi : Bool) (st : Fin 8) : Line where
  binding := 0
  state := .closed
  long := none
  counters := Counters.zero
  A := 0
  S := 0
  T := 0
  Rt := 0
  Lsent := 0
  grantDue := false
  recentGrant := false
  resOut := 0
  resIn := 0
  outQ := []
  inQ := []
  tx := .idle
  openBlock := none
  endWaiting := false
  blocks := []
  resend := false
  retry := 0
  stopped := false
  brk := .none
  pause := .none
  gapTimer := .stopped
  ackTimer := .stopped
  pauseTimer := .stopped
  lingerTimer := .stopped
  breakTimer := .stopped
  rx := .idle
  armed := false
  idleTimer := .stopped
  wanted := .go
  lastSent := .go
  paused := false
  rdyo := false
  settled := 0
  candidate := none
  debounceTimer := .stopped
  cond := .ready
  lastReported := .ready
  unreported := 0
  markers := []
  rxd := rxd
  rdyi := rdyi
  st := st
  auxo := false

/-- A class entry after a power-on reset (R138). -/
def ClassEntry.powerOn : ClassEntry := ⟨false, 0#8, none, .stopped, false⟩

/-- The order of mode FIXED, highest first (R141). -/
def fixedOrder : List (Fin 8) := [0, 1, 2, 3, 4, 5, 6, 7]

/-- The Event Unit after a power-on reset and after PART RESET (R138, R155). -/
def EventUnit.powerOn : EventUnit where
  pending := Vector.replicate 8 (Vector.replicate 9 none)
  classes := Vector.replicate 8 ClassEntry.powerOn
  order := fixedOrder
  mode := .fixed
  interval := Config.defaultRepeat

/-- The Request Unit after a power-on reset (R166). -/
def RequestUnit.powerOn : RequestUnit := ⟨[], [], [], 0, none⟩

/-- The pool after a power-on reset (R5, R18). -/
def Pool.powerOn : Pool := ⟨Config.poolCells, Config.poolCells, 0, .stopped⟩

/-- The Trunk Port after a power-on reset with the sampled straps and the level of TRX (R167, Table 10-3, Table 10-5). The tables
list neither the frame on TTX nor the session response: that both are none then is the model's choice (log 33). -/
def Trunk.powerOn (trs1 trs0 : Bool) (trx : Level) : Trunk where
  trs1 := trs1
  trs0 := trs0
  trx := trx
  link := .announcing
  cause := .powerOn
  lastAccepted := 0#8
  txSeq := 0#8
  announceTimer := .stopped
  announceDue := true
  pointer := 0
  session := none
  counters := TrunkCounters.zero
  rx := .hunt
  tx := none

end Sys2Proof.Machine
end

