-- ==== Sys2Proof/Machine/State.lean ====
section
/-!
DEFINITION. The state of the LC8: every table, line, count and queue the spec gives it, and the queue of commands not yet taken.
-/
namespace Sys2Proof.Machine

/-- The state of the part. `pending` is the queue of commands, first in first out. -/
structure State where
  pool : Pool
  profiles : Vector Profile 8
  patterns : Vector Pattern 16
  lines : Vector Line 8
  events : EventUnit
  reqs : RequestUnit
  trunk : Trunk
  pending : List Instr
  deriving DecidableEq, Repr

/-- The reasons a step can fault. There are none: the spec gives the part no behaviour that stops it. -/
inductive Fault where
  deriving DecidableEq, Repr

/-- The reasons a command can have no meaning in the model. -/
inductive Refusal where
  /-- Raised by an arm of `exec` whose command has no meaning yet; safe. No arm is left so. -/
  | notModelled (mnemonic : String)
  deriving DecidableEq, Repr

/-- The part right after a power-on reset: every record at its power-on value (R4, R25, R40, R62, R93, R113, R124, R138, R166,
Table 10-5). The levels of the input pins are log 9. -/
def State.reset : State where
  pool := Pool.powerOn
  profiles := Vector.replicate 8 Profile.default
  patterns := Vector.replicate 16 Pattern.cleared
  lines := Vector.replicate 8 (Line.powerOn .mark false 0)
  events := EventUnit.powerOn
  reqs := RequestUnit.powerOn
  trunk := Trunk.powerOn false false .mark
  pending := []

end Sys2Proof.Machine
end

