-- ==== Sys2Proof/Machine/Ops.lean ====
section
/-!
DEFINITION. The named operations over positions, lines, cells, events and request slots that every meaning uses.
-/
namespace Sys2Proof.Machine

/-! ## Positions and saturating counts -/

/-- "At or below" between stream positions, on the difference modulo 2^32 (R2). -/
def posLe (a b : Pos) : Bool := decide ((b - a).toNat < 2 ^ 31)

/-- "Below" between stream positions (R2). -/
def posLt (a b : Pos) : Bool := a != b && posLe a b

/-- A count that stays at its top (R58, R140, R156, R177). -/
def satAdd (top a b : Nat) : Nat := min top (a + b)

/-- A counter's rise by one (R58, R156, R177). -/
def bump (n : Nat) : Nat := satAdd Config.counterTop n 1

/-! ## Lines and profiles -/

/-- The record of a line. -/
def State.line (s : State) (l : Fin 8) : Line := s.lines[l]

/-- The state with the record of a line replaced. -/
def State.setLine (s : State) (l : Fin 8) (x : Line) : State :=
  { s with lines := s.lines.set l.val x l.isLt }

/-- The state with the record of a line changed. -/
def State.mapLine (s : State) (l : Fin 8) (f : Line → Line) : State := s.setLine l (f (s.line l))

/-- The state with the record of every line changed alike. -/
def State.mapLines (s : State) (f : Line → Line) : State := { s with lines := s.lines.map f }

/-- The eight line numbers in ascending order. -/
def allLines : List (Fin 8) := [0, 1, 2, 3, 4, 5, 6, 7]

/-- The profile a line is bound to, which its blocks read when they need it (R29, R38). -/
def State.prof (s : State) (l : Fin 8) : Profile := s.profiles[(s.line l).binding]

/-- A change of a line's counters. -/
def Line.count (ln : Line) (f : Counters → Counters) : Line := { ln with counters := f ln.counters }

def Counters.addSent (c : Counters) : Counters := { c with sent := bump c.sent }
def Counters.addReceived (c : Counters) : Counters := { c with received := bump c.received }
def Counters.addFraming (c : Counters) : Counters := { c with framing := bump c.framing }
def Counters.addParity (c : Counters) : Counters := { c with parity := bump c.parity }
def Counters.addOverrun (c : Counters) : Counters := { c with overruns := bump c.overruns }
def Counters.addBreak (c : Counters) : Counters := { c with breaks := bump c.breaks }
def Counters.addResend (c : Counters) : Counters := { c with resends := bump c.resends }
def Counters.addStray (c : Counters) : Counters := { c with strayAcks := bump c.strayAcks }
def Counters.addLate (c : Counters) : Counters := { c with lateAcks := bump c.lateAcks }
def Counters.addRefused (c : Counters) : Counters := { c with refused := bump c.refused }

/-- The ten counts in the order of Table 3-4. -/
def Counters.list (c : Counters) : List Nat :=
  [c.sent, c.received, c.framing, c.parity, c.overruns, c.breaks, c.resends, c.strayAcks, c.lateAcks, c.refused]

/-- The seven counts in the order of R177. -/
def TrunkCounters.list (c : TrunkCounters) : List Nat :=
  [c.crc, c.header, c.gaps, c.duplicates, c.unknown, c.hunt, c.restarts]

/-! ## Pool counts (R5) -/

/-- Cells freed: the free count rises (R5). -/
def State.freeCells (s : State) (n : Nat) : State := { s with pool := { s.pool with free := s.pool.free + n } }

/-- Cells taken: the free count falls (R5). -/
def State.takeCells (s : State) (n : Nat) : State := { s with pool := { s.pool with free := s.pool.free - n } }

/-! ## Room and limit (R12, R13) -/

/-- The room of a line: 32 bytes for each cell its quota still allows, and what its tail cell still takes (R12). -/
def Line.room (ln : Line) : Nat :=
  Config.cellBytes * (ln.resOut - ln.outQ.length)
    + (match ln.outQ.getLast? with
       | some c => Config.cellBytes - c.bytes.length
       | none => 0)

/-- The granted limit L: A + room at every moment (R13; log 7). -/
def Line.limit (ln : Line) : Pos := ln.A + BitVec.ofNat 32 ln.room

/-- The credit test's right side: Lsent − A (R14). -/
def Line.credit (ln : Line) : Nat := (ln.Lsent - ln.A).toNat

/-! ## Outbound cells (R9, R11) -/

/-- A new tail cell at the current S holding one byte (R9). -/
def Line.newCell (ln : Line) (b : Byte) : Line :=
  { ln with outQ := ln.outQ ++ [⟨ln.S, [b]⟩], S := ln.S + 1 }

/-- One byte stored: into the tail cell if its fill is below 32, else into a new cell whose first position is S (R9). -/
def Line.storeByte (ln : Line) (b : Byte) : Line :=
  match ln.outQ.getLast? with
  | some c =>
      if c.bytes.length < Config.cellBytes then
        { ln with outQ := ln.outQ.dropLast ++ [{ c with bytes := c.bytes ++ [b] }], S := ln.S + 1 }
      else ln.newCell b
  | none => ln.newCell b

/-- Bytes stored in order (R9). -/
def Line.storeBytes (ln : Line) (bs : List Byte) : Line := bs.foldl Line.storeByte ln

/-- The stored byte at a position, if a cell of the line's outbound queue holds it (R9). -/
def Line.byteAt (ln : Line) (p : Pos) : Option Byte :=
  ln.outQ.findSome? (fun c => c.bytes[(p - c.first).toNat]?)

/-- Whether every byte of an outbound cell lies below a retire position (R11). -/
def OutCell.covered (rt : Pos) (c : OutCell) : Bool := posLe (c.first + BitVec.ofNat 32 c.bytes.length) rt

/-! ## Grant-due test (R17) -/

/-- Causes (a) and (b) of R17, tested where an event has changed L or Rt: L − Lsent at least the grant step, or the
outbound queue emptied (Rt reached S) while L is above Lsent. -/
def grantTest (p : Profile) (old new : Line) : Line :=
  let ahead := (new.limit - new.Lsent).toNat
  let step := new.limit != old.limit && decide (p.grantStep ≤ ahead)
  let empty := old.Rt != old.S && new.Rt == new.S && decide (0 < ahead)
  { new with grantDue := new.grantDue || step || empty }

/-! ## Retirement and freeing (R10, R11, R88) -/

/-- Rt moves to a position: every cell it covers is freed, oldest first, and the grant-due test is made (R10, R11, R88). -/
def State.moveRt (s : State) (l : Fin 8) (rt : Pos) : State :=
  let ln := s.line l
  let q := ln.outQ.dropWhile (OutCell.covered rt)
  (s.setLine l (grantTest (s.prof l) ln { ln with Rt := rt, outQ := q })).freeCells (ln.outQ.length - q.length)

/-- Every stored byte given up: T and Rt become S, every outbound cell is freed, and the grant-due test is made (R50, R54). -/
def State.giveUpOutbound (s : State) (l : Fin 8) : State :=
  let ln := s.line l
  (s.setLine l (grantTest (s.prof l) ln { ln with T := ln.S, Rt := ln.S, outQ := [] })).freeCells ln.outQ.length

/-! ## Inbound cells and the wanted state (R20 to R23, R105 to R108) -/

/-- The current inbound cell: the newest, when it is not sealed (R4). -/
def Line.currentCell (ln : Line) : Option InCell :=
  match ln.inQ.getLast? with
  | some c => if c.isSealed then none else some c
  | none => none

/-- Wanted takes a value, with the effect its inbound pacing mode gives a change (R105 to R108). -/
def Line.setWanted (p : Profile) (w : Pace) (ln : Line) : Line :=
  if w = ln.wanted then ln
  else match p.inPacing with
    | .none => { ln with wanted := w, lastSent := w }
    | .code => { ln with wanted := w }
    | .line => { ln with wanted := w, lastSent := w, rdyo := w == .go }

/-- The inbound cells held compared with the marks (R105). -/
def Line.applyMarks (p : Profile) (ln : Line) : Line :=
  if p.highMark ≤ ln.inQ.length then ln.setWanted p .stop
  else if ln.inQ.length ≤ p.lowMark then ln.setWanted p .go
  else ln

/-- Sealing the current inbound cell, which stops the idle timer (R21, R101); with no current cell nothing is sealed. -/
def Line.sealCurrent (ln : Line) : Line :=
  match ln.currentCell with
  | some c => { ln with inQ := ln.inQ.dropLast ++ [{ c with isSealed := true }], idleTimer := .stopped }
  | none => ln

/-- Inbound cells leave the queue for the free list, all but the kept ones; the marks are applied once on the count after
the event, if it changed, and without a current cell the idle timer is stopped (R22, R23, R105). -/
def State.dropInbound (s : State) (l : Fin 8) (keep : InCell → Bool) : State :=
  let ln := s.line l
  let q := ln.inQ.filter keep
  let ln1 := { ln with inQ := q }
  let ln2 := { ln1 with idleTimer := if ln1.currentCell.isSome then ln1.idleTimer else .stopped }
  let ln3 := if q.length = ln.inQ.length then ln2 else ln2.applyMarks (s.prof l)
  (s.setLine l ln3).freeCells (ln.inQ.length - q.length)

/-- The bytes a discard of inbound data counts: those of the cells not in a frame (R23). -/
def Line.discardableBytes (ln : Line) : Nat :=
  ((ln.inQ.filter (fun c => !c.inFrame)).map (fun c => c.bytes.length)).sum

/-! ## Raising events (R139, R140) -/

def CauseSet.union (a b : CauseSet) : CauseSet :=
  ⟨a.stopCode || b.stopCode, a.readyLow || b.readyLow, a.condition || b.condition⟩

def KindSet.union (a b : KindSet) : KindSet :=
  ⟨a.framing || b.framing, a.parity || b.parity, a.overrun || b.overrun, a.brk || b.brk, a.strayAck || b.strayAck,
   a.lateAck || b.lateAck⟩

def ReasonSet.union (a b : ReasonSet) : ReasonSet :=
  ⟨a.credit || b.credit, a.closed || b.closed, a.markerOverflow || b.markerOverflow⟩

/-- The class of an event (Table 8-1). -/
def EventRec.cls : EventRec → Fin 8
  | .trunk .. => 0
  | .stall .. => 1
  | .timeout .. => 2
  | .condition .. => 3
  | .lineError .. => 4
  | .refused .. => 5
  | .mark .. => 6
  | .hold .. => 7

/-- A one-byte count added with saturation (R140). -/
def addCount (a b : Nat) : Nat := satAdd Config.countTop a b

/-- An event merged into an existing record of its class: sets united, counts added with saturation, latest fields taken
from the newer (R140, Table 8-2). Records of different classes never meet; the newer would stand. -/
def EventRec.merge : EventRec → EventRec → EventRec
  | .trunk a b c d e f, .trunk a' b' c' d' e' f' =>
      .trunk (addCount a a') (addCount b b') (addCount c c') (addCount d d') (addCount e e') (addCount f f')
  | .stall .., .stall o r p => .stall o r p
  | .timeout c n, .timeout c' n' => .timeout (c.union c') (addCount n n')
  | .condition _ _ n, .condition cur last n' => .condition cur last (addCount n n')
  | .lineError k a b c, .lineError k' a' b' c' => .lineError (k.union k') (addCount a a') (addCount b b') (addCount c c')
  | .refused r f b, .refused r' f' b' =>
      .refused (r.union r') (addCount f f') (satAdd Config.counterTop b b')
  | .mark n _ _, .mark n' t p => .mark (addCount n n') t p
  | .hold .., .hold t p => .hold t p
  | _, new => new

/-- The record at a place of the pending table. -/
def EventUnit.place (e : EventUnit) (c : Fin 8) (src : Fin 9) : Option EventRec := e.pending[c][src]

/-- The pending table with a place replaced. -/
def EventUnit.setPlace (e : EventUnit) (c : Fin 8) (src : Fin 9) (r : Option EventRec) : EventUnit :=
  { e with pending := e.pending.set c.val (e.pending[c].set src.val r src.isLt) c.isLt }

/-- An event raised at a source: the place of its class and source gets the record, merged into one already there (R139). -/
def EventUnit.raise (e : EventUnit) (src : Fin 9) (r : EventRec) : EventUnit :=
  e.setPlace r.cls src (some (match e.place r.cls src with
    | none => r
    | some old => old.merge r))

/-- An event raised by a line (chapter 8.1). -/
def State.raise (s : State) (l : Fin 8) (r : EventRec) : State := { s with events := s.events.raise l.castSucc r }

/-- A TRUNK event; its source is the part, 8 (chapter 8.1). -/
def State.raiseTrunk (s : State) (r : EventRec) : State := { s with events := s.events.raise 8 r }

/-- A LINE ERROR event of one kind (R104, R80). -/
def KindSet.empty : KindSet := ⟨false, false, false, false, false, false⟩

/-- The pending records of a line removed from the seven line classes (R153). -/
def EventUnit.removeLine (e : EventUnit) (l : Fin 8) : EventUnit :=
  { e with pending := e.pending.map (fun row => row.set l.val none (by omega)) }

/-! ## Request slots (R156 to R161) -/

/-- A slot is completed: its result and data are fixed and it joins the tail of the response order (R160). -/
def RequestUnit.complete (r : RequestUnit) (n : Fin 4) (reply : Reply) : RequestUnit :=
  { r with
    slots := r.slots.map (fun k => if k.num = n then { k with phase := .completed reply } else k)
    order := r.order ++ [.slot n] }

def State.complete (s : State) (n : Fin 4) (reply : Reply) : State := { s with reqs := s.reqs.complete n reply }

/-- A request dropped: the dropped-request count rises and a TRUNK event is raised (R156, R157, R158). -/
def State.dropRequest (s : State) : State :=
  { s with reqs := { s.reqs with dropped := bump s.reqs.dropped } }.raiseTrunk (.trunk 0 0 0 0 0 1)

/-- A refusal at checks 2 to 5: an entry of the refusal list, or a drop when the list is full (R158). -/
def State.refuse (s : State) (tag code : Byte) (result : Result) : State :=
  if s.reqs.refusals.length < Config.maxRefusals then
    { s with reqs := { s.reqs with refusals := s.reqs.refusals ++ [⟨tag, code, result⟩], order := s.reqs.order ++ [.refusal] } }
  else s.dropRequest

/-- A reply with no data (R161). -/
def Reply.plain (r : Result) : Reply := ⟨r, []⟩

/-- OK with data. -/
def Reply.okWith (d : List Byte) : Reply := ⟨.ok, d⟩

/-- The line's long request ends with a reply: its slot is completed, or nothing is sent when it is unanswered (R40, R45). -/
def State.finishLong (s : State) (l : Fin 8) (reply : Reply) : State :=
  let s1 := match (s.line l).long with
    | some g => (match g.slot with
        | some n => s.complete n reply
        | none => s)
    | none => s
  s1.mapLine l (fun ln => { ln with long := none })

/-- The two discarded-byte counts of a CLOSE LINE or FLUSH response: inbound, then outbound (Table 10-18). -/
def LongReq.counts (g : LongReq) : List Byte := be16 g.inBytes ++ be16 g.outBytes

end Sys2Proof.Machine
end

