-- ==== Sys2Proof/Machine/Flags.lean ====
section
/-!
DEFINITION. The standing conditions of a line: what its state lets its blocks do, the peripheral gates, the transmit gate, and the tests on which work waits, a drain ends and a line closes.
-/
namespace Sys2Proof.Machine

/-- A line whose long request is of a kind. -/
def Line.longIs (ln : Line) (k : LongKind) : Bool :=
  match ln.long with
  | some g => g.kind == k
  | none => false

/-- A drain whose completion has been taken and whose line waits for its entry to CLOSED (R48). -/
def Line.drainTaken (ln : Line) : Bool :=
  match ln.long with
  | some g => g.kind == .closeDrain && g.completing
  | none => false

/-- DRAINING under a drain whose completion has not been taken (R47, R48). -/
def Line.underDrain (ln : Line) : Bool := ln.state == .draining && ln.longIs .closeDrain && !ln.drainTaken

/-- DRAINING under an abort (R41). -/
def Line.underAbort (ln : Line) : Bool := ln.state == .draining && ln.longIs .closeAbort

/-- The states in which data bytes and inserted ends may go: RUNNING, HELD, DRAINING under a drain (R64, R66). -/
def Line.sendsData (ln : Line) : Bool := ln.state == .running || ln.state == .held || ln.underDrain

/-- The states in which the receiver, the decoder and the inbound-pacing codes work: RUNNING, HELD, STALLED, DRAINING
under a drain up to its completion (R64, R107, R111, R120). -/
def Line.working (ln : Line) : Bool := ln.sendsData || ln.state == .stalled

/-- The stop gate is open or does not apply (R68). -/
def Line.stopGate (p : Profile) (ln : Line) : Bool := p.outPacing != .code || !ln.stopped

/-- The ready gate is open or does not apply (R68). -/
def Line.readyGate (p : Profile) (ln : Line) : Bool := !p.readyGate || ln.rdyi

/-- The condition gate is open or does not apply (R68). -/
def Line.condGate (p : Profile) (ln : Line) : Bool := !p.decoding || ln.cond == .ready

/-- The peripheral gates (R68). -/
def Line.gatesOpen (p : Profile) (ln : Line) : Bool := ln.stopGate p && ln.readyGate p && ln.condGate p

/-- The barrier: the oldest HOLD marker on the list, reached or not (R133). -/
def Line.barrier (ln : Line) : Option Marker := ln.markers.find? (fun m => m.kind == .hold)

/-- A barrier has been reached and not released (R87, R57). -/
def Line.barrierReached (ln : Line) : Bool :=
  match ln.barrier with
  | some m => m.reached
  | none => false

/-- Condition 4 of R66: T is at or below the barrier's position. -/
def Line.barrierAllows (ln : Line) : Bool :=
  match ln.barrier with
  | some m => posLe ln.T m.pos
  | none => true

/-- The outstanding entry that a position lies inside. -/
def Line.entryAt (ln : Line) (p : Pos) : Option Block :=
  ln.blocks.find? (fun b => posLe b.start p && posLt p b.fin)

/-- Condition 6 of R66: the byte at T is being re-sent, a block is open, or the window has room for a new block. -/
def Line.blockAllows (p : Profile) (ln : Line) : Bool :=
  p.outPacing != .block
    || (match ln.entryAt ln.T with
        | some b => !b.sent
        | none => false)
    || ln.openBlock.isSome
    || decide (ln.blocks.length < p.window)

/-- Conditions 1 to 4 and 6 of R66: a data byte waits for nothing but the peripheral gates and a break. -/
def Line.dataReady (p : Profile) (ln : Line) : Bool :=
  ln.sendsData && posLt ln.T ln.S && !ln.endWaiting && ln.barrierAllows && ln.blockAllows p

/-- The transmit gate of a data byte (R66). -/
def Line.dataMayGo (p : Profile) (ln : Line) : Bool := ln.dataReady p && ln.gatesOpen p && ln.brk == .none

/-- An inserted block end may go (R64). -/
def Line.endMayGo (p : Profile) (ln : Line) : Bool := ln.endWaiting && ln.sendsData && ln.gatesOpen p && ln.brk == .none

/-- An inbound-pacing code may go (R64, R107). -/
def Line.codeMayGo (p : Profile) (ln : Line) : Bool :=
  p.inPacing == .code && ln.wanted != ln.lastSent && ln.working && ln.brk == .none

/-- Outbound work waits (R69). -/
def Line.workWaits (p : Profile) (ln : Line) : Bool := ln.sendsData && (ln.endWaiting || ln.dataReady p)

/-- A block is open, its end has not been started, no end is waiting and T equals S: the linger timer runs (R75; log 13). -/
def Line.lingers (ln : Line) : Bool :=
  (match ln.openBlock with
   | some b => !b.ended
   | none => false)
  && !ln.endWaiting && ln.T == ln.S

/-- The conditions on which the ack timer is suspended (R78). -/
def Condition.suspends : Condition → Bool
  | .offline => true
  | .mediaOut => true
  | .detached => true
  | .ready => false
  | .busy => false
  | .fault => false
  | .invalid => false

/-- The four conditions of a complete drain (R48). -/
def Line.drainDone (ln : Line) : Bool :=
  ln.S == ln.Rt && ln.openBlock.isNone && !ln.endWaiting && ln.blocks.isEmpty && (ln.tx == .idle || ln.tx == .gap)

/-- The transmitter is in CHARACTER. -/
def Line.inCharacter (ln : Line) : Bool :=
  match ln.tx with
  | .character _ => true
  | _ => false

/-- No inbound DATA frame carries the line's cells (R7). -/
def Line.noneInFrame (ln : Line) : Bool := ln.inQ.all (fun c => !c.inFrame)

/-- An abort is complete (R51). -/
def Line.abortDone (ln : Line) : Bool := !ln.inCharacter && ln.tx != .brk && ln.noneInFrame

/-- The line enters CLOSED: a drain's completion has been taken, or an abort is in progress and its transmitter is free,
and no inbound frame carries the line's cells (R7, R48, R51). -/
def Line.closesNow (ln : Line) : Bool :=
  ln.state == .draining && ((ln.drainTaken && ln.noneInFrame) || (ln.longIs .closeAbort && ln.abortDone))

/-- A FLUSH in progress completes: the transmitter is not in CHARACTER (R53). -/
def Line.flushDone (ln : Line) : Bool := ln.longIs .flush && !ln.inCharacter

/-- Every line is CLOSED (R164). -/
def State.allClosed (s : State) : Bool := s.lines.toList.all (fun ln => ln.state == .closed)

/-- A profile is in use: some line bound to it is not CLOSED (R28). -/
def State.profileInUse (s : State) (i : Fin 8) : Bool :=
  s.lines.toList.any (fun ln => ln.binding == i && ln.state != .closed)

/-- A tag is the tag of a held slot (R157 check 4). -/
def RequestUnit.tagHeld (r : RequestUnit) (tag : Byte) : Bool := r.slots.any (fun k => k.tag == tag)

/-- The levels of TTX (R167): the characters of the frame being sent, mark whenever no frame is. -/
def Trunk.ttx (t : Trunk) : List Level :=
  match t.tx with
  | none => [.mark]
  | some f => f.levels

/-- The level of TXDn (R62, R90, R63): space in BREAK, the framed character in CHARACTER, mark otherwise. -/
def Line.txd (ln : Line) : List Level :=
  match ln.tx with
  | .idle => [.mark]
  | .gap => [.mark]
  | .brk => [.space]
  | .character c => c.frame.levels

end Sys2Proof.Machine
end

