-- ==== Sys2Proof/Machine/Settle.lean ====
section
/-!
DEFINITION. What follows within the event that brings it about: the inserted end of a drain, the linger timer, the pause episode, and the completions of a FLUSH, a drain, an abort and PART RESET (log 1).
-/
namespace Sys2Proof.Machine

/-! ## Standing updates of a line -/

/-- The drain cause of an inserted end: the line is DRAINING under a drain and T equals S with a block open (R74, R47). -/
def Line.drainEnd (ln : Line) : Line := if ln.underDrain && ln.lingers then { ln with endWaiting := true } else ln

/-- The linger timer starts when its three conditions first hold and stops as soon as one ceases (R75). -/
def Line.lingerUpdate (p : Profile) (ln : Line) : Line :=
  if p.blockLinger ≠ 0 ∧ ln.lingers = true then
    match ln.lingerTimer with
    | .stopped => { ln with lingerTimer := .running p.blockLinger }
    | .running _ => ln
  else { ln with lingerTimer := .stopped }

/-- The pause episode begins when the gates are closed while work waits, and ends when they open or the work stops waiting (R69). -/
def Line.pauseUpdate (p : Profile) (ln : Line) : Line :=
  if ln.workWaits p && !ln.gatesOpen p then
    if ln.pause = .none ∧ p.pauseTimeout ≠ 0 then { ln with pause := .running, pauseTimer := .running p.pauseTimeout } else ln
  else { ln with pause := .none, pauseTimer := .stopped }

/-- The standing updates of a line after an event (R69, R74, R75). -/
def Line.standing (p : Profile) (ln : Line) : Line := (ln.drainEnd.lingerUpdate p).pauseUpdate p

/-! ## Completions -/

/-- A FLUSH completes: the long request returns to none and the response is OK with its two counts (R53). -/
def State.completeFlush (s : State) (l : Fin 8) : State :=
  match (s.line l).long with
  | some g => s.finishLong l (.okWith g.counts)
  | none => s

/-- The completion of a drain is taken (R48, R111, R120): the inbound data not in a frame is discarded and counted, the gap
timer, the receiver and the decoder stop, and the line waits for its entry to CLOSED. -/
def State.takeDrain (s : State) (l : Fin 8) : State :=
  let n := (s.line l).discardableBytes
  (s.dropInbound l (fun c => c.inFrame)).mapLine l (fun ln =>
    { ln with
      gapTimer := .stopped
      rx := .idle
      candidate := none
      debounceTimer := .stopped
      long := ln.long.map (fun g => { g with completing := true, inBytes := n, outBytes := 0 }) })

/-- The line's values on entry to CLOSED, with its cells freed and its quotas returned (R7, R52). -/
def State.enterClosed (s : State) (l : Fin 8) : State :=
  let ln := s.line l
  { s.setLine l ln.closedFrom with
    pool := { s.pool with
      free := s.pool.free + (ln.outQ.length + ln.inQ.length)
      unreserved := s.pool.unreserved + (ln.resOut + ln.resIn) } }

/-- The line enters CLOSED and the close it was waiting for is answered OK with its two counts (R48, R51, R52). -/
def State.closeLine (s : State) (l : Fin 8) : State :=
  match (s.line l).long with
  | some g => (s.finishLong l (.okWith g.counts)).enterClosed l
  | none => s.enterClosed l

/-- The completion of PART RESET (R164): counters, tables under clear, the Event Unit, the grant refresh, the trunk counters,
the dropped-request count and AUXOn are reset, and its response, OK, is completed. -/
def State.completePartReset (s : State) (pr : PartReset) : State :=
  let s1 : State :=
    { s with
      pool := { s.pool with refresh := 0, refreshTimer := .stopped }
      profiles := if pr.clear then Vector.replicate 8 Profile.default else s.profiles
      patterns := if pr.clear then Vector.replicate 16 Pattern.cleared else s.patterns
      lines := s.lines.map (fun ln =>
        { ln with
          counters := Counters.zero
          auxo := false
          binding := if pr.clear then 0 else ln.binding })
      events := EventUnit.powerOn
      trunk := { s.trunk with counters := TrunkCounters.zero }
      reqs := { s.reqs with dropped := 0, partReset := none } }
  match pr.slot with
  | some n => s1.complete n (.plain .ok)
  | none => s1

/-! ## The tests made at each event -/

def State.testFlush (s : State) (l : Fin 8) : State := if (s.line l).flushDone then s.completeFlush l else s

def State.testDrain (s : State) (l : Fin 8) : State :=
  if (s.line l).underDrain && (s.line l).drainDone then s.takeDrain l else s

def State.testClose (s : State) (l : Fin 8) : State := if (s.line l).closesNow then s.closeLine l else s

def State.testPartReset (s : State) : State :=
  match s.reqs.partReset with
  | some pr => if s.allClosed then s.completePartReset pr else s
  | none => s

/-- What follows an event on a line within that event: the standing updates, then the completions whose conditions now hold. -/
def State.settle (s : State) (l : Fin 8) : State :=
  ((((s.mapLine l (Line.standing (s.prof l))).testFlush l).testDrain l).testClose l).testPartReset

end Sys2Proof.Machine
end

