-- ==== Sys2Proof/Machine/Pacing.lean ====
section
/-!
DEFINITION. The Outbound Pacer and the Line Transmitter (chapter 4): the choice and start of characters, their completion, blocks, acknowledgements, resends, stalls and breaks.
-/
namespace Sys2Proof.Machine

/-! ## The ack timer (R77, R78) -/

/-- The ack timer with the full timeout, or suspended while the condition suspends it (R77, R78). -/
def Line.fullAck (p : Profile) (ln : Line) : AckTimer :=
  if ln.cond.suspends then .suspended else .running p.ackTimeout

/-- A start of the ack timer: only from stopped, and never while the line is STALLED (R77). -/
def Line.ackStart (p : Profile) (ln : Line) : Line :=
  if ln.ackTimer = .stopped ∧ ln.state ≠ .stalled then { ln with ackTimer := ln.fullAck p } else ln

/-- The timer after an entry is retired: stopped when the list is empty, left alone in STALLED, else restarted (R77). -/
def Line.ackAfterRetire (p : Profile) (ln : Line) : Line :=
  if ln.blocks.isEmpty then { ln with ackTimer := .stopped }
  else if ln.state = .stalled then ln
  else { ln with ackTimer := ln.fullAck p }

/-! ## Marks and barriers reached (R132, R134, R135) -/

/-- A MARK marker that Rt has passed (R132). -/
def Marker.passed (rt : Pos) (m : Marker) : Bool := m.kind == .mark && posLt m.pos rt

/-- Every MARK marker below Rt is removed, oldest first, each with a MARK event (R132). -/
def State.reachMarks (s : State) (l : Fin 8) : State :=
  let ln := s.line l
  let gone := ln.markers.filter (Marker.passed ln.Rt)
  gone.foldl (fun t m => t.raise l (.mark 1 m.tag m.accepted))
    (s.setLine l { ln with markers := ln.markers.filter (fun m => !Marker.passed ln.Rt m) })

/-- The oldest HOLD marker with its reached flag set. -/
def setReached : List Marker → List Marker
  | [] => []
  | m :: ms => if m.kind = .hold then { m with reached := true } :: ms else m :: setReached ms

/-- A RUNNING line enters HELD (R134, R135). -/
def Line.enterHeld (ln : Line) : Line := if ln.state = .running then { ln with state := .held } else ln

/-- The completion of the last part of a point in the stream: when the barrier lies at the position it is reached, the first
time with a HOLD event (R134), later without one (R135). -/
def State.reachBarrier (s : State) (l : Fin 8) (pos : Pos) : State :=
  match (s.line l).barrier with
  | none => s
  | some m =>
      if m.pos = pos then
        if m.reached then s.mapLine l Line.enterHeld
        else
          (s.mapLine l (fun ln => Line.enterHeld { ln with markers := setReached ln.markers })).raise l (.hold m.tag m.accepted)
      else s

/-! ## Resend and stall (R83 to R86) -/

/-- The character in the shift register no longer ends a block: it completes and is counted, but adds no entry and sets no
sent flag (R76, R84). -/
def TxState.abandon : TxState → TxState
  | .character c => .character { c with role := .noEnd }
  | t => t

/-- A resend begins (R84). -/
def Line.beginResend (ln : Line) : Line :=
  { ln with
    resend := true
    blocks := ln.blocks.map (fun b => { b with sent := false })
    T := ln.Rt
    openBlock := none
    endWaiting := false
    ackTimer := .stopped
    lingerTimer := .stopped
    tx := ln.tx.abandon
    counters := ln.counters.addResend }

/-- The position just past the newest outstanding entry, if there is one. -/
def Line.newestEnd (ln : Line) : Option Pos := ln.blocks.getLast?.map Block.fin

/-- T moved up to the newest entry's end if it lies below it (R86). -/
def Line.stallCursor (ln : Line) : Pos :=
  match ln.newestEnd with
  | some e => if posLt ln.T e then e else ln.T
  | none => ln.T

/-- The line's values on entering STALLED (R86). -/
def Line.enterStalled (ln : Line) : Line :=
  { ln with
    state := .stalled
    ackTimer := .stopped
    pauseTimer := .stopped
    pause := .none
    T := ln.stallCursor }

/-- A drain in progress ends with DRAIN-FAILED (R49). -/
def State.failDrain (s : State) (l : Fin 8) : State :=
  if (s.line l).longIs .closeDrain then s.finishLong l (.plain .drainFailed) else s

/-- The position of the oldest outstanding entry's start, which is Rt (R76, R86). -/
def Line.oldestStart (ln : Line) : Pos :=
  match ln.blocks.head? with
  | some b => b.start
  | none => ln.Rt

/-- The line enters STALLED: the STALL event is raised and a drain in progress fails (R86, R49). -/
def State.stall (s : State) (l : Fin 8) : State :=
  let ln := s.line l
  ((s.failDrain l).mapLine l Line.enterStalled).raise l (.stall ln.blocks.length ln.retry ln.oldestStart)

/-- An expiry of the ack timer, or a nak taken as one: a resend while retries remain, a stall otherwise (R83, R81). -/
def State.retryOrStall (s : State) (l : Fin 8) : State :=
  let ln := s.line l
  if ln.retry < (s.prof l).retryLimit then s.mapLine l (fun x => Line.beginResend { x with retry := x.retry + 1 })
  else s.stall l

/-! ## Acknowledgements (R79 to R81, R87) -/

/-- STALLED left when the list is empty: an end waiting while no block is open is cleared, and the line enters HELD if a
barrier is reached and not released, RUNNING otherwise (R87, R57). -/
def Line.leaveStalled (ln : Line) : Line :=
  { ln with
    endWaiting := ln.endWaiting && ln.openBlock.isSome
    state := if ln.barrierReached then .held else .running }

/-- The oldest entry is retired (R79): Rt moves to its end, cells are freed, MARK markers reached, the retry count returns
to 0, the ack timer restarts or stops, and a STALLED line whose list has emptied leaves STALLED (R87). -/
def State.retireOldest (s : State) (l : Fin 8) (b : Block) : State :=
  let p := s.prof l
  let s1 := (s.mapLine l (fun ln => { ln with blocks := ln.blocks.tail, retry := 0 })).moveRt l b.fin
  let s2 := (s1.reachMarks l).mapLine l (Line.ackAfterRetire p)
  s2.mapLine l (fun ln => if ln.state = .stalled ∧ ln.blocks.isEmpty = true then ln.leaveStalled else ln)

/-- A LINE ERROR event of kind stray-ack with its counter (R80, R81). -/
def State.strayAck (s : State) (l : Fin 8) : State :=
  (s.mapLine l (·.count Counters.addStray)).raise l (.lineError { KindSet.empty with strayAck := true } 0 0 0)

/-- A LINE ERROR event of kind late-ack with its counter (R80). -/
def State.lateAck (s : State) (l : Fin 8) : State :=
  (s.mapLine l (·.count Counters.addLate)).raise l (.lineError { KindSet.empty with lateAck := true } 0 0 0)

/-- The oldest entry's block end has been sent and no resend is in progress (R79, R81). -/
def Line.oldestAnswerable (ln : Line) (b : Block) : Bool := !ln.resend && b.sent

/-- An ack taken by the pacer: it retires the oldest entry, or is stray or late (R79, R80, Table 4-4). -/
def State.takeAck (s : State) (l : Fin 8) : State :=
  let ln := s.line l
  match ln.blocks.head? with
  | none => s.strayAck l
  | some b => if ln.state = .stalled ∨ ln.oldestAnswerable b = true then s.retireOldest l b else s.lateAck l

/-- A nak taken by the pacer: as an expiry of the ack timer, or counted as stray (R81, Table 4-4). -/
def State.takeNak (s : State) (l : Fin 8) : State :=
  let ln := s.line l
  match ln.blocks.head? with
  | none => s.strayAck l
  | some b => if ln.state ≠ .stalled ∧ ln.oldestAnswerable b = true then s.retryOrStall l else s.strayAck l

/-! ## Starting a character (R64 to R67, R73, R74, R85) -/

/-- The transmitter enters CHARACTER with a byte framed by the profile (R63, R27). -/
def Line.shift (p : Profile) (kind : CharKind) (role : EndRole) (b : Byte) (ln : Line) : Line :=
  { ln with tx := .character ⟨kind, b, role, frameChar p b⟩ }

/-- An inbound-pacing code starts: stop or go as wanted, which becomes the last sent (R65, R107). -/
def Line.startCode (p : Profile) (ln : Line) : Line :=
  { ln.shift p .pacingCode .noEnd (if ln.wanted = .stop then p.stopCode else p.goCode) with lastSent := ln.wanted }

/-- An inserted block end starts: it ends the open block, or it is the re-sent end of the entry that ends at T (R64, R85). That
the end is no longer waiting from its start on, and not from its completion, is the model's choice (log 32). -/
def Line.startEnd (p : Profile) (ln : Line) : Line :=
  match ln.openBlock with
  | some b => { ln.shift p .insertedEnd .openEnd p.blockEnd with endWaiting := false, openBlock := some { b with ended := true } }
  | none => { ln.shift p .insertedEnd (.entryEnd ln.T) p.blockEnd with endWaiting := false }

/-- The barrier lies at a position (R74, R133). -/
def Line.barrierAt (ln : Line) (p : Pos) : Bool :=
  match ln.barrier with
  | some m => m.pos == p
  | none => false

/-- A re-sent byte starts (R85): at the last byte of an in-data entry it is the entry's end; at the last byte of an inserted
entry the end becomes waiting. -/
def Line.startResent (p : Profile) (b : Byte) (e : Block) (ln : Line) : Line :=
  let t := ln.T + 1
  let last := t == e.fin
  { ln.shift p (.data ln.T) (if last && e.kind == .inData then .entryEnd e.fin else .noEnd) b with
    T := t
    endWaiting := ln.endWaiting || (last && e.kind == .inserted) }

/-- A byte sent for the first time in BLOCK mode starts: it opens a block or raises the open block's count, and the block end
rules are applied to it (R67, R73, R74). -/
def Line.startFirst (p : Profile) (b : Byte) (ln : Line) : Line :=
  let blk : OpenBlock := match ln.openBlock with
    | some o => { o with count := o.count + 1 }
    | none => ⟨ln.T, 1, false⟩
  let inData := b == p.blockEnd
  let insert := !inData && (decide (p.blockLimit ≤ blk.count) || ln.barrierAt ln.T)
  { ln.shift p (.data ln.T) (if inData then .openEnd else .noEnd) b with
    T := ln.T + 1
    openBlock := some { blk with ended := inData }
    endWaiting := ln.endWaiting || insert }

/-- The data byte at T starts (R67). -/
def Line.startData (p : Profile) (b : Byte) (ln : Line) : Line :=
  match p.outPacing with
  | .block => (match ln.entryAt ln.T with
      | some e => ln.startResent p b e
      | none => ln.startFirst p b)
  | _ => { ln.shift p (.data ln.T) .noEnd b with T := ln.T + 1 }

/-- The transmitter's choice: the first kind of character that may go is started (R64). -/
def Line.choose (p : Profile) (ln : Line) : Line :=
  if ln.codeMayGo p then ln.startCode p
  else if ln.endMayGo p then ln.startEnd p
  else if ln.dataMayGo p then
    match ln.byteAt ln.T with
    | some b => ln.startData p b
    | none => ln
  else ln

/-- The choice is made only in IDLE (R63, R64). -/
def State.transmitterChoice (s : State) (l : Fin 8) : State :=
  if (s.line l).tx = .idle then (s.mapLine l (Line.choose (s.prof l))).settle l else s

/-! ## Breaks (R89, R90) -/

/-- The break begins (R90); the gap timer is stopped (R89). -/
def Line.beginBreak (p : Profile) (ln : Line) : Line :=
  { ln with tx := .brk, brk := .inProgress, gapTimer := .stopped, breakTimer := .running p.breakTime }

/-- The gap after a character or a break: GAP with the gap timer, or IDLE when the gap is 0 (R63, R90). -/
def Line.enterGap (p : Profile) (ln : Line) : Line :=
  if p.gap = 0 then { ln with tx := .idle } else { ln with tx := .gap, gapTimer := .running p.gap }

/-- What the transmitter enters after a character: BREAK if one is pending, else GAP or IDLE (R63). -/
def Line.afterCharacter (p : Profile) (ln : Line) : Line :=
  if ln.brk = .pending then ln.beginBreak p else ln.enterGap p

/-- A pending break begins when no character is in the shift register (R89, R90). -/
def State.beginPendingBreak (s : State) (l : Fin 8) : State :=
  let ln := s.line l
  if ln.brk = .pending ∧ ln.inCharacter = false then (s.mapLine l (Line.beginBreak (s.prof l))).settle l else s

/-- The expiry of the break timer (R90). -/
def State.endBreak (s : State) (l : Fin 8) : State :=
  let ln := s.line l
  if ln.brk = .inProgress ∧ ln.breakTimer ≠ .stopped then
    let s1 := s.mapLine l (fun x => Line.enterGap (s.prof l) { x with brk := .none, breakTimer := .stopped })
    (if ln.longIs .sendBreak then s1.finishLong l (.plain .ok) else s1).settle l
  else s

/-! ## Completion of a character (R63, R76, R85, R88) -/

/-- The open block joins the tail of the outstanding-block list and the ack timer starts (R76, R77). -/
def Line.joinBlock (p : Profile) (kind : EndKind) (b : OpenBlock) (ln : Line) : Line :=
  Line.ackStart p { ln with blocks := ln.blocks ++ [⟨b.start, ln.T, kind, true⟩], openBlock := none }

/-- The sent flag of the entry that ends at a position is set, and the resend flag is cleared when it is the oldest (R85). -/
def Line.markSent (p : Profile) (e : Pos) (ln : Line) : Line :=
  let oldest := match ln.blocks.head? with
    | some b => b.fin == e
    | none => false
  Line.ackStart p
    { ln with
      blocks := ln.blocks.map (fun b => if b.fin = e then { b with sent := true } else b)
      resend := ln.resend && !oldest }

/-- A block end completes (R76, R85), and reaches the barrier that lies at its block's last byte (R134, R135). -/
def State.endCompletes (s : State) (l : Fin 8) (c : ShiftChar) : State :=
  let ln := s.line l
  let p := s.prof l
  let kind : EndKind := if c.kind = .insertedEnd then .inserted else .inData
  match c.role with
  | .noEnd => s
  | .openEnd => (match ln.openBlock with
      | some b => (s.mapLine l (Line.joinBlock p kind b)).reachBarrier l (ln.T - 1)
      | none => s)
  | .entryEnd e =>
      if ln.blocks.any (fun b => b.fin == e) then (s.mapLine l (Line.markSent p e)).reachBarrier l (e - 1) else s

/-- A data byte completes in NONE or CODE mode: it retires if it lies at Rt, reaching marks, and reaches the barrier at its
position (R63, R88, R132, R134). -/
def State.byteCompletes (s : State) (l : Fin 8) (pos : Pos) : State :=
  if pos = (s.line l).Rt then (((s.moveRt l (pos + 1)).reachMarks l).reachBarrier l pos) else s

/-- The pacer's part of a completion, by the kind of the character and the pacing mode (R63). -/
def State.pacerCompletes (s : State) (l : Fin 8) (c : ShiftChar) : State :=
  match c.kind with
  | .pacingCode => s
  | .insertedEnd => s.endCompletes l c
  | .data pos => if (s.prof l).outPacing = .block then s.endCompletes l c else s.byteCompletes l pos

/-- The completion of the character in the shift register (R63). -/
def State.characterCompletion (s : State) (l : Fin 8) : State :=
  match (s.line l).tx with
  | .character c =>
      let p := s.prof l
      let s1 := (s.mapLine l (·.count Counters.addSent)).pacerCompletes l c
      (s1.mapLine l (Line.afterCharacter p)).settle l
  | _ => s

/-! ## Expiries of the pacer's timers -/

/-- The gap timer expires (R63). -/
def State.gapExpiry (s : State) (l : Fin 8) : State :=
  let ln := s.line l
  if ln.tx = .gap ∧ ln.gapTimer ≠ .stopped then
    (s.mapLine l (fun x => { x with tx := .idle, gapTimer := .stopped })).settle l
  else s

/-- A running ack timer. -/
def AckTimer.isRunning : AckTimer → Bool
  | .running _ => true
  | _ => false

/-- The ack timer expires (R83); a stopped or suspended timer cannot (R77, R78). -/
def State.ackExpiry (s : State) (l : Fin 8) : State :=
  if (s.line l).ackTimer.isRunning then
    ((s.mapLine l (fun x => { x with ackTimer := .stopped })).retryOrStall l).settle l
  else s

/-- The causes of a pause that hold now (R70). -/
def Line.pauseCauses (p : Profile) (ln : Line) : CauseSet := ⟨!ln.stopGate p, !ln.readyGate p, !ln.condGate p⟩

/-- The pause timer expires: the episode becomes reported and a TIMEOUT event is raised (R70). -/
def State.pauseExpiry (s : State) (l : Fin 8) : State :=
  let ln := s.line l
  if ln.pause = .running ∧ ln.pauseTimer ≠ .stopped then
    (s.mapLine l (fun x => { x with pause := .reported, pauseTimer := .stopped })).raise l
      (.timeout (ln.pauseCauses (s.prof l)) 1)
  else s

/-- The linger timer expires: an end becomes waiting (R75, R74). -/
def State.lingerExpiry (s : State) (l : Fin 8) : State :=
  if (s.line l).lingerTimer ≠ .stopped then
    (s.mapLine l (fun x => { x with lingerTimer := .stopped, endWaiting := true })).settle l
  else s

/-- RDYIn changes level (R68, R69). -/
def State.rdyiChange (s : State) (l : Fin 8) (asserted : Bool) : State :=
  (s.mapLine l (fun x => { x with rdyi := asserted })).settle l

end Sys2Proof.Machine
end

