-- ==== Sys2Proof/Machine/Receive.lean ====
section
/-!
DEFINITION. The Line Receiver and the Inbound Pacer (chapter 5): start edges, the sorting of a completed character, breaks, pacing codes consumed, characters stored or lost, and the idle timer.
-/
namespace Sys2Proof.Machine

/-! ## Edges of RXDn (R94, R98) -/

/-- A mark-to-space transition of RXDn begins a character only from IDLE with armed yes (R94). -/
def Line.startEdge (ln : Line) : Line :=
  if ln.working = true ∧ ln.rx = .idle ∧ ln.armed = true then { ln with rxd := .space, rx := .character, armed := false }
  else { ln with rxd := .space }

/-- RXDn at mark at the middle of the start bit: the start is false (R94). -/
def Line.falseStart (ln : Line) : Line :=
  if ln.working = true ∧ ln.rx = .character then { ln with rxd := .mark, rx := .idle, armed := true }
  else { ln with rxd := .mark }

/-- RXDn seen at mark while the receiver is IDLE (R94). -/
def Line.arm (ln : Line) : Line :=
  if ln.working = true ∧ ln.rx = .idle then { ln with rxd := .mark, armed := true } else { ln with rxd := .mark }

/-- RXDn returns to mark after a break (R98). -/
def Line.breakEnd (ln : Line) : Line :=
  if ln.working = true ∧ ln.rx = .brk then { ln with rxd := .mark, rx := .idle, armed := true } else { ln with rxd := .mark }

/-! ## Storing and losing characters (R20, R101, R103) -/

/-- After a store: the current cell is sealed when it is full or the character is the flush code, else the idle timer is
started or restarted (R101). -/
def Line.sealOrTime (p : Profile) (b : Byte) (ln : Line) : Line :=
  match ln.currentCell with
  | some c =>
      if Config.cellBytes ≤ c.bytes.length ∨ p.flushCode = some b then ln.sealCurrent
      else { ln with idleTimer := .running p.inboundIdle }
  | none => ln

/-- A character to be stored (R101): into the current cell, into a new cell within the inbound quota, or lost (R103). -/
def State.storeIn (s : State) (l : Fin 8) (b : Byte) : State :=
  let ln := s.line l
  let p := s.prof l
  match ln.currentCell with
  | some c =>
      s.setLine l (Line.sealOrTime p b { ln with inQ := ln.inQ.dropLast ++ [{ c with bytes := c.bytes ++ [b] }] })
  | none =>
      if ln.inQ.length < ln.resIn then
        (s.setLine l (Line.sealOrTime p b
          (Line.applyMarks p { ln with inQ := ln.inQ ++ [⟨[b], false, false⟩] }))).takeCells 1
      else
        (s.mapLine l (·.count Counters.addOverrun)).raise l (.lineError { KindSet.empty with overrun := true } 0 0 1)

/-! ## The four outcomes of a completed character (R95) -/

/-- A break is detected (R98, R99): counted, the current cell sealed, an event raised, and under break action FLUSH the
sealed cells not in a frame discarded. -/
def State.breakDetected (s : State) (l : Fin 8) : State :=
  let s1 := (s.mapLine l (fun ln => Line.sealCurrent { ln.count Counters.addBreak with rx := .brk, armed := false })).raise l
    (.lineError { KindSet.empty with brk := true } 0 0 0)
  if (s.prof l).breakAction = .flush then s1.dropInbound l (fun c => !c.isSealed || c.inFrame) else s1

/-- A framing error (R97): the receiver waits for mark. -/
def State.framingError (s : State) (l : Fin 8) : State :=
  (s.mapLine l (fun ln => { ln.count Counters.addFraming with rx := .idle, armed := false })).raise l
    (.lineError { KindSet.empty with framing := true } 1 0 0)

/-- A parity error (R96). -/
def State.parityError (s : State) (l : Fin 8) : State :=
  (s.mapLine l (fun ln => { ln.count Counters.addParity with rx := .idle, armed := true })).raise l
    (.lineError { KindSet.empty with parity := true } 0 1 0)

/-- A good character under outbound CODE pacing (R71, R72): the stop and go codes are consumed; any other character clears
the stopped flag under go-on-any and is stored. -/
def State.goodUnderCode (s : State) (l : Fin 8) (p : Profile) (v : Byte) : State :=
  if v = p.stopCode then s.mapLine l (fun ln => { ln with stopped := true })
  else if v = p.goCode then s.mapLine l (fun ln => { ln with stopped := false })
  else (s.mapLine l (fun ln => { ln with stopped := ln.stopped && !p.goOnAny })).storeIn l v

/-- A good character (R100): counted, offered to the outbound pacer, and stored if it is not consumed. -/
def State.goodCharacter (s : State) (l : Fin 8) (v : Byte) : State :=
  let p := s.prof l
  let s1 := s.mapLine l (fun ln => { ln.count Counters.addReceived with rx := .idle, armed := true })
  match p.outPacing with
  | .none => s1.storeIn l v
  | .code => s1.goodUnderCode l p v
  | .block =>
      if v = p.ackCode then s1.takeAck l
      else if p.nakCode = some v then s1.takeNak l
      else s1.storeIn l v

/-- The parity bit fails the profile's parity (R95, R27). -/
def parityFails (p : Profile) (v : Byte) (parityBit : Bool) : Bool :=
  match parityBitOf p.parity (dataBitList p.dataBits v) with
  | none => false
  | some b => b != parityBit

/-- A character completes at its first stop bit sample and is sorted by the first test that holds (R95). -/
def State.sortCharacter (s : State) (l : Fin 8) (sampled : Byte) (parityBit stopBit : Bool) : State :=
  let p := s.prof l
  let v := maskWidth p.dataBits sampled
  if stopBit = false ∧ v = 0#8 ∧ (p.parity = .none ∨ parityBit = false) then s.breakDetected l
  else if stopBit = false then s.framingError l
  else if parityFails p v parityBit = true then s.parityError l
  else s.goodCharacter l v

/-- A character completes on RXDn in a state in which the receiver works (R94, R95, R111); it is ignored otherwise. -/
def State.characterReceived (s : State) (l : Fin 8) (sampled : Byte) (parityBit stopBit : Bool) : State :=
  let s1 := s.mapLine l (fun ln => { ln with rxd := if stopBit then .mark else .space })
  if (s.line l).working = true ∧ (s.line l).rx = .character then (s1.sortCharacter l sampled parityBit stopBit).settle l
  else s1

/-- The inbound idle timer expires: the current cell is sealed (R102). -/
def State.idleExpiry (s : State) (l : Fin 8) : State :=
  if (s.line l).idleTimer ≠ .stopped then s.mapLine l (fun ln => Line.sealCurrent { ln with idleTimer := .stopped }) else s

end Sys2Proof.Machine
end

