-- ==== Sys2Proof/Machine/Status.lean ====
section
/-!
DEFINITION. The Status Decoder (chapter 6): sampled changes, debounce, adoption of a combination, changes of condition and CONDITION events.
-/
namespace Sys2Proof.Machine

/-- The decoder works: the line is in a state in which it works and the profile's status decoding is on (R114, R120). -/
def Line.decodes (p : Profile) (ln : Line) : Bool := ln.working && p.decoding

/-- The decode map entry of a combination (R114). -/
def Profile.entry (p : Profile) (c : Fin 8) : MapEntry := p.map[c]

/-- Whether a condition entered from a map entry is reported (R118). -/
def MapEntry.reported (m : MapEntry) : Bool := m.report || m.cond == .invalid

/-- A CONDITION event for the condition just entered: it carries last reported and the unreported changes, then resets them (R118). -/
def State.reportCondition (s : State) (l : Fin 8) : State :=
  let ln := s.line l
  (s.mapLine l (fun x => { x with lastReported := x.cond, unreported := 0 })).raise l
    (.condition ln.cond ln.lastReported ln.unreported)

/-- The ack timer at a change of condition (R78, R119): suspended, or a suspended one started again in full. -/
def Line.ackOnCondition (p : Profile) (ln : Line) : Line :=
  match ln.ackTimer with
  | .stopped => ln
  | .running _ => if ln.cond.suspends then { ln with ackTimer := .suspended } else ln
  | .suspended => if ln.cond.suspends then ln else { ln with ackTimer := .running p.ackTimeout }

/-- A combination is adopted as settled; a different condition is a change of condition (R116, R118, R119). -/
def State.adopt (s : State) (l : Fin 8) (c : Fin 8) : State :=
  let p := s.prof l
  let m := p.entry c
  let s1 := s.mapLine l (fun ln => { ln with settled := c, candidate := none, debounceTimer := .stopped })
  if m.cond = (s.line l).cond then s1
  else
    let s2 := s1.mapLine l (fun ln =>
      Line.ackOnCondition p { ln with cond := m.cond, unreported := addCount ln.unreported 1 })
    if m.reported then s2.reportCondition l else s2

/-- A sampled change of the status inputs (R114, R115): debounced, or adopted at once under debounce 0. -/
def State.statusChange (s : State) (l : Fin 8) (c : Fin 8) : State :=
  let ln := s.line l
  let p := s.prof l
  let s1 := s.mapLine l (fun x => { x with st := c })
  if ln.decodes p = true ∧ c ≠ ln.st then
    (if p.debounce = 0 then s1.adopt l c
     else s1.mapLine l (fun x => { x with candidate := some c, debounceTimer := .running p.debounce })).settle l
  else s1

/-- The debounce timer expires: the candidate is adopted (R116). -/
def State.debounceExpiry (s : State) (l : Fin 8) : State :=
  let ln := s.line l
  match ln.candidate with
  | some c => if ln.debounceTimer ≠ .stopped then (s.adopt l c).settle l else s
  | none => s

/-- The decoder's part of OPEN (R117): with decoding on the inputs are sampled and taken as settled without debounce, and
the opening condition is reported if its entry says so; with decoding off the record keeps its CLOSED values. -/
def State.openDecoder (s : State) (l : Fin 8) : State :=
  let p := s.prof l
  if p.decoding then
    let c := (s.line l).st
    let m := p.entry c
    let s1 := s.mapLine l (fun ln => { ln with settled := c, cond := m.cond })
    if m.reported then s1.reportCondition l else s1
  else s

end Sys2Proof.Machine
end

