-- ==== Sys2Proof/Machine/LineControl.lean ====
section
/-!
DEFINITION. The owners of the line requests (chapters 3 to 6): OPEN LINE, CLOSE LINE in both forms, FLUSH, RESUME, DISCARD BLOCKS, READ LINE, SEND BREAK, PAUSE INBOUND, RESUME INBOUND and SET AUX; and the taking of PART RESET.
-/
namespace Sys2Proof.Machine

/-! ## OPEN LINE (R6, R42, R43) -/

/-- A line's values at OPEN (R43), the decoder's apart. -/
def Line.opened (p : Profile) (ln : Line) : Line :=
  { ln.closedFrom with
    state := .running
    counters := Counters.zero
    resOut := p.outQuota
    resIn := p.inQuota
    Lsent := BitVec.ofNat 32 (Config.cellBytes * p.outQuota)
    grantDue := true
    rdyo := true }

/-- The line opens: the quotas are reserved and every record takes its opening value (R6, R43, R117). -/
def State.openNow (s : State) (l : Fin 8) : State :=
  let p := s.prof l
  { s.mapLine l (Line.opened p) with
    pool := { s.pool with unreserved := s.pool.unreserved - (p.outQuota + p.inQuota) } }.openDecoder l

/-- OPEN LINE (R42). -/
def ownOpenLine (s : State) (ops : List Byte) : State × Reply :=
  match indexOperand 8 ops 0 with
  | none => (s, .plain .badOperand)
  | some l =>
      if (s.line l).state ≠ .closed then (s, .plain .wrongState)
      else if s.pool.unreserved < (s.prof l).outQuota + (s.prof l).inQuota then (s, .plain .noRoom)
      else (s.openNow l, .plain .ok)

/-! ## CLOSE LINE (R44, R46, R50) -/

/-- A line whose long request becomes the given one. -/
def Line.setLong (k : LongKind) (slot : Option (Fin 4)) (nIn nOut : Nat) (ln : Line) : Line :=
  { ln with long := some ⟨k, slot, false, nIn, nOut⟩ }

/-- A drain is taken: the line enters DRAINING and its HOLD markers are removed without an event (R46). That it seals no current
cell here, though R21 names the line leaving its open states among the causes of sealing, is the model's choice (log 34): the
line goes on receiving (R47), and the cell is discarded at the drain's completion (R48) or by an abort (R50). -/
def State.beginDrain (s : State) (l : Fin 8) (slot : Option (Fin 4)) : State :=
  (s.mapLine l (fun ln =>
    Line.setLong .closeDrain slot 0 0
      { ln with state := .draining, markers := ln.markers.filter (fun m => m.kind != .hold) })).settle l

/-- CLOSE LINE (drain) taken into a slot (R46). -/
def closeDrain (s : State) (n : Fin 4) (l : Fin 8) : State :=
  let ln := s.line l
  if ln.state = .closed then s.complete n (.plain .wrongState)
  else if ln.long.isSome then s.complete n (.plain .lineBusy)
  else if ln.state = .stalled then s.complete n (.plain .drainFailed)
  else s.beginDrain l (some n)

/-- A line's values when an abort is taken, its queues apart (R50, R111, R120). -/
def Line.aborted (slot : Option (Fin 4)) (nIn nOut : Nat) (ln : Line) : Line :=
  Line.setLong .closeAbort slot nIn nOut
    { ln with
      state := .draining
      tx := if ln.tx = .brk then .idle else ln.tx.abandon
      brk := .none
      openBlock := none
      endWaiting := false
      blocks := []
      resend := false
      markers := []
      pause := .none
      gapTimer := .stopped
      ackTimer := .stopped
      pauseTimer := .stopped
      lingerTimer := .stopped
      breakTimer := .stopped
      rx := .idle
      candidate := none
      debounceTimer := .stopped }

/-- An abort is taken (R50, R153): both queues are discarded and counted, the line's records take their values and its
pending event records are removed. -/
def State.abortLine (s : State) (l : Fin 8) (slot : Option (Fin 4)) : State :=
  let ln := s.line l
  let nIn := ln.discardableBytes
  let nOut := (ln.S - ln.Rt).toNat
  let s1 := ((s.giveUpOutbound l).dropInbound l (fun c => c.inFrame)).mapLine l (Line.aborted slot nIn nOut)
  { s1 with events := s1.events.removeLine l }

/-- An abort may overtake what is in progress on the line: nothing, a drain not yet complete, or a break (R44). -/
def Line.abortable (ln : Line) : Bool :=
  match ln.long with
  | none => true
  | some g => (g.kind == .closeDrain && !g.completing) || g.kind == .sendBreak

/-- CLOSE LINE (abort) taken into a slot (R50, R44): a drain or break overtaken is answered ABORTED first. -/
def closeAbort (s : State) (n : Fin 4) (l : Fin 8) : State :=
  let ln := s.line l
  if ln.state = .closed then s.complete n (.plain .wrongState)
  else if ln.abortable then ((s.finishLong l (.plain .aborted)).abortLine l (some n)).settle l
  else s.complete n (.plain .lineBusy)

/-- CLOSE LINE (R46): the operand check, then the form. -/
def ownCloseLine (s : State) (n : Fin 4) (ops : List Byte) : State :=
  match indexOperand 8 ops 0, u8 ops 1 with
  | some l, 0 => closeDrain s n l
  | some l, 1 => closeAbort s n l
  | _, _ => s.complete n (.plain .badOperand)

/-! ## FLUSH (R53 to R55) -/

/-- A line's values under FLUSH with outbound selected, its queue apart (R54). -/
def Line.flushedOut (ln : Line) : Line :=
  { ln with
    blocks := []
    openBlock := none
    endWaiting := false
    resend := false
    retry := 0
    ackTimer := .stopped
    lingerTimer := .stopped
    stopped := false
    markers := []
    tx := ln.tx.abandon
    state := .running }

/-- The discards of FLUSH for the selected directions (R54, R55). -/
def State.flushDiscard (s : State) (l : Fin 8) (out inn : Bool) : State :=
  let s1 := if out then (s.giveUpOutbound l).mapLine l Line.flushedOut else s
  if inn then s1.dropInbound l (fun c => c.inFrame) else s1

/-- A FLUSH is taken (R53): it becomes the line's long request, its discards take effect, and it completes at once when no
character is in the shift register. -/
def State.beginFlush (s : State) (l : Fin 8) (n : Fin 4) (out inn : Bool) : State :=
  let ln := s.line l
  let nIn := if inn then ln.discardableBytes else 0
  let nOut := if out then (ln.S - ln.Rt).toNat else 0
  ((s.flushDiscard l out inn).mapLine l (Line.setLong .flush (some n) nIn nOut)).settle l

/-- FLUSH (R53): selection 1 for outbound, 2 for inbound, 3 for both. -/
def ownFlush (s : State) (n : Fin 4) (ops : List Byte) : State :=
  match indexOperand 8 ops 0 with
  | none => s.complete n (.plain .badOperand)
  | some l =>
      let sel := u8 ops 1
      if within 1 3 sel then
        let ln := s.line l
        if ln.state = .closed ∨ ln.state = .draining then s.complete n (.plain .wrongState)
        else if ln.long.isSome then s.complete n (.plain .lineBusy)
        else s.beginFlush l n (sel != 2) (sel != 1)
      else s.complete n (.plain .badOperand)

/-! ## RESUME and DISCARD BLOCKS (R56, R57) -/

/-- The reached barrier's HOLD marker removed and the line RUNNING (R56, R136). -/
def Line.release (ln : Line) : Line :=
  { ln with state := .running, markers := ln.markers.eraseP (fun m => m.kind == .hold) }

/-- RESUME in STALLED: the retry count is 0, the line is RUNNING and a resend begins (R56, R84). -/
def Line.resumeStalled (ln : Line) : Line := Line.beginResend { ln with retry := 0, state := .running }

/-- RESUME (R56). -/
def ownResume (s : State) (ops : List Byte) : State × Reply :=
  match indexOperand 8 ops 0 with
  | none => (s, .plain .badOperand)
  | some l =>
      match (s.line l).state with
      | .held => ((s.mapLine l Line.release).settle l, .plain .ok)
      | .stalled => ((s.mapLine l Line.resumeStalled).settle l, .plain .ok)
      | .closed => (s, .plain .wrongState)
      | .running => (s, .plain .wrongState)
      | .draining => (s, .plain .wrongState)

/-- The line's values when every outstanding block is given up, Rt apart: MARK markers below Rt are removed without an event,
the list is emptied and the line leaves STALLED (R57). -/
def Line.discardedBlocks (ln : Line) : Line :=
  Line.leaveStalled
    { ln with
      markers := ln.markers.filter (fun m => !Marker.passed ln.Rt m)
      blocks := []
      retry := 0
      resend := false
      ackTimer := .stopped }

/-- DISCARD BLOCKS in STALLED (R57). -/
def State.discardBlocks (s : State) (l : Fin 8) : State :=
  let ln := s.line l
  let rt := match ln.newestEnd with
    | some e => e
    | none => ln.Rt
  ((s.moveRt l rt).mapLine l Line.discardedBlocks).settle l

/-- DISCARD BLOCKS (R57). -/
def ownDiscardBlocks (s : State) (ops : List Byte) : State × Reply :=
  match indexOperand 8 ops 0 with
  | none => (s, .plain .badOperand)
  | some l =>
      if (s.line l).state = .stalled then (s.discardBlocks l, .plain .ok) else (s, .plain .wrongState)

/-! ## READ LINE (R59, R60) -/

/-- The code of a line's long request (Table 10-13). -/
def Line.longCode (ln : Line) : Nat :=
  match ln.long with
  | some g => g.kind.code
  | none => 0

/-- The data of READ LINE (Table 10-14). -/
def Line.data (ln : Line) : List Byte :=
  [byteOf ln.state.code, byteOf ln.longCode, byteOf ln.binding.val, byteOf ln.cond.code]
  ++ be32 ln.A ++ be32 ln.S ++ be32 ln.T ++ be32 ln.Rt ++ be32 ln.limit
  ++ [byteOf ln.outQ.length, byteOf ln.inQ.length, byteOf ln.blocks.length, byteOf ln.markers.length,
      flagByte [ln.stopped, ln.resend], byteOf ln.retry]
  ++ ln.counters.list.flatMap be16

/-- READ LINE (R59); clear 1 sets the ten counters to 0 in the same event (R60). -/
def ownReadLine (s : State) (ops : List Byte) : State × Reply :=
  match indexOperand 8 ops 0, u8 ops 1 with
  | some l, 0 => (s, .okWith (s.line l).data)
  | some l, 1 => (s.mapLine l (fun ln => { ln with counters := Counters.zero }), .okWith (s.line l).data)
  | _, _ => (s, .plain .badOperand)

/-! ## SEND BREAK (R89) -/

/-- SEND BREAK (R89): the break becomes pending, and begins at once when no character is in the shift register. -/
def ownSendBreak (s : State) (n : Fin 4) (ops : List Byte) : State :=
  match indexOperand 8 ops 0 with
  | none => s.complete n (.plain .badOperand)
  | some l =>
      let ln := s.line l
      if ln.state = .closed then s.complete n (.plain .wrongState)
      else if ln.long.isSome then s.complete n (.plain .lineBusy)
      else (s.mapLine l (fun x => Line.setLong .sendBreak (some n) 0 0 { x with brk := .pending })).beginPendingBreak l

/-! ## PAUSE INBOUND, RESUME INBOUND (R110), SET AUX (R121) -/

/-- PAUSE INBOUND and RESUME INBOUND: the paused-inbound flag set or cleared (R110). -/
def setPaused (s : State) (ops : List Byte) (v : Bool) : State × Reply :=
  match indexOperand 8 ops 0 with
  | none => (s, .plain .badOperand)
  | some l =>
      if (s.line l).state = .closed then (s, .plain .wrongState)
      else (s.mapLine l (fun ln => { ln with paused := v }), .plain .ok)

def ownPauseInbound (s : State) (ops : List Byte) : State × Reply := setPaused s ops true

def ownResumeInbound (s : State) (ops : List Byte) : State × Reply := setPaused s ops false

/-- SET AUX (R121): AUXOn is driven to the level, and the data is the level before. -/
def ownSetAux (s : State) (ops : List Byte) : State × Reply :=
  match indexOperand 8 ops 0 with
  | none => (s, .plain .badOperand)
  | some l =>
      if u8 ops 1 ≤ 1 then
        (s.mapLine l (fun ln => { ln with auxo := u8 ops 1 == 1 }), .okWith [bitByte (s.line l).auxo])
      else (s, .plain .badOperand)

/-! ## PART RESET taken (R163) -/

/-- A slot is held by a line whose drain's completion has been taken (R48, R163). -/
def State.slotOfTakenDrain (s : State) (n : Fin 4) : Bool :=
  s.lines.toList.any (fun ln => ln.drainTaken && (match ln.long with
    | some g => g.slot == some n
    | none => false))

/-- A slot PART RESET answers with ABORTED: another's, in progress, and not that of a drain already complete (R163). -/
def State.slotAborted (s : State) (own : Fin 4) (k : Slot) : Bool :=
  k.num != own && k.phase == .inProgress && !s.slotOfTakenDrain k.num

/-- The refusal list emptied; an entry whose frame is on the trunk stays until that frame's end (R163, R158; log 15). -/
def State.emptyRefusals (s : State) : State :=
  let kept := match s.trunk.tx with
    | some f => if f.carries = .refusal then s.reqs.refusals.take 1 else []
    | none => []
  { s with reqs := { s.reqs with refusals := kept, order := s.reqs.order.filter (fun i => i != .refusal), dropped := 0 } }

/-- One line under PART RESET (R163): aborted, unless it is CLOSED, its abort is in progress (whose response has been given),
or its drain's completion has been taken. -/
def State.resetLine (s : State) (l : Fin 8) : State :=
  let ln := s.line l
  if ln.state = .closed then s
  else if ln.drainTaken then s
  else if ln.underAbort then s.mapLine l (fun x => { x with long := x.long.map (fun g => { g with slot := none }) })
  else (s.abortLine l none).settle l

/-- PART RESET is taken with keep or clear (R163). -/
def State.beginPartReset (s : State) (n : Fin 4) (clear : Bool) : State :=
  let doomed := (s.reqs.slots.filter (s.slotAborted n)).map Slot.num
  let s1 := (doomed.foldl (fun (t : State) k => t.complete k (.plain .aborted)) s).emptyRefusals
  let s2 : State := { s1 with reqs := { s1.reqs with partReset := some ⟨some n, clear⟩ } }
  (allLines.foldl State.resetLine s2).testPartReset

/-- PART RESET (R163). -/
def ownPartReset (s : State) (n : Fin 4) (ops : List Byte) : State :=
  match u8 ops 0 with
  | 0 => s.beginPartReset n false
  | 1 => s.beginPartReset n true
  | _ => s.complete n (.plain .badOperand)

end Sys2Proof.Machine
end

