-- ==== Sys2Proof/Machine/LineCommands.lean ====
section
/-!
DEFINITION. The meanings of the line commands. An event that cannot happen in the state it comes in leaves the state as it is (log 2).
-/
namespace Sys2Proof.Machine

/-- An IDLE transmitter starts the first character that may go (R64). -/
def execTransmitterChoice (l : Fin 8) (s : State) : Host.Outcome State Fault Refusal :=
  .next (s.transmitterChoice l)

/-- The last stop bit of the character in the shift register has been sent (R63). -/
def execCharacterCompletion (l : Fin 8) (s : State) : Host.Outcome State Fault Refusal :=
  .next (s.characterCompletion l)

/-- The gap timer expires (R63). -/
def execGapTimerExpiry (l : Fin 8) (s : State) : Host.Outcome State Fault Refusal :=
  .next (s.gapExpiry l)

/-- The ack timer expires (R83). -/
def execAckTimerExpiry (l : Fin 8) (s : State) : Host.Outcome State Fault Refusal :=
  .next (s.ackExpiry l)

/-- The pause timer expires (R70). -/
def execPauseTimerExpiry (l : Fin 8) (s : State) : Host.Outcome State Fault Refusal :=
  .next (s.pauseExpiry l)

/-- The block linger timer expires (R75). -/
def execLingerTimerExpiry (l : Fin 8) (s : State) : Host.Outcome State Fault Refusal :=
  .next (s.lingerExpiry l)

/-- The break timer expires (R90). -/
def execBreakTimerExpiry (l : Fin 8) (s : State) : Host.Outcome State Fault Refusal :=
  .next (s.endBreak l)

/-- A pending break begins (R90; log 1). -/
def execBreakBegin (l : Fin 8) (s : State) : Host.Outcome State Fault Refusal :=
  .next (s.beginPendingBreak l)

/-- A FLUSH completes when the transmitter is not in CHARACTER (R53; log 1). -/
def execFlushComplete (l : Fin 8) (s : State) : Host.Outcome State Fault Refusal :=
  .next (s.testFlush l)

/-- RDYIn changes level (R68). -/
def execRdyiChange (l : Fin 8) (asserted : Bool) (s : State) : Host.Outcome State Fault Refusal :=
  .next (s.rdyiChange l asserted)

/-- A character completes on RXDn at its first stop bit sample (R94, R95). -/
def execCharacterReceived (l : Fin 8) (sampled : Byte) (parityBit stopBit : Bool) (s : State) : Host.Outcome State Fault Refusal :=
  .next (s.characterReceived l sampled parityBit stopBit)

/-- RXDn returns to mark and ends a received break (R98). -/
def execReceiverBreakEnd (l : Fin 8) (s : State) : Host.Outcome State Fault Refusal :=
  .next (s.mapLine l Line.breakEnd)

/-- The inbound idle timer expires (R102). -/
def execIdleTimerExpiry (l : Fin 8) (s : State) : Host.Outcome State Fault Refusal :=
  .next (s.idleExpiry l)

/-- A sampled change of the status inputs (R114, R115). -/
def execStatusChange (l : Fin 8) (c : Fin 8) (s : State) : Host.Outcome State Fault Refusal :=
  .next (s.statusChange l c)

/-- The debounce timer expires (R116). -/
def execDebounceTimerExpiry (l : Fin 8) (s : State) : Host.Outcome State Fault Refusal :=
  .next (s.debounceExpiry l)

/-- A drain completes when its four conditions hold, and the line enters CLOSED unless an inbound frame carries its cells (R48; log 1). -/
def execDrainComplete (l : Fin 8) (s : State) : Host.Outcome State Fault Refusal :=
  .next ((s.testDrain l).testClose l |>.testPartReset)

/-- An abort completes when its transmitter is free and no inbound frame carries the line's cells (R51; log 1). -/
def execAbortComplete (l : Fin 8) (s : State) : Host.Outcome State Fault Refusal :=
  .next (if (s.line l).underAbort then (s.testClose l).testPartReset else s)

/-- A line whose close has nothing left to wait for enters CLOSED (R7, R52; log 1). -/
def execEntryToClosed (l : Fin 8) (s : State) : Host.Outcome State Fault Refusal :=
  .next ((s.testClose l).testPartReset)

/-- A mark-to-space transition of RXDn (R94). -/
def execStartEdge (l : Fin 8) (s : State) : Host.Outcome State Fault Refusal :=
  .next (s.mapLine l Line.startEdge)

/-- RXDn at mark at the middle of the start bit (R94). -/
def execFalseStart (l : Fin 8) (s : State) : Host.Outcome State Fault Refusal :=
  .next (s.mapLine l Line.falseStart)

/-- RXDn seen at mark while the receiver is IDLE (R94). -/
def execReceiverArmed (l : Fin 8) (s : State) : Host.Outcome State Fault Refusal :=
  .next (s.mapLine l Line.arm)

end Sys2Proof.Machine
end

