-- ==== Sys2Proof/Machine/Accept.lean ====
section
/-!
DEFINITION. The acceptance of DATA frames: the pattern scan (R128, R129), the tests of R14, storing and marking (R9, R129), refusals (R15) and grant prompts (R16).
-/
namespace Sys2Proof.Machine

/-! ## The scan (R128, R129) -/

/-- A pattern entry matches at the head of the bytes left in a frame, for a line (R128). -/
def Pattern.matchesAt (p : Pattern) (l : Fin 8) (rest : List Byte) : Bool :=
  p.inUse && p.lineSet.getLsbD l.val && decide (p.length ≤ rest.length)
    && (rest.take p.length == p.bytes.toList.take p.length)

/-- The sixteen entry indexes in ascending order. -/
def allEntries : List (Fin 16) := [0, 1, 2, 3, 4, 5, 6, 7, 8, 9, 10, 11, 12, 13, 14, 15]

/-- The candidate with the lowest entry index (R128). -/
def matchAt (pats : Vector Pattern 16) (l : Fin 8) (rest : List Byte) : Option (Fin 16) :=
  allEntries.find? (fun i => pats[i].matchesAt l rest)

/-- A marker the scan calls for: kind, tag and entry of the match, the number of the frame's bytes stored before its last
byte, and the number of the frame's bytes up to and with its last byte (R129). -/
structure ScanMark where
  kind : MarkerKind
  tag : Byte
  entry : Fin 16
  storedOff : Nat
  acceptedOff : Nat
  deriving DecidableEq, Repr

/-- The outcome of a scan: the bytes left to be stored and the markers, in order (R129). -/
structure Scan where
  stored : List Byte
  marks : List ScanMark
  deriving DecidableEq, Repr

/-- The scan of a frame's bytes (R128, R129): `skip` bytes still belong to the last match, `i` is the position in the payload,
`n` the number of bytes stored so far. -/
def scanFrom (pats : Vector Pattern 16) (l : Fin 8) : Nat → Nat → Nat → List Byte → Scan
  | _, _, _, [] => ⟨[], []⟩
  | skip + 1, i, n, _ :: bs => scanFrom pats l skip (i + 1) n bs
  | 0, i, n, b :: bs =>
      match matchAt pats l (b :: bs) with
      | none =>
          let r := scanFrom pats l 0 (i + 1) (n + 1) bs
          ⟨b :: r.stored, r.marks⟩
      | some e =>
          let p := pats[e]
          let k := p.length
          match p.action with
          | .strip => scanFrom pats l (k - 1) (i + 1) n bs
          | .mark =>
              let r := scanFrom pats l (k - 1) (i + 1) (n + k) bs
              ⟨(b :: bs).take k ++ r.stored, ⟨.mark, p.tag, e, n + k - 1, i + k⟩ :: r.marks⟩
          | .hold =>
              let r := scanFrom pats l (k - 1) (i + 1) (n + k) bs
              ⟨(b :: bs).take k ++ r.stored, ⟨.hold, p.tag, e, n + k - 1, i + k⟩ :: r.marks⟩

/-- The scan of a whole payload (R128). -/
def scan (pats : Vector Pattern 16) (l : Fin 8) (payload : List Byte) : Scan := scanFrom pats l 0 0 0 payload

/-- The marker appended for a match, with A and S just before the frame (R129). -/
def ScanMark.marker (m : ScanMark) (a0 s0 : Pos) : Marker :=
  ⟨m.kind, m.tag, m.entry, s0 + BitVec.ofNat 32 m.storedOff, a0 + BitVec.ofNat 32 m.acceptedOff, false⟩

/-! ## Refusal and acceptance (R14 to R16) -/

/-- A refused DATA frame: counted, and a REFUSED event raised (R15). -/
def State.refuseData (s : State) (l : Fin 8) (reason : ReasonSet) (n : Nat) : State :=
  (s.mapLine l (·.count Counters.addRefused)).raise l (.refused reason 1 n)

/-- An accepted frame's effect on the line's record (R9, R14, R16, R129). -/
def Line.accept (p : Profile) (out : Scan) (n : Nat) (ln : Line) : Line :=
  let x : Line := { Line.storeBytes ln out.stored with
    A := ln.A + BitVec.ofNat 32 n
    markers := ln.markers ++ out.marks.map (fun m => m.marker ln.A ln.S) }
  let y := grantTest p ln x
  { y with grantDue := y.grantDue || n == 0 }

/-- An accepted frame: the line's record changes in one event, and the cells it took leave the free list (R5, R9, R14). -/
def State.acceptData (s : State) (l : Fin 8) (out : Scan) (n : Nat) : State :=
  let ln := s.line l
  let x := ln.accept (s.prof l) out n
  ((s.setLine l x).takeCells (x.outQ.length - ln.outQ.length)).settle l

/-- A DATA frame handed to the pool for a line: closed, credit and marker-overflow tests in this order, then accepted whole (R14, R131). -/
def State.takeData (s : State) (l : Fin 8) (payload : List Byte) : State :=
  let ln := s.line l
  let n := payload.length
  if ln.state = .closed ∨ ln.state = .draining then s.refuseData l ⟨false, true, false⟩ n
  else if ln.credit < n then s.refuseData l ⟨true, false, false⟩ n
  else
    let out := scan s.patterns l payload
    if Config.maxMarkers < ln.markers.length + out.marks.length then s.refuseData l ⟨false, false, true⟩ n
    else s.acceptData l out n

end Sys2Proof.Machine
end

