-- ==== Sys2Proof/Machine/EventUnit.lean ====
section
/-!
DEFINITION. The Event Unit (chapter 8): eligibility, reports and repeats, acknowledgement, masks, the order, and a link restart.
-/
namespace Sys2Proof.Machine

/-! ## Class entries -/

/-- The entry of a class. -/
def EventUnit.cls (e : EventUnit) (c : Fin 8) : ClassEntry := e.classes[c]

/-- The entry of a class replaced. -/
def EventUnit.setCls (e : EventUnit) (c : Fin 8) (x : ClassEntry) : EventUnit :=
  { e with classes := e.classes.set c.val x c.isLt }

/-- The nine sources in ascending order: lines 0 to 7, and 8 for the part. -/
def allSources : List (Fin 9) := [0, 1, 2, 3, 4, 5, 6, 7, 8]

/-- The eight classes in ascending order. -/
def allClasses : List (Fin 8) := [0, 1, 2, 3, 4, 5, 6, 7]

/-- The pending records of a class in ascending source order (R144). -/
def EventUnit.records (e : EventUnit) (c : Fin 8) : List (Fin 9 × EventRec) :=
  allSources.filterMap (fun src => (e.place c src).map (fun r => (src, r)))

/-- A class has a report in service. -/
def EventUnit.inService (e : EventUnit) (c : Fin 8) : Bool := (e.cls c).report.isSome

/-! ## Order and eligibility (R141, R142) -/

/-- One class stands above another: it comes earlier in the order (R141). -/
def EventUnit.above (e : EventUnit) (c d : Fin 8) : Bool := decide (e.order.idxOf c < e.order.idxOf d)

/-- A class is eligible for a new report (R142). -/
def EventUnit.eligible (e : EventUnit) (c : Fin 8) : Bool :=
  !(e.cls c).mask && !(e.records c).isEmpty && !e.inService c
    && allClasses.all (fun d => !e.inService d || e.above c d)

/-- The order that starts just after a class, so that the class is lowest (R141). -/
def rotated (c : Fin 8) : List (Fin 8) :=
  [c + 1, c + 2, c + 3, c + 4, c + 5, c + 6, c + 7, c]

/-- The class whose repeat is due that stands highest (R143). -/
def EventUnit.repeatClass (e : EventUnit) : Option (Fin 8) := e.order.find? (fun c => (e.cls c).due && e.inService c)

/-- The eligible class that stands highest (R143). -/
def EventUnit.newClass (e : EventUnit) : Option (Fin 8) := e.order.find? e.eligible

/-- The repeat timer started with the repeat interval; 0 starts nothing (R144, R145). -/
def EventUnit.repeatTimer (e : EventUnit) : Timer := if e.interval = 0 then .stopped else .running (10 * e.interval)

/-! ## Reports and repeats (R144, R145) -/

/-- A new report of a class: its pending records leave the table, its number rises, it goes into service and its repeat timer
starts (R144). -/
def EventUnit.newReport (e : EventUnit) (c : Fin 8) : EventUnit × Report :=
  let x := e.cls c
  let r : Report := ⟨c, x.number + 1, e.records c⟩
  ({ e with
      pending := e.pending.set c.val (Vector.replicate 9 none) c.isLt
      classes := e.classes.set c.val
        { x with number := x.number + 1, report := some r, timer := e.repeatTimer, due := false } c.isLt }, r)

/-- The repeat of a class's in-service report: its repeat-due flag is cleared and its timer starts again (R145). -/
def EventUnit.repeatSent (e : EventUnit) (c : Fin 8) : EventUnit :=
  e.setCls c { e.cls c with due := false, timer := e.repeatTimer }

/-- What the Event Unit's turn carries (R143): the highest repeat due, else a new report of the highest eligible class. -/
def EventUnit.turn (e : EventUnit) : Option (EventUnit × Report) :=
  match e.repeatClass with
  | some c => (e.cls c).report.map (fun r => (e.repeatSent c, r))
  | none => e.newClass.map e.newReport

/-- The repeat timer of a class expires (R145). -/
def EventUnit.repeatExpiry (e : EventUnit) (c : Fin 8) : EventUnit :=
  if (e.cls c).timer = .stopped then e else e.setCls c { e.cls c with due := true, timer := .stopped }

/-! ## Acknowledgement (R147, R148) -/

/-- The in-service report of a class is cleared, and in ROTATING the order rotates so that the class is lowest (R147). -/
def EventUnit.clear (e : EventUnit) (c : Fin 8) : EventUnit :=
  let e1 := e.setCls c { e.cls c with report := none, timer := .stopped, due := false }
  if e.mode = .rotating then { e1 with order := rotated c } else e1

/-- A specific acknowledgement (R147): the class and number answered, when they match. -/
def EventUnit.ackSpecific (e : EventUnit) (c : Fin 8) (k : Byte) : Option EventUnit :=
  match (e.cls c).report with
  | some r => if r.number = k then some (e.clear c) else none
  | none => none

/-- The in-service class that stands highest (R148). -/
def EventUnit.highestInService (e : EventUnit) : Option (Fin 8) := e.order.find? e.inService

/-! ## Link restart (R154) -/

/-- One record of an in-service report returned to its place, the pending record there counting as the newer (R154). -/
def EventUnit.returnRecord (e : EventUnit) (c : Fin 8) (sr : Fin 9 × EventRec) : EventUnit :=
  e.setPlace c sr.1 (some (match e.place c sr.1 with
    | none => sr.2
    | some p => sr.2.merge p))

/-- The in-service report of a class returned to the pending table; its timer stops and its repeat-due flag is cleared (R154). -/
def EventUnit.returnClass (e : EventUnit) (c : Fin 8) : EventUnit :=
  let x := e.cls c
  let e1 := match x.report with
    | some r => r.records.foldl (fun (u : EventUnit) sr => u.returnRecord c sr) e
    | none => e
  e1.setCls c { x with report := none, timer := .stopped, due := false }

/-- The Event Unit at a link restart (R154). -/
def EventUnit.restart (e : EventUnit) : EventUnit := allClasses.foldl EventUnit.returnClass e

end Sys2Proof.Machine
end

