-- ==== Sys2Proof/Machine/Tables.lean ====
section
/-!
DEFINITION. The owners of the short requests on part-wide tables: READ PART and SET GRANT REFRESH, the Profile Table, the Pattern Unit and the Event Unit. Each takes the state and the operand bytes of an admitted request and gives the state after it and its reply.
-/
namespace Sys2Proof.Machine

/-! ## READ PART (R165) and SET GRANT REFRESH (R18) -/

/-- The data of READ PART (Table 10-15). -/
def State.partData (s : State) : List Byte :=
  be16 Config.familyCode ++ [byteOf Config.revision] ++ be16 Config.poolCells ++ be16 s.pool.free
    ++ be16 s.pool.unreserved ++ s.trunk.counters.list.flatMap be16 ++ be16 s.reqs.dropped ++ [byteOf s.pool.refresh]

/-- READ PART (R165): clear 1 sets the trunk counters and the dropped-request count to 0 in the same event. -/
def ownReadPart (s : State) (ops : List Byte) : State × Reply :=
  match u8 ops 0 with
  | 0 => (s, .okWith s.partData)
  | 1 =>
      ({ s with trunk := { s.trunk with counters := TrunkCounters.zero }, reqs := { s.reqs with dropped := 0 } },
       .okWith s.partData)
  | _ => (s, .plain .badOperand)

/-- The grant refresh timer for a setting (R18). -/
def refreshTimer (n : Nat) : Timer := if n = 0 then .stopped else .running (10 * n)

/-- SET GRANT REFRESH (R18). -/
def ownSetGrantRefresh (s : State) (ops : List Byte) : State × Reply :=
  let n := u8 ops 0
  ({ s.mapLines (fun ln => { ln with recentGrant := false }) with
      pool := { s.pool with refresh := n, refreshTimer := refreshTimer n } }, .plain .ok)

/-- The grant refresh timer expires (R18): every line that is not CLOSED and has had no recent grant becomes grant-due, the
recent-grant flags are cleared and the timer restarts. -/
def State.refreshExpiry (s : State) : State :=
  if s.pool.refreshTimer = .stopped then s
  else
    { s.mapLines (fun ln =>
        { ln with
          grantDue := ln.grantDue || (ln.state != .closed && !ln.recentGrant)
          recentGrant := false }) with
      pool := { s.pool with refreshTimer := refreshTimer s.pool.refresh } }

/-! ## Profile Table (R30, R36, R37) -/

/-- LOAD PROFILE (R30 to R35). -/
def ownLoadProfile (s : State) (ops : List Byte) : State × Reply :=
  match indexOperand 8 ops 0 with
  | none => (s, .plain .badOperand)
  | some i =>
      if s.profileInUse i then (s, .plain .profileInUse)
      else match profileFail ops.tail with
        | some f => (s, ⟨.badProfile, [byteOf f]⟩)
        | none => ({ s with profiles := s.profiles.set i.val (Profile.ofBytes ops.tail) i.isLt }, .plain .ok)

/-- READ PROFILE (R36). -/
def ownReadProfile (s : State) (ops : List Byte) : State × Reply :=
  match indexOperand 8 ops 0 with
  | none => (s, .plain .badOperand)
  | some i => (s, .okWith (byteOf i.val :: (s.profiles[i]).bytes))

/-- BIND LINE (R37). -/
def ownBindLine (s : State) (ops : List Byte) : State × Reply :=
  match indexOperand 8 ops 0, indexOperand 8 ops 1 with
  | some l, some i =>
      if (s.line l).state = .closed then (s.mapLine l (fun ln => { ln with binding := i }), .plain .ok)
      else (s, .plain .wrongState)
  | _, _ => (s, .plain .badOperand)

/-! ## Pattern Unit (R125 to R127) -/

/-- The pattern bytes of an operand, those beyond the length stored as 00h (R125). -/
def patternBytes (ops : List Byte) (len : Nat) : Vector Byte 4 :=
  Vector.ofFn (fun i : Fin 4 => if i.val < len then ops.getD (2 + i.val) 0#8 else 0#8)

/-- LOAD PATTERN (R125). -/
def ownLoadPattern (s : State) (ops : List Byte) : State × Reply :=
  match indexOperand 16 ops 0 with
  | none => (s, .plain .badOperand)
  | some i =>
      let len := u8 ops 1
      if within 1 4 len = true ∧ u8 ops 6 ≤ 2 then
        let e : Pattern :=
          ⟨true, len, patternBytes ops len, PatternAction.ofCode (u8 ops 6), ops.getD 7 0#8, ops.getD 8 0#8⟩
        ({ s with patterns := s.patterns.set i.val e i.isLt }, .plain .ok)
      else (s, .plain .badOperand)

/-- CLEAR PATTERN (R126). -/
def ownClearPattern (s : State) (ops : List Byte) : State × Reply :=
  match indexOperand 16 ops 0 with
  | some i => ({ s with patterns := s.patterns.set i.val Pattern.cleared i.isLt }, .plain .ok)
  | none =>
      if u8 ops 0 = 255 then ({ s with patterns := Vector.replicate 16 Pattern.cleared }, .plain .ok)
      else (s, .plain .badOperand)

/-- The marker count of an entry: the markers on all eight lists that name it (R127). -/
def State.markerCount (s : State) (i : Fin 16) : Nat :=
  (s.lines.toList.map (fun ln => (ln.markers.filter (fun m => m.entry == i)).length)).sum

/-- READ PATTERN (R127, Table 10-17). -/
def ownReadPattern (s : State) (ops : List Byte) : State × Reply :=
  match indexOperand 16 ops 0 with
  | none => (s, .plain .badOperand)
  | some i =>
      let p := s.patterns[i]
      (s, .okWith ([byteOf i.val, bitByte p.inUse, byteOf p.length] ++ p.bytes.toList
        ++ [p.action.code, p.tag, p.lineSet, byteOf (s.markerCount i)]))

/-! ## Event Unit (R146 to R152) -/

/-- ACK EVENT in its two forms (R147, R148). -/
def ownAckEvent (s : State) (ops : List Byte) : State × Reply :=
  match u8 ops 0 with
  | 0 => (match indexOperand 8 ops 1 with
      | none => (s, .plain .badOperand)
      | some c => (match s.events.ackSpecific c (ops.getD 2 0#8) with
          | some e => ({ s with events := e }, .okWith [byteOf c.val, ops.getD 2 0#8])
          | none => (s, .plain .notInService)))
  | 1 => (match s.events.highestInService with
      | none => (s, .plain .notInService)
      | some c => (match (s.events.cls c).report with
          | some r => ({ s with events := s.events.clear c }, .okWith [byteOf c.val, r.number])
          | none => (s, .plain .notInService)))
  | _ => (s, .plain .badOperand)

/-- The eight mask flags as class flags (Table 10-13). -/
def EventUnit.maskByte (e : EventUnit) : Byte := flagByte (allClasses.map (fun c => (e.cls c).mask))

/-- SET EVENT MASK (R150). -/
def ownSetEventMask (s : State) (ops : List Byte) : State × Reply :=
  let m := ops.getD 0 0#8
  ({ s with events := { s.events with
      classes := Vector.ofFn (fun c : Fin 8 => { s.events.cls c with mask := m.getLsbD c.val }) } },
   .okWith [s.events.maskByte])

/-- SET EVENT ORDER (R151). -/
def ownSetEventOrder (s : State) (ops : List Byte) : State × Reply :=
  if 1 < u8 ops 0 ∨ (7 < u8 ops 1 ∧ u8 ops 1 < 255) then (s, .plain .badOperand)
  else if u8 ops 0 = 0 then
    ({ s with events := { s.events with mode := .fixed, order := fixedOrder } }, .plain .ok)
  else
    ({ s with events := { s.events with
        mode := .rotating
        order := match indexOperand 8 ops 1 with
          | some c => rotated c
          | none => s.events.order } }, .plain .ok)

/-- A class entry under a new repeat interval (R146). -/
def ClassEntry.underInterval (x : ClassEntry) (n : Nat) : ClassEntry :=
  if n = 0 then { x with timer := .stopped, due := false }
  else if x.report.isSome = true ∧ x.due = false then { x with timer := .running (10 * n) }
  else x

/-- SET REPEAT INTERVAL (R146). -/
def ownSetRepeatInterval (s : State) (ops : List Byte) : State × Reply :=
  let n := u8 ops 0
  ({ s with events := { s.events with
      interval := n
      classes := s.events.classes.map (fun x => x.underInterval n) } },
   .okWith [byteOf s.events.interval])

/-- The data of READ EVENTS (R152, Table 10-16). -/
def EventUnit.data (e : EventUnit) : List Byte :=
  [e.mode.code] ++ e.order.map (fun c => byteOf c.val) ++ [byteOf e.interval, e.maskByte,
    flagByte (allClasses.map e.inService), flagByte (allClasses.map (fun c => (e.cls c).due))]
  ++ allClasses.map (fun c => (e.cls c).number) ++ allClasses.map (fun c => byteOf (e.records c).length)

/-- READ EVENTS (R152). -/
def ownReadEvents (s : State) (_ops : List Byte) : State × Reply := (s, .okWith s.events.data)

end Sys2Proof.Machine
end

