-- ==== Sys2Proof/Machine/Admission.lean ====
section
/-!
DEFINITION. The admission of requests (R157), the taking of a slot (R159), the handing of a request to its owner (Table 9-4), and the Request Unit at a link restart (R162).
-/
namespace Sys2Proof.Machine

/-- The four slot numbers. -/
def allSlots : List (Fin 4) := [0, 1, 2, 3]

/-- A free slot: the lowest number that no held slot has (R159; log 16). -/
def RequestUnit.freeSlot (r : RequestUnit) : Option (Fin 4) :=
  allSlots.find? (fun n => r.slots.all (fun k => k.num != n))

/-- A slot becomes held and in progress (R159). -/
def State.holdSlot (s : State) (n : Fin 4) (c : ReqCode) (tag : Byte) (ops : List Byte) : State :=
  let k : Slot := ⟨n, c.byte, tag, c.owner, if c.namesLine then indexOperand 8 ops 0 else none, .inProgress⟩
  { s with reqs := { s.reqs with slots := s.reqs.slots ++ [k] } }

/-- A short request is completed in the event in which its owner takes it (R160). -/
def State.short (s : State) (n : Fin 4) (own : State → List Byte → State × Reply) (ops : List Byte) : State :=
  let r := own s ops
  r.1.complete n r.2

/-- The owner takes the request (R157 check 6, Table 9-4). START SESSION takes no slot and does not come here (R157). -/
def State.toOwner (s : State) (n : Fin 4) (c : ReqCode) (ops : List Byte) : State :=
  match c with
  | .startSession => s
  | .readPart => s.short n ownReadPart ops
  | .partReset => ownPartReset s n ops
  | .setGrantRefresh => s.short n ownSetGrantRefresh ops
  | .loadProfile => s.short n ownLoadProfile ops
  | .readProfile => s.short n ownReadProfile ops
  | .bindLine => s.short n ownBindLine ops
  | .openLine => s.short n ownOpenLine ops
  | .closeLine => ownCloseLine s n ops
  | .flush => ownFlush s n ops
  | .resume => s.short n ownResume ops
  | .discardBlocks => s.short n ownDiscardBlocks ops
  | .readLine => s.short n ownReadLine ops
  | .sendBreak => ownSendBreak s n ops
  | .pauseInbound => s.short n ownPauseInbound ops
  | .resumeInbound => s.short n ownResumeInbound ops
  | .setAux => s.short n ownSetAux ops
  | .loadPattern => s.short n ownLoadPattern ops
  | .clearPattern => s.short n ownClearPattern ops
  | .readPattern => s.short n ownReadPattern ops
  | .ackEvent => s.short n ownAckEvent ops
  | .setEventMask => s.short n ownSetEventMask ops
  | .setEventOrder => s.short n ownSetEventOrder ops
  | .setRepeatInterval => s.short n ownSetRepeatInterval ops
  | .readEvents => s.short n ownReadEvents ops

/-- Checks 3 to 6 of admission for a known request (R157). -/
def State.admitKnown (s : State) (c : ReqCode) (tag : Byte) (ops : List Byte) : State :=
  if ops.length ≠ c.operandBytes then s.refuse tag c.byte .badOperand
  else if s.reqs.tagHeld tag then s.refuse tag c.byte .duplicateTag
  else if s.reqs.partReset.isSome then s.refuse tag c.byte .busy
  else match s.reqs.freeSlot with
    | none => s.refuse tag c.byte .busy
    | some n => (s.holdSlot n c tag ops).toOwner n c ops

/-- The admission checks of a request other than START SESSION, in order (R157). -/
def State.admitRequest (s : State) (code tag : Byte) (ops : List Byte) : State :=
  if s.trunk.link ≠ .up then s.dropRequest
  else match ReqCode.ofByte code with
    | none => s.refuse tag code .unknownRequest
    | some c => s.admitKnown c tag ops

/-- A REQUEST frame handed to the Request Unit (R156): a payload shorter than two bytes is dropped. START SESSION is taken
by the Trunk Port before (R157, R171, R173). -/
def State.takeRequest (s : State) (payload : List Byte) : State :=
  match payload with
  | code :: tag :: ops => s.admitRequest code tag ops
  | _ => s.dropRequest

/-- The Request Unit at a link restart: every slot released, the refusal list and the response order emptied; a PART RESET in
progress goes on without a slot (R162). -/
def RequestUnit.restart (r : RequestUnit) : RequestUnit :=
  { r with slots := [], refusals := [], order := [], partReset := r.partReset.map (fun p => { p with slot := none }) }

/-- A line's long request at a link restart becomes unanswered (R45). -/
def Line.unanswered (ln : Line) : Line := { ln with long := ln.long.map (fun g => { g with slot := none }) }

end Sys2Proof.Machine
end

