-- ==== Sys2Proof/Machine/Link.lean ====
section
/-!
DEFINITION. The Trunk Port (chapter 10): link restarts and sessions, the frame receiver, sequence checks and dispatch, the transmit arbiter and the end of a frame.
-/
namespace Sys2Proof.Machine

/-! ## Trunk counters (R177) -/

def TrunkCounters.addCrc (c : TrunkCounters) : TrunkCounters := { c with crc := bump c.crc }
def TrunkCounters.addHeader (c : TrunkCounters) : TrunkCounters := { c with header := bump c.header }
def TrunkCounters.addGap (c : TrunkCounters) : TrunkCounters := { c with gaps := bump c.gaps }
def TrunkCounters.addDuplicate (c : TrunkCounters) : TrunkCounters := { c with duplicates := bump c.duplicates }
def TrunkCounters.addUnknown (c : TrunkCounters) : TrunkCounters := { c with unknown := bump c.unknown }
def TrunkCounters.addHunt (c : TrunkCounters) : TrunkCounters := { c with hunt := bump c.hunt }
def TrunkCounters.addRestart (c : TrunkCounters) : TrunkCounters := { c with restarts := bump c.restarts }

/-- A change of the Trunk Port's record. -/
def State.mapTrunk (s : State) (f : Trunk → Trunk) : State := { s with trunk := f s.trunk }

/-- A change of the trunk counters. -/
def Trunk.count (t : Trunk) (f : TrunkCounters → TrunkCounters) : Trunk := { t with counters := f t.counters }

/-- A CRC error (R169). -/
def State.crcError (s : State) : State := (s.mapTrunk (·.count TrunkCounters.addCrc)).raiseTrunk (.trunk 1 0 0 0 0 0)

/-- A header error (R169). -/
def State.headerError (s : State) : State := (s.mapTrunk (·.count TrunkCounters.addHeader)).raiseTrunk (.trunk 0 1 0 0 0 0)

/-- A sequence gap (R171). -/
def State.sequenceGap (s : State) : State := (s.mapTrunk (·.count TrunkCounters.addGap)).raiseTrunk (.trunk 0 0 1 0 0 0)

/-- A duplicate (R171). -/
def State.duplicate (s : State) : State := (s.mapTrunk (·.count TrunkCounters.addDuplicate)).raiseTrunk (.trunk 0 0 0 1 0 0)

/-- An unknown frame (R170). -/
def State.unknownFrame (s : State) : State := (s.mapTrunk (·.count TrunkCounters.addUnknown)).raiseTrunk (.trunk 0 0 0 0 1 0)

/-! ## Link restart and session (R172 to R174) -/

/-- A frame on TTX at a link restart: the slot or entry it carries is already released (R162); its cells are not (R22). -/
def Carry.afterRestart : Carry → Carry
  | .cells l => .cells l
  | _ => .nothing

/-- The actions of a link restart with its cause (R174): the receiver returns to HUNT, slots, refusals and the response order
go (R162), line long requests become unanswered (R45), in-service reports return (R154), and the restart is counted. -/
def State.linkRestart (s : State) (cause : ResetCause) : State :=
  { s with
    trunk := { s.trunk with
      link := .announcing
      cause := cause
      announceDue := true
      rx := .hunt
      counters := s.trunk.counters.addRestart
      tx := s.trunk.tx.map (fun f => { f with carries := f.carries.afterRestart }) }
    reqs := s.reqs.restart
    events := s.events.restart
    lines := s.lines.map Line.unanswered }

/-- The announce payload (Table 10-12). -/
def Trunk.announcePayload (t : Trunk) : List Byte :=
  be16 Config.familyCode ++ [byteOf Config.revision] ++ be16 Config.poolCells ++ [byteOf Config.lineCount, t.cause.code]
    ++ be16 t.counters.restarts

/-- START SESSION taken by the Trunk Port (R173): a restart first if the link is UP, then the link is UP with the frame's
sequence as last accepted, every open line is grant-due, and the session response is ready. -/
def State.startSession (s : State) (seq tag : Byte) : State :=
  let s1 := if s.trunk.link = .up then s.linkRestart .sessionRestart else s
  { s1.mapLines (fun ln => { ln with grantDue := ln.grantDue || ln.state != .closed }) with
    trunk := { s1.trunk with
      link := .up
      lastAccepted := seq
      txSeq := 0#8
      announceTimer := .stopped
      announceDue := false
      session := some ⟨tag, s1.trunk.announcePayload⟩ } }

/-- A trunk break (R174): detected once, until TRX has returned to mark; the receiver then waits for mark. -/
def State.trunkBreak (s : State) : State :=
  if s.trunk.rx = .afterBreak then s
  else (s.linkRestart .trunkBreak).mapTrunk (fun t => { t with rx := .afterBreak, trx := .space })

/-- TRX returns to mark (R169, R174): after a break the receiver resumes in HUNT; an abandoned frame is counted as a CRC error. -/
def State.trunkMark (s : State) : State :=
  let s1 := s.mapTrunk (fun t => { t with trx := .mark })
  match s.trunk.rx with
  | .afterBreak => s1.mapTrunk (fun t => { t with rx := .hunt })
  | .abandoned => (s1.mapTrunk (fun t => { t with rx := .hunt })).crcError
  | _ => s1

/-! ## Dispatch of a good frame (R170, R171) -/

/-- The kind of a header: the high four bits (Table 10-1). -/
def FrameHeader.kind (h : FrameHeader) : BitVec 4 := h.kindChannel.extractLsb' 4 4

/-- The channel of a header: the low four bits (Table 10-1). -/
def FrameHeader.channel (h : FrameHeader) : BitVec 4 := h.kindChannel.extractLsb' 0 4

/-- A REQUEST frame on channel 15 whose request code, its first payload byte, is START SESSION (R156, R171). -/
def startsSession (h : FrameHeader) (payload : List Byte) : Bool :=
  h.kind == 2#4 && h.channel == 15#4 && payload.head? == some ReqCode.startSession.byte

/-- A good frame handed on by its kind and channel (Table 10-2, R170). -/
def State.dispatch (s : State) (h : FrameHeader) (payload : List Byte) : State :=
  if h.kind = 1#4 ∧ h.channel.toNat < 8 then s.takeData (Fin.ofNat 8 h.channel.toNat) payload
  else if h.kind = 2#4 ∧ h.channel = 15#4 then s.takeRequest payload
  else s.unknownFrame

/-- A good frame accepted by sequence while UP: last accepted takes its sequence (R171). -/
def State.accepted (s : State) (seq : Byte) : State := s.mapTrunk (fun t => { t with lastAccepted := seq })

/-- A START SESSION frame (R171, R173): exempt from the sequence comparison in both link states. One that carries no tag is
handed on, to be dropped as a REQUEST frame shorter than two bytes (R156; log 11). -/
def State.takeStartSession (s : State) (h : FrameHeader) (payload : List Byte) : State :=
  match payload with
  | _ :: tag :: _ => s.startSession h.seq tag
  | _ => s.dispatch h payload

/-- A good frame (R170, R171, R173): START SESSION is exempt from the sequence comparison; while UP the sequence of any other
is compared before the frame is dispatched; while ANNOUNCING it is not. -/
def State.goodFrame (s : State) (h : FrameHeader) (payload : List Byte) : State :=
  if startsSession h payload then s.takeStartSession h payload
  else if s.trunk.link = .up then
    if h.seq = s.trunk.lastAccepted + 1 then (s.accepted h.seq).dispatch h payload
    else if h.seq = s.trunk.lastAccepted then s.duplicate
    else (s.sequenceGap.accepted h.seq).dispatch h payload
  else s.dispatch h payload

/-! ## The frame receiver (R169) -/

/-- The receiver's state after a delivered byte, whose stop bit sampled at mark (R167). -/
def State.setRx (s : State) (r : TrunkRx) : State := s.mapTrunk (fun t => { t with rx := r, trx := .mark })

/-- A hunt byte (R169). -/
def State.huntByte (s : State) : State :=
  s.mapTrunk (fun t => { t with trx := .mark, counters := t.counters.addHunt })

/-- One of the kept bytes of a failed header taken again in HUNT (R169). Four bytes never complete a header of four after a
start code, so none is judged here. -/
def State.retake (s : State) (b : Byte) : State :=
  match s.trunk.rx with
  | .header kept => s.setRx (.header (kept ++ [b]))
  | _ => if b = Config.startCode then s.setRx (.header []) else s.huntByte

/-- A header of four bytes is judged (R169). -/
def State.judgeHeader (s : State) (k q n c : Byte) : State :=
  if c = headerCheck k q n ∧ n.toNat ≤ Config.maxPayload then
    if n = 0#8 then s.setRx (.check ⟨k, q, n⟩ [] []) else s.setRx (.payload ⟨k, q, n⟩ [])
  else [k, q, n, c].foldl State.retake (s.setRx .hunt).headerError

/-- A frame with both CRC bytes is judged (R169): the receiver returns to HUNT, and a good frame goes on. -/
def State.judgeFrame (s : State) (h : FrameHeader) (payload : List Byte) (hi lo : Byte) : State :=
  let s1 := s.setRx .hunt
  if [hi, lo] = crcBytes ([h.kindChannel, h.seq, h.length] ++ payload) then s1.goodFrame h payload else s1.crcError

/-- A byte delivered to the receiver (R169). While it waits for mark no byte can arrive (log 12). -/
def State.rxByte (s : State) (b : Byte) : State :=
  match s.trunk.rx with
  | .hunt => if b = Config.startCode then s.setRx (.header []) else s.huntByte
  | .header kept => (match kept with
      | [k, q, n] => s.judgeHeader k q n b
      | _ => s.setRx (.header (kept ++ [b])))
  | .payload h kept =>
      if kept.length + 1 < h.length.toNat then s.setRx (.payload h (kept ++ [b])) else s.setRx (.check h (kept ++ [b]) [])
  | .check h payload kept => (match kept with
      | [] => s.setRx (.check h payload [b])
      | hi :: _ => s.judgeFrame h payload hi b)
  | .abandoned => s
  | .afterBreak => s

/-- A character whose stop bit sampled at space (R169): in HUNT a hunt byte, else the frame being collected is abandoned. -/
def State.rxSpaceStop (s : State) : State :=
  match s.trunk.rx with
  | .hunt => s.huntByte.mapTrunk (fun t => { t with trx := .space })
  | .abandoned => s
  | .afterBreak => s
  | _ => s.mapTrunk (fun t => { t with rx := .abandoned, trx := .space })

/-- One trunk character (R167, R169). -/
def State.rxChar (s : State) : TrunkChar → State
  | .byte b => s.rxByte b
  | .spaceStop => s.rxSpaceStop

/-- Bytes delivered to the receiver in order. -/
def State.rxBytes (s : State) (bs : List Byte) : State := bs.foldl State.rxByte s

/-- A frame of a kind, channel, sequence and payload arrives, built with a right header check and CRC (R168). -/
def State.rxFrame (s : State) (kind channel : BitVec 4) (seq : Byte) (payload : List Byte) : State :=
  s.rxBytes (frameBytes kind channel seq payload)

/-- A REQUEST frame arrives (Table 9-1). -/
def State.rxRequest (s : State) (code : Byte) (r : Req) : State :=
  s.rxFrame 2#4 15#4 r.seq (code :: r.tag :: r.operands)

/-- A frame that ends in a CRC error arrives (R169): whole, or abandoned by a space-stop character with TRX returning to mark
before the trunk-break time. -/
def State.rxBad (s : State) : BadFrame → State
  | .badCrc bytes => s.rxBytes bytes
  | .abandoned bytes => ((s.rxBytes bytes).rxSpaceStop).trunkMark

/-! ## The transmit arbiter (R172, R175, R176) -/

/-- A frame built while the link is UP takes the transmit sequence, which then rises (R176). -/
def State.buildUp (s : State) (kind : FrameKind) (channel : BitVec 4) (payload : List Byte) (carries : Carry) : State :=
  s.mapTrunk (fun t => { t with tx := some ⟨kind, channel, t.txSeq, payload, carries⟩, txSeq := t.txSeq + 1 })

/-- An ANNOUNCE frame is built (R172). -/
def State.buildAnnounce (s : State) : State :=
  s.mapTrunk (fun t =>
    { t with
      tx := some ⟨.announce, 15#4, 0#8, t.announcePayload, .nothing⟩
      announceDue := false
      announceTimer := .running Config.announceMs })

/-- The payload of a RESPONSE frame (Table 10-7). -/
def responsePayload (tag code : Byte) (r : Reply) : List Byte := [tag, code, r.result.code] ++ r.data

/-- The session response is built (R173). -/
def State.buildSession (s : State) (r : SessionResponse) : State :=
  (s.buildUp .response 15#4 (responsePayload r.tag ReqCode.startSession.byte (.okWith r.data)) .nothing).mapTrunk
    (fun t => { t with session := none })

/-- The response of a slot: fixed once it is completed (R161). -/
def Phase.reply? : Phase → Option Reply
  | .inProgress => none
  | .completed r => some r
  | .sending r => some r

/-- A slot becomes sending (R159). -/
def Slot.send (k : Slot) : Slot :=
  match k.phase with
  | .completed r => { k with phase := .sending r }
  | _ => k

/-- The response order without its head (R160). -/
def RequestUnit.popOrder (r : RequestUnit) : RequestUnit := { r with order := r.order.tail }

/-- The RESPONSE frame of a completed slot is built, and the slot becomes sending (R159, R160). -/
def State.buildSlot (s : State) (n : Fin 4) : State :=
  match s.reqs.slots.find? (fun k => k.num == n) with
  | some k => (match k.phase.reply? with
      | some r =>
          { s with reqs := { s.reqs.popOrder with
              slots := s.reqs.slots.map (fun (x : Slot) => if x.num = n then x.send else x) } }.buildUp
            .response 15#4 (responsePayload k.tag k.code r) (.slot n)
      | none => { s with reqs := s.reqs.popOrder })
  | none => { s with reqs := s.reqs.popOrder }

/-- The RESPONSE frame of the oldest refusal-list entry is built (R158, R160). -/
def State.buildRefusal (s : State) : State :=
  match s.reqs.refusals.head? with
  | some e =>
      { s with reqs := s.reqs.popOrder }.buildUp .response 15#4 (responsePayload e.tag e.code (.plain e.result)) .refusal
  | none => { s with reqs := s.reqs.popOrder }

/-- The RESPONSE frame at the head of the response order is built (R160). -/
def State.buildResponse (s : State) : RespItem → State
  | .slot n => s.buildSlot n
  | .refusal => s.buildRefusal

/-- The REPORT frame of the Event Unit's turn (R143 to R145). -/
def State.buildReport (s : State) (t : EventUnit × Report) : State :=
  { s with events := t.1 }.buildUp .report 15#4 t.2.payload .nothing

/-- The lines whose grant-due flag is set, ascending (R19). -/
def State.dueLines (s : State) : List (Fin 8) := allLines.filter (fun l => (s.line l).grantDue)

/-- A line included in a GRANT frame (R19): Lsent takes L, the due flag is cleared and the recent-grant flag set. -/
def Line.granted (ln : Line) : Line :=
  if ln.grantDue then { ln with Lsent := ln.limit, grantDue := false, recentGrant := true } else ln

/-- The GRANT frame: an entry for every line whose flag is set, in ascending line order (R19, Table 10-11). -/
def State.buildGrant (s : State) : State :=
  (s.mapLines Line.granted).buildUp .grant 15#4
    (s.dueLines.flatMap (fun l => byteOf l.val :: be32 (s.line l).limit)) .nothing

/-- A line offers inbound data (R22); the link's part of the condition is the arbiter's. -/
def Line.offers (ln : Line) : Bool := !ln.paused && ln.inQ.any (fun c => c.isSealed && !c.inFrame)

/-- The lines in the round-robin order from the pointer (R175). -/
def fromPointer (p : Fin 8) : List (Fin 8) := [p, p + 1, p + 2, p + 3, p + 4, p + 5, p + 6, p + 7]

/-- The cells of the next inbound DATA frame: one or two of the oldest sealed cells not in a frame (R22). -/
def Line.frameCells (ln : Line) : List InCell := (ln.inQ.filter (fun c => c.isSealed && !c.inFrame)).take 2

/-- The oldest n sealed cells not in a frame are marked in frame (R22). -/
def markInFrame : Nat → List InCell → List InCell
  | 0, cs => cs
  | _ + 1, [] => []
  | n + 1, c :: cs =>
      if c.isSealed && !c.inFrame then { c with inFrame := true } :: markInFrame n cs else c :: markInFrame (n + 1) cs

/-- An inbound DATA frame of a line (R22): its payload is the cells' bytes, and the pointer moves to the line after it (R175). -/
def State.buildData (s : State) (l : Fin 8) : State :=
  let cs := (s.line l).frameCells
  ((s.mapLine l (fun ln => { ln with inQ := markInFrame cs.length ln.inQ })).buildUp .data (BitVec.ofNat 4 l.val)
    (cs.flatMap InCell.bytes) (.cells l)).mapTrunk (fun t => { t with pointer := l + 1 })

/-- The arbiter's choice while UP: the first of the five that has something ready (R175). -/
def State.arbitrateUp (s : State) : State :=
  match s.trunk.session with
  | some r => s.buildSession r
  | none =>
    match s.reqs.order.head? with
    | some i => s.buildResponse i
    | none =>
      match s.events.turn with
      | some t => s.buildReport t
      | none =>
        if s.dueLines.isEmpty = false then s.buildGrant
        else match (fromPointer s.trunk.pointer).find? (fun l => (s.line l).offers) with
          | some l => s.buildData l
          | none => s

/-- The arbiter's choice (R175): only when no frame is on TTX; while ANNOUNCING an ANNOUNCE frame if one is due (R172). -/
def State.arbiterChoice (s : State) : State :=
  match s.trunk.tx with
  | some _ => s
  | none =>
    match s.trunk.link with
    | .announcing => if s.trunk.announceDue then s.buildAnnounce else s
    | .up => s.arbitrateUp

/-- The end of the frame on TTX (R22, R159, R158): the inbound cells it carries are freed, or its slot or entry is released. -/
def State.frameEnd (s : State) : State :=
  match s.trunk.tx with
  | none => s
  | some f =>
      let s1 := s.mapTrunk (fun t => { t with tx := none })
      match f.carries with
      | .nothing => s1
      | .cells l => (s1.dropInbound l (fun c => !c.inFrame)).settle l
      | .slot n => { s1 with reqs := { s1.reqs with slots := s1.reqs.slots.filter (fun k => k.num != n) } }
      | .refusal => { s1 with reqs := { s1.reqs with refusals := s1.reqs.refusals.tail } }

/-- The announce timer expires (R172). -/
def State.announceExpiry (s : State) : State :=
  if s.trunk.announceTimer = .stopped then s
  else s.mapTrunk (fun t => { t with announceDue := true, announceTimer := .stopped })

/-- Release of RESET (R167, R4, R25, R40, R62, R93, R113, R122, R124, R138, R166): everything at its power-on value, with the
straps sampled; the levels of the input pins are what they are, and the queue of commands is not the part's. -/
def State.powerOn (s : State) (trs1 trs0 : Bool) : State :=
  { State.reset with
    lines := s.lines.map (fun ln => Line.powerOn ln.rxd ln.rdyi ln.st)
    trunk := Trunk.powerOn trs1 trs0 s.trunk.trx
    pending := s.pending }

end Sys2Proof.Machine
end

