-- ==== Sys2Proof/Machine/RequestCommands.lean ====
section
/-!
DEFINITION. The meanings of the request commands: each is a REQUEST frame with its request code (Table 9-4) arriving on the trunk; the frame is received (R169), checked by sequence (R171), admitted (R157) and taken by its owner.
-/
namespace Sys2Proof.Machine

/-- A REQUEST frame with an unknown request code (R157 check 2, R158). -/
def execUnknownRequest (code : Byte) (r : Req) (s : State) : Host.Outcome State Fault Refusal := .next (s.rxRequest code r)

/-- START SESSION (R156, R157, R173): taken in any link state, exempt from the sequence check. -/
def execStartSession (r : Req) (s : State) : Host.Outcome State Fault Refusal :=
  .next (s.rxRequest ReqCode.startSession.byte r)

/-- READ PART (R165). -/
def execReadPart (r : Req) (s : State) : Host.Outcome State Fault Refusal :=
  .next (s.rxRequest ReqCode.readPart.byte r)

/-- PART RESET (R163). -/
def execPartReset (r : Req) (s : State) : Host.Outcome State Fault Refusal :=
  .next (s.rxRequest ReqCode.partReset.byte r)

/-- SET GRANT REFRESH (R18). -/
def execSetGrantRefresh (r : Req) (s : State) : Host.Outcome State Fault Refusal :=
  .next (s.rxRequest ReqCode.setGrantRefresh.byte r)

/-- LOAD PROFILE (R30 to R35). -/
def execLoadProfile (r : Req) (s : State) : Host.Outcome State Fault Refusal :=
  .next (s.rxRequest ReqCode.loadProfile.byte r)

/-- READ PROFILE (R36). -/
def execReadProfile (r : Req) (s : State) : Host.Outcome State Fault Refusal :=
  .next (s.rxRequest ReqCode.readProfile.byte r)

/-- BIND LINE (R37). -/
def execBindLine (r : Req) (s : State) : Host.Outcome State Fault Refusal :=
  .next (s.rxRequest ReqCode.bindLine.byte r)

/-- OPEN LINE (R42, R43, R6, R117). -/
def execOpenLine (r : Req) (s : State) : Host.Outcome State Fault Refusal :=
  .next (s.rxRequest ReqCode.openLine.byte r)

/-- CLOSE LINE with the form operand 0, drain (R46 to R48); the operand bytes say the form. -/
def execCloseLineDrain (r : Req) (s : State) : Host.Outcome State Fault Refusal :=
  .next (s.rxRequest ReqCode.closeLine.byte r)

/-- CLOSE LINE with the form operand 1, abort (R50, R51, R44); the operand bytes say the form. -/
def execCloseLineAbort (r : Req) (s : State) : Host.Outcome State Fault Refusal :=
  .next (s.rxRequest ReqCode.closeLine.byte r)

/-- FLUSH (R53 to R55). -/
def execFlush (r : Req) (s : State) : Host.Outcome State Fault Refusal :=
  .next (s.rxRequest ReqCode.flush.byte r)

/-- RESUME (R56, R136). -/
def execResume (r : Req) (s : State) : Host.Outcome State Fault Refusal :=
  .next (s.rxRequest ReqCode.resume.byte r)

/-- DISCARD BLOCKS (R57). -/
def execDiscardBlocks (r : Req) (s : State) : Host.Outcome State Fault Refusal :=
  .next (s.rxRequest ReqCode.discardBlocks.byte r)

/-- READ LINE (R59, R60). -/
def execReadLine (r : Req) (s : State) : Host.Outcome State Fault Refusal :=
  .next (s.rxRequest ReqCode.readLine.byte r)

/-- SEND BREAK (R89). -/
def execSendBreak (r : Req) (s : State) : Host.Outcome State Fault Refusal :=
  .next (s.rxRequest ReqCode.sendBreak.byte r)

/-- PAUSE INBOUND (R110). -/
def execPauseInbound (r : Req) (s : State) : Host.Outcome State Fault Refusal :=
  .next (s.rxRequest ReqCode.pauseInbound.byte r)

/-- RESUME INBOUND (R110). -/
def execResumeInbound (r : Req) (s : State) : Host.Outcome State Fault Refusal :=
  .next (s.rxRequest ReqCode.resumeInbound.byte r)

/-- SET AUX (R121). -/
def execSetAux (r : Req) (s : State) : Host.Outcome State Fault Refusal :=
  .next (s.rxRequest ReqCode.setAux.byte r)

/-- LOAD PATTERN (R125). -/
def execLoadPattern (r : Req) (s : State) : Host.Outcome State Fault Refusal :=
  .next (s.rxRequest ReqCode.loadPattern.byte r)

/-- CLEAR PATTERN (R126). -/
def execClearPattern (r : Req) (s : State) : Host.Outcome State Fault Refusal :=
  .next (s.rxRequest ReqCode.clearPattern.byte r)

/-- READ PATTERN (R127). -/
def execReadPattern (r : Req) (s : State) : Host.Outcome State Fault Refusal :=
  .next (s.rxRequest ReqCode.readPattern.byte r)

/-- ACK EVENT with the form operand 0, specific (R147); the operand bytes say the form. -/
def execAckEventSpecific (r : Req) (s : State) : Host.Outcome State Fault Refusal :=
  .next (s.rxRequest ReqCode.ackEvent.byte r)

/-- ACK EVENT with the form operand 1, non-specific (R148); the operand bytes say the form. -/
def execAckEventNonSpecific (r : Req) (s : State) : Host.Outcome State Fault Refusal :=
  .next (s.rxRequest ReqCode.ackEvent.byte r)

/-- SET EVENT MASK (R150). -/
def execSetEventMask (r : Req) (s : State) : Host.Outcome State Fault Refusal :=
  .next (s.rxRequest ReqCode.setEventMask.byte r)

/-- SET EVENT ORDER (R151). -/
def execSetEventOrder (r : Req) (s : State) : Host.Outcome State Fault Refusal :=
  .next (s.rxRequest ReqCode.setEventOrder.byte r)

/-- SET REPEAT INTERVAL (R146). -/
def execSetRepeatInterval (r : Req) (s : State) : Host.Outcome State Fault Refusal :=
  .next (s.rxRequest ReqCode.setRepeatInterval.byte r)

/-- READ EVENTS (R152). -/
def execReadEvents (r : Req) (s : State) : Host.Outcome State Fault Refusal :=
  .next (s.rxRequest ReqCode.readEvents.byte r)

end Sys2Proof.Machine
end

