-- ==== Sys2Proof/Machine/TrunkCommands.lean ====
section
/-!
DEFINITION. The meanings of the trunk and part-wide commands.
-/
namespace Sys2Proof.Machine

/-- Release of RESET with the strap levels (R167). -/
def execPowerOnReset (trs1 trs0 : Bool) (s : State) : Host.Outcome State Fault Refusal := .next (s.powerOn trs1 trs0)

/-- TRX at space for 20 bit times (R174). -/
def execTrunkBreak (s : State) : Host.Outcome State Fault Refusal := .next (s.trunkBreak)

/-- One character on TRX: in HUNT any byte but the start code, and any space-stop character, is a hunt byte (R169). -/
def execHuntByte (c : TrunkChar) (s : State) : Host.Outcome State Fault Refusal := .next (s.rxChar c)

/-- A start code and four header bytes: a header that fails is counted and its bytes are taken again in HUNT (R169). -/
def execHeaderError (k q n c : Byte) (s : State) : Host.Outcome State Fault Refusal := .next (s.rxBytes [Config.startCode, k, q, n, c])

/-- A frame whose CRC fails, or that a space-stop character abandons without a break (R169). -/
def execCrcError (f : BadFrame) (s : State) : Host.Outcome State Fault Refusal := .next (s.rxBad f)

/-- A good frame of an unknown pairing of kind and channel (R170, R171). -/
def execUnknownFrame (kind channel : BitVec 4) (seq : Byte) (payload : List Byte) (s : State) : Host.Outcome State Fault Refusal := .next (s.rxFrame kind channel seq payload)

/-- A DATA frame for a line (R14 to R16, R171). -/
def execData (l : Fin 8) (seq : Byte) (payload : List Byte) (s : State) : Host.Outcome State Fault Refusal := .next (s.rxFrame 1#4 (BitVec.ofNat 4 l.val) seq payload)

/-- A REQUEST frame shorter than two bytes (R156, R171). -/
def execRequestDropped (seq : Byte) (payload : List Byte) (s : State) : Host.Outcome State Fault Refusal := .next (s.rxFrame 2#4 15#4 seq payload)

/-- TRX returns to mark after a trunk break or an abandoned frame (R169, R174). -/
def execTrunkBreakEnd (s : State) : Host.Outcome State Fault Refusal := .next (s.trunkMark)

/-- The grant refresh timer expires (R18). -/
def execGrantRefreshTimerExpiry (s : State) : Host.Outcome State Fault Refusal := .next (s.refreshExpiry)

/-- The repeat timer of a class expires (R145). -/
def execRepeatTimerExpiry (c : Fin 8) (s : State) : Host.Outcome State Fault Refusal :=
  .next { s with events := s.events.repeatExpiry c }

/-- The announce timer expires (R172). -/
def execAnnounceTimerExpiry (s : State) : Host.Outcome State Fault Refusal := .next (s.announceExpiry)

/-- The transmit arbiter chooses and builds the next frame (R175). -/
def execArbiterChoice (s : State) : Host.Outcome State Fault Refusal := .next (s.arbiterChoice)

/-- The last byte of the frame on TTX is sent (R22, R158, R159). -/
def execFrameEnd (s : State) : Host.Outcome State Fault Refusal := .next (s.frameEnd)

/-- PART RESET completes when it is in progress and every line is CLOSED (R164; log 1). -/
def execPartResetComplete (s : State) : Host.Outcome State Fault Refusal := .next (s.testPartReset)

end Sys2Proof.Machine
end

