-- ==== Sys2Proof/Machine/Dispatch.lean ====
section
/-!
DEFINITION. The dispatch of commands to their meanings: one arm per constructor of Instr.
-/
namespace Sys2Proof.Machine

def exec (i : Instr) (s : State) : Host.Outcome State Fault Refusal :=
  match i with
  | .powerOnReset trs1 trs0 => Sys2Proof.Machine.execPowerOnReset trs1 trs0 s
  | .trunkBreak => Sys2Proof.Machine.execTrunkBreak s
  | .huntByte c => Sys2Proof.Machine.execHuntByte c s
  | .headerError k q n c => Sys2Proof.Machine.execHeaderError k q n c s
  | .crcError f => Sys2Proof.Machine.execCrcError f s
  | .unknownFrame kind channel seq payload => Sys2Proof.Machine.execUnknownFrame kind channel seq payload s
  | .data l seq payload => Sys2Proof.Machine.execData l seq payload s
  | .requestDropped seq payload => Sys2Proof.Machine.execRequestDropped seq payload s
  | .unknownRequest code r => Sys2Proof.Machine.execUnknownRequest code r s
  | .startSession r => Sys2Proof.Machine.execStartSession r s
  | .readPart r => Sys2Proof.Machine.execReadPart r s
  | .partReset r => Sys2Proof.Machine.execPartReset r s
  | .partResetComplete => Sys2Proof.Machine.execPartResetComplete s
  | .setGrantRefresh r => Sys2Proof.Machine.execSetGrantRefresh r s
  | .loadProfile r => Sys2Proof.Machine.execLoadProfile r s
  | .readProfile r => Sys2Proof.Machine.execReadProfile r s
  | .bindLine r => Sys2Proof.Machine.execBindLine r s
  | .openLine r => Sys2Proof.Machine.execOpenLine r s
  | .closeLineDrain r => Sys2Proof.Machine.execCloseLineDrain r s
  | .closeLineAbort r => Sys2Proof.Machine.execCloseLineAbort r s
  | .flush r => Sys2Proof.Machine.execFlush r s
  | .flushComplete l => Sys2Proof.Machine.execFlushComplete l s
  | .resume r => Sys2Proof.Machine.execResume r s
  | .discardBlocks r => Sys2Proof.Machine.execDiscardBlocks r s
  | .readLine r => Sys2Proof.Machine.execReadLine r s
  | .sendBreak r => Sys2Proof.Machine.execSendBreak r s
  | .breakBegin l => Sys2Proof.Machine.execBreakBegin l s
  | .pauseInbound r => Sys2Proof.Machine.execPauseInbound r s
  | .resumeInbound r => Sys2Proof.Machine.execResumeInbound r s
  | .setAux r => Sys2Proof.Machine.execSetAux r s
  | .loadPattern r => Sys2Proof.Machine.execLoadPattern r s
  | .clearPattern r => Sys2Proof.Machine.execClearPattern r s
  | .readPattern r => Sys2Proof.Machine.execReadPattern r s
  | .ackEventSpecific r => Sys2Proof.Machine.execAckEventSpecific r s
  | .ackEventNonSpecific r => Sys2Proof.Machine.execAckEventNonSpecific r s
  | .setEventMask r => Sys2Proof.Machine.execSetEventMask r s
  | .setEventOrder r => Sys2Proof.Machine.execSetEventOrder r s
  | .setRepeatInterval r => Sys2Proof.Machine.execSetRepeatInterval r s
  | .readEvents r => Sys2Proof.Machine.execReadEvents r s
  | .transmitterChoice l => Sys2Proof.Machine.execTransmitterChoice l s
  | .characterCompletion l => Sys2Proof.Machine.execCharacterCompletion l s
  | .gapTimerExpiry l => Sys2Proof.Machine.execGapTimerExpiry l s
  | .ackTimerExpiry l => Sys2Proof.Machine.execAckTimerExpiry l s
  | .pauseTimerExpiry l => Sys2Proof.Machine.execPauseTimerExpiry l s
  | .lingerTimerExpiry l => Sys2Proof.Machine.execLingerTimerExpiry l s
  | .breakTimerExpiry l => Sys2Proof.Machine.execBreakTimerExpiry l s
  | .rdyiChange l asserted => Sys2Proof.Machine.execRdyiChange l asserted s
  | .characterReceived l sampled parityBit stopBit => Sys2Proof.Machine.execCharacterReceived l sampled parityBit stopBit s
  | .receiverBreakEnd l => Sys2Proof.Machine.execReceiverBreakEnd l s
  | .idleTimerExpiry l => Sys2Proof.Machine.execIdleTimerExpiry l s
  | .statusChange l c => Sys2Proof.Machine.execStatusChange l c s
  | .debounceTimerExpiry l => Sys2Proof.Machine.execDebounceTimerExpiry l s
  | .drainComplete l => Sys2Proof.Machine.execDrainComplete l s
  | .abortComplete l => Sys2Proof.Machine.execAbortComplete l s
  | .entryToClosed l => Sys2Proof.Machine.execEntryToClosed l s
  | .grantRefreshTimerExpiry => Sys2Proof.Machine.execGrantRefreshTimerExpiry s
  | .repeatTimerExpiry c => Sys2Proof.Machine.execRepeatTimerExpiry c s
  | .announceTimerExpiry => Sys2Proof.Machine.execAnnounceTimerExpiry s
  | .arbiterChoice => Sys2Proof.Machine.execArbiterChoice s
  | .frameEnd => Sys2Proof.Machine.execFrameEnd s
  | .startEdge l => Sys2Proof.Machine.execStartEdge l s
  | .falseStart l => Sys2Proof.Machine.execFalseStart l s
  | .receiverArmed l => Sys2Proof.Machine.execReceiverArmed l s
  | .trunkBreakEnd => Sys2Proof.Machine.execTrunkBreakEnd s

end Sys2Proof.Machine
end

