-- ==== Sys2Proof/WellFormed.lean ====
section
/-!
DEFINITION. When a command is well formed: its operands make it the event its row of the table names. An ill-formed command runs all the same, by its bytes (log 23).
-/
namespace Sys2Proof

open Machine in
/-- A frame body that passes the header judgement (R169): its check byte is right and its length is at most 64. -/
def headerPasses (k q n c : Byte) : Bool := c == headerCheck k q n && decide (n.toNat ≤ Config.maxPayload)

open Machine in
/-- Bytes that are a whole frame whose CRC alone is wrong (R169). -/
def wrongCrc : List Byte → Bool
  | s :: k :: q :: n :: c :: rest =>
      s == Config.startCode && headerPasses k q n c && rest.length == n.toNat + 2
        && rest.drop n.toNat != crcBytes ([k, q, n] ++ rest.take n.toNat)
  | _ => false

/-- Bytes that are the beginning of a frame, with its start code and without its last byte (R169). -/
def beginsFrame : List Byte → Bool
  | s :: k :: q :: n :: c :: rest => s == Config.startCode && headerPasses k q n c && decide (rest.length < n.toNat + 2)
  | s :: _ => s == Config.startCode
  | [] => false

def BadFrame.wf : BadFrame → Bool
  | .badCrc bytes => wrongCrc bytes
  | .abandoned bytes => beginsFrame bytes

/-- A pairing of kind and channel that Table 10-2 knows (R170). -/
def knownPairing (kind channel : BitVec 4) : Bool :=
  (kind == 1#4 && decide (channel.toNat < 8)) || (kind == 2#4 && channel == 15#4)

/-- The operand bytes of a request fit a frame's payload beside the code and the tag (Table 9-1, Table 10-1). -/
def Req.wf (r : Req) : Bool := decide (r.operands.length + 2 ≤ Config.maxPayload)

/-- A well-formed command. -/
def Instr.wf : Instr → Bool
  | .huntByte (.byte b) => b != Config.startCode
  | .headerError k q n c => !headerPasses k q n c
  | .crcError f => f.wf
  | .unknownFrame kind channel _ payload => !knownPairing kind channel && decide (payload.length ≤ Config.maxPayload)
  | .data _ _ payload => decide (payload.length ≤ Config.maxPayload)
  | .requestDropped _ payload => decide (payload.length < 2)
  | .unknownRequest code r => (Machine.ReqCode.ofByte code).isNone && r.wf
  | .closeLineDrain r => r.wf && r.operands[1]? != some 1#8
  | .closeLineAbort r => r.wf && r.operands[1]? == some 1#8
  | .ackEventSpecific r => r.wf && r.operands[0]? != some 1#8
  | .ackEventNonSpecific r => r.wf && r.operands[0]? == some 1#8
  | .startSession r | .readPart r | .partReset r | .setGrantRefresh r | .loadProfile r | .readProfile r | .bindLine r
  | .openLine r | .flush r | .resume r | .discardBlocks r | .readLine r | .sendBreak r | .pauseInbound r
  | .resumeInbound r | .setAux r | .loadPattern r | .clearPattern r | .readPattern r | .setEventMask r
  | .setEventOrder r | .setRepeatInterval r | .readEvents r => r.wf
  | _ => true

end Sys2Proof
end

