-- ==== Sys2Proof/Safety.lean ====
section
/-!
DEFINITION. What the statements speak of: frames heard, requests taken and answered, and the invariants of the part.
-/
namespace Sys2Proof

/-- The request a command carries and its code: the rows of the known requests but START SESSION (Table 9-4). -/
def Instr.request : Instr → Option (Machine.ReqCode × Req)
  | .readPart r => some (.readPart, r)
  | .partReset r => some (.partReset, r)
  | .setGrantRefresh r => some (.setGrantRefresh, r)
  | .loadProfile r => some (.loadProfile, r)
  | .readProfile r => some (.readProfile, r)
  | .bindLine r => some (.bindLine, r)
  | .openLine r => some (.openLine, r)
  | .closeLineDrain r => some (.closeLine, r)
  | .closeLineAbort r => some (.closeLine, r)
  | .flush r => some (.flush, r)
  | .resume r => some (.resume, r)
  | .discardBlocks r => some (.discardBlocks, r)
  | .readLine r => some (.readLine, r)
  | .sendBreak r => some (.sendBreak, r)
  | .pauseInbound r => some (.pauseInbound, r)
  | .resumeInbound r => some (.resumeInbound, r)
  | .setAux r => some (.setAux, r)
  | .loadPattern r => some (.loadPattern, r)
  | .clearPattern r => some (.clearPattern, r)
  | .readPattern r => some (.readPattern, r)
  | .ackEventSpecific r => some (.ackEvent, r)
  | .ackEventNonSpecific r => some (.ackEvent, r)
  | .setEventMask r => some (.setEventMask, r)
  | .setEventOrder r => some (.setEventOrder, r)
  | .setRepeatInterval r => some (.setRepeatInterval, r)
  | .readEvents r => some (.readEvents, r)
  | _ => none

/-- The line of a line event or DATA frame. -/
def Instr.eventLine : Instr → Option (Fin 8)
  | .data l _ _ | .flushComplete l | .breakBegin l | .transmitterChoice l | .characterCompletion l | .gapTimerExpiry l
  | .ackTimerExpiry l | .pauseTimerExpiry l | .lingerTimerExpiry l | .breakTimerExpiry l | .rdyiChange l _
  | .characterReceived l _ _ _ | .receiverBreakEnd l | .idleTimerExpiry l | .statusChange l _ | .debounceTimerExpiry l
  | .drainComplete l | .abortComplete l | .entryToClosed l | .startEdge l | .falseStart l | .receiverArmed l => some l
  | _ => none

namespace Machine

/-! ## Frames heard (R169, R171) -/

/-- The frame receiver is in HUNT, the link is UP, and a frame with this sequence is the expected one (R169, R171). -/
def State.hears (s : State) (seq : Byte) : Prop :=
  s.trunk.rx = .hunt ∧ s.trunk.link = .up ∧ seq = s.trunk.lastAccepted + 1

/-- The state once a frame has been received: the receiver is in HUNT again and TRX is at mark (R169). -/
def State.received (s : State) : State := { s with trunk := { s.trunk with rx := .hunt, trx := .mark } }

/-- The state once a frame has been received and accepted by sequence: last accepted is the frame's (R171). -/
def State.heard (s : State) (seq : Byte) : State :=
  { s with trunk := { s.trunk with rx := .hunt, trx := .mark, lastAccepted := seq } }

/-- A frame with this sequence is taken in either link state, leaving the state u: while UP it is the expected one, while
ANNOUNCING its sequence is not compared and last accepted does not change (R170, R171). -/
def State.takesFrame (s : State) (seq : Byte) (u : State) : Prop :=
  s.trunk.rx = .hunt
    ∧ ((s.trunk.link = .up ∧ seq = s.trunk.lastAccepted + 1 ∧ u = s.heard seq)
        ∨ (s.trunk.link = .announcing ∧ u = s.received))

/-- A line that takes data from the trunk (R14). -/
def Line.isOpen (ln : Line) : Prop := ln.state = .running ∨ ln.state = .held ∨ ln.state = .stalled

/-- A line on which the receiver works with no completion waiting: open with no FLUSH ready to complete, or DRAINING under a
drain not yet complete (R48, R53, R111). The invariant longRequestsMatch gives it for every line on which the receiver works. -/
def Line.calm (ln : Line) : Prop :=
  (ln.isOpen ∧ ln.flushDone = false) ∨ (ln.underDrain = true ∧ ln.drainDone = false)

/-! ## Requests taken and answered (R157, R159, R160) -/

/-- The frame of the request is heard, and checks 1 to 5 of R157 pass: its operand length is the request's own, its tag is
that of no held slot, no PART RESET is in progress, and slot n is free (the one taken, log 16). -/
def State.takes (s : State) (c : ReqCode) (r : Req) (n : Fin 4) : Prop :=
  s.hears r.seq ∧ r.operands.length = c.operandBytes ∧ s.reqs.tagHeld r.tag = false ∧ s.reqs.partReset = none
    ∧ s.reqs.freeSlot = some n

/-- The slot a request takes, in a phase (R159). -/
def slotFor (c : ReqCode) (r : Req) (n : Fin 4) (ph : Phase) : Slot :=
  ⟨n, c.byte, r.tag, c.owner, if c.namesLine then indexOperand 8 r.operands 0 else none, ph⟩

/-- The state in which a request has taken slot n and is in progress (R159). -/
def State.inSlot (s : State) (c : ReqCode) (r : Req) (n : Fin 4) : State :=
  { s.heard r.seq with reqs := { s.reqs with slots := s.reqs.slots ++ [slotFor c r n .inProgress] } }

/-- The state in which a request has taken slot n and been answered: the slot is completed with its reply and stands at the
tail of the response order (R159, R160). -/
def State.answered (s : State) (c : ReqCode) (r : Req) (n : Fin 4) (reply : Reply) : State :=
  { s.heard r.seq with
    reqs := { s.reqs with
      slots := s.reqs.slots ++ [slotFor c r n (.completed reply)]
      order := s.reqs.order ++ [.slot n] } }

/-- The state in which a request has been refused with a result and no data, nothing else changed (R157 check 6, R161). -/
def State.turnedAway (s : State) (c : ReqCode) (r : Req) (n : Fin 4) (result : Result) : State :=
  s.answered c r n ⟨result, []⟩

/-- The Request Unit once a long request has been answered with a reply: its slot is completed, or nothing is sent when it is
unanswered (R40, R45, R160). -/
def RequestUnit.answerLong (r : RequestUnit) (g : LongReq) (reply : Reply) : RequestUnit :=
  match g.slot with
  | some n => r.complete n reply
  | none => r

/-- The line in CLOSED, its cells and quotas given back, and the close it was waiting for answered OK with its counts (R7,
R51, R52). -/
def State.closedBy (s : State) (l : Fin 8) (g : LongReq) (nIn nOut : Nat) : State :=
  { s.setLine l (s.line l).closedFrom with
    pool := { s.pool with
      free := s.pool.free + ((s.line l).outQ.length + (s.line l).inQ.length)
      unreserved := s.pool.unreserved + ((s.line l).resOut + (s.line l).resIn) }
    reqs := s.reqs.answerLong g ⟨.ok, be16 nIn ++ be16 nOut⟩ }

/-- PART RESET p completed, t after v (R164): every counter is 0, AUXOn is low, the Event Unit is at its power-on values, the grant
refresh is off, under clear the profiles, bindings and patterns are at theirs, and the response, OK with no data, joins the tail of the
response order unless a link restart has taken its slot. -/
def State.resetCompleted (p : PartReset) (v t : State) : Prop :=
  t.reqs = (let q := { v.reqs with dropped := 0, partReset := none }
      match p.slot with
      | some n => q.complete n ⟨.ok, []⟩
      | none => q)
    ∧ t.events = EventUnit.powerOn ∧ t.trunk = { v.trunk with counters := ⟨0, 0, 0, 0, 0, 0, 0⟩ }
    ∧ t.pool = { v.pool with refresh := 0, refreshTimer := .stopped } ∧ t.pending = v.pending
    ∧ (p.clear = true → (∀ i : Fin 8, t.profiles[i] = Profile.default) ∧ ∀ i : Fin 16, t.patterns[i] = Pattern.cleared)
    ∧ (p.clear = false → t.profiles = v.profiles ∧ t.patterns = v.patterns)
    ∧ ∀ l, t.line l = { v.line l with
        counters := ⟨0, 0, 0, 0, 0, 0, 0, 0, 0, 0⟩, auxo := false, binding := if p.clear then 0 else (v.line l).binding }

/-- What an event that has left the state v still brings part-wide, t after it (R163, R164): PART RESET completes at the first moment
every line is CLOSED; with none in progress, or a line not CLOSED, nothing more happens. -/
def State.thenCompletesReset (v t : State) : Prop :=
  ((v.reqs.partReset = none ∨ ∃ k, (v.line k).state ≠ .closed) → t = v)
    ∧ ∀ p, v.reqs.partReset = some p → (∀ k, (v.line k).state = .closed) → v.resetCompleted p t

/-! ## What an event brings with it -/

/-- Causes (a) and (b) of R17 between the line before an event and after it: L has changed and lies at least the grant step
above Lsent, or the outbound queue has become empty while L is above Lsent. -/
def Line.becomesDue (p : Profile) (x y : Line) : Prop :=
  (y.limit ≠ x.limit ∧ p.grantStep ≤ (y.limit - y.Lsent).toNat) ∨ (x.Rt ≠ x.S ∧ y.Rt = y.S ∧ y.limit ≠ y.Lsent)

/-- R105 between the line before an event and after it: the marks are applied to the new count of inbound cells if it differs. -/
def Line.marksApplied (p : Profile) (x y : Line) : Prop :=
  (y.inQ.length = x.inQ.length → y.wanted = x.wanted)
    ∧ (y.inQ.length ≠ x.inQ.length →
      (p.highMark ≤ y.inQ.length → y.wanted = .stop)
      ∧ (y.inQ.length < p.highMark → y.inQ.length ≤ p.lowMark → y.wanted = .go)
      ∧ (y.inQ.length < p.highMark → p.lowMark < y.inQ.length → y.wanted = x.wanted))

/-- R106 to R108 between the line before an event that sends no code and after it: under NONE and LINE last sent follows a
change of wanted, under CODE it stays; under LINE RDYOn follows a change of wanted, under NONE and CODE it stays. -/
def Line.pacesPeripheral (p : Profile) (x y : Line) : Prop :=
  y.lastSent = (if p.inPacing = .code ∨ y.wanted = x.wanted then x.lastSent else y.wanted)
    ∧ y.rdyo = (if p.inPacing ≠ .line ∨ y.wanted = x.wanted then x.rdyo else decide (y.wanted = .go))

/-- What the completion of a character makes of a line's transmitter, z after x (R63, R90): the character is counted, and a pending
break begins, else the transmitter is in GAP with the gap timer, or in IDLE when the gap is 0. -/
def Line.afterCompletion (p : Profile) (x z : Line) : Prop :=
  z.counters = { x.counters with sent := min 65535 (x.counters.sent + 1) }
    ∧ (x.brk = .pending →
      z.tx = .brk ∧ z.brk = .inProgress ∧ z.gapTimer = .stopped ∧ z.breakTimer = .running p.breakTime)
    ∧ (x.brk ≠ .pending → z.brk = x.brk ∧ z.breakTimer = x.breakTimer
      ∧ (p.gap = 0 → z.tx = .idle ∧ z.gapTimer = x.gapTimer) ∧ (p.gap ≠ 0 → z.tx = .gap ∧ z.gapTimer = .running p.gap))

/-- The completion of the last part of a position, z after x, with the marker list ms and the Event Unit e before it and ev after it
(R134, R135): where the barrier lies there the line is HELD if it is RUNNING, and the first time the oldest HOLD marker's reached flag
is set and a HOLD event raised; where it does not, nothing is reached. -/
def Line.reachesBarrier (x : Line) (pos : Pos) (src : Fin 9) (ms : List Marker) (e : EventUnit) (z : Line) (ev : EventUnit) : Prop :=
  ((∀ m, x.barrier = some m → m.pos ≠ pos) → z.state = x.state ∧ z.markers = ms ∧ ev = e)
    ∧ ∀ m, x.barrier = some m → m.pos = pos →
      z.state = (if x.state = .running then .held else x.state) ∧ z.barrierReached = true
      ∧ (m.reached = true → z.markers = ms ∧ ev = e)
      ∧ (m.reached = false → ev = e.raise src (.hold m.tag m.accepted)
        ∧ ∃ older newer, ms = older ++ m :: newer ∧ (∀ k ∈ older, k.kind ≠ .hold)
          ∧ z.markers = older ++ { m with reached := true } :: newer)

/-- What the taking of an abort makes of a line, y after x, with the slot its answer will use (R50, R111, R120): DRAINING under the
abort with the two counts, its outbound data and its inbound cells not in a frame gone, no block, marker, break, episode or
timer of its blocks left. The character in the shift register goes on but ends nothing. The data given up may make a grant due
(R17), and the marks are applied to the inbound cells left (R105 to R108). That a transmitter in GAP stays there with its timer
stopped (log 17), that the retry count and the stopped flag stay until the entry to CLOSED (log 29), and that an inbound-pacing code
that is due is dropped by not being sent, with wanted and last sent otherwise as they were (log 31), is the model's reading. -/
def Line.abortTaken (p : Profile) (slot : Option (Fin 4)) (x y : Line) : Prop :=
  y = { x with
      state := .draining
      long := some ⟨.closeAbort, slot, false, x.discardableBytes, (x.S - x.Rt).toNat⟩
      T := x.S, Rt := x.S, outQ := [], inQ := x.inQ.filter (fun c => c.inFrame)
      tx := if x.tx = .brk then .idle else x.tx.abandon
      brk := .none, openBlock := none, endWaiting := false, blocks := [], resend := false, markers := [], pause := .none
      gapTimer := .stopped, ackTimer := .stopped, pauseTimer := .stopped, lingerTimer := .stopped, breakTimer := .stopped
      rx := .idle, candidate := none, debounceTimer := .stopped
      grantDue := y.grantDue, idleTimer := y.idleTimer, wanted := y.wanted, lastSent := y.lastSent, rdyo := y.rdyo }
    ∧ (y.grantDue = true ↔ x.grantDue = true ∨ x.becomesDue p y)
    ∧ ((∀ c ∈ y.inQ, c.isSealed = true) → y.idleTimer = .stopped)
    ∧ x.marksApplied p y ∧ x.pacesPeripheral p y

/-- What the completion of a drain makes of a line that waits for the frame that carries its cells, y after x (R23, R48, R105 to R108,
R111, R120): the inbound cells not in the frame are gone and their bytes counted, the gap timer, the receiver and the debounce timer
are stopped, and the marks are applied to the cells left. -/
def Line.drainTakenTo (p : Profile) (g : LongReq) (x y : Line) : Prop :=
  y = { x with
      inQ := x.inQ.filter (fun c => c.inFrame)
      long := some { g with completing := true, inBytes := x.discardableBytes, outBytes := 0 }
      gapTimer := .stopped, rx := .idle, candidate := none, debounceTimer := .stopped
      idleTimer := y.idleTimer, wanted := y.wanted, lastSent := y.lastSent, rdyo := y.rdyo }
    ∧ ((∀ c ∈ y.inQ, c.isSealed = true) → y.idleTimer = .stopped)
    ∧ x.marksApplied p y ∧ x.pacesPeripheral p y

/-- The completion of a drain, t after w, the line x as it stands (R48, R51): with no inbound frame carrying its cells the line is
CLOSED and answered, and PART RESET may complete (R164); otherwise the line waits for the end of that frame. -/
def State.drainCompletes (w : State) (l : Fin 8) (g : LongReq) (x : Line) (t : State) : Prop :=
  ((∀ c ∈ x.inQ, c.inFrame = false) → (w.closedBy l g x.discardableBytes 0).thenCompletesReset t)
    ∧ ((∃ c ∈ x.inQ, c.inFrame = true) → ∃ y, x.drainTakenTo (w.prof l) g y
      ∧ t = { w.setLine l y with pool := { w.pool with free := w.pool.free + (x.inQ.length - y.inQ.length) } })

/-- What follows within an event that has left the state w, as to line l, with t the state after the event (log 1). On an open
line with no FLUSH ready to complete, and under a drain not yet complete: the standing updates (R69, R74, R75). A FLUSH in
progress with no character in the shift register completes (R53). A drain whose four conditions hold completes, and its line is
CLOSED, or waits for the frame that carries its cells (R48). A line that waits only for its entry to CLOSED is CLOSED, and one
that waits for more goes on waiting (R7, R48, R51). With a line's entry to CLOSED, PART RESET completes if it is in progress and no
other line is open (R163, R164). -/
def State.thenSettles (w : State) (l : Fin 8) (t : State) : Prop :=
  let x := w.line l
  let y := x.standing (w.prof l)
  (x.calm → t = w.setLine l y)
  ∧ (∀ g, x.isOpen → x.long = some g → x.flushDone = true →
      t = { w.setLine l { y with long := none } with reqs := w.reqs.answerLong g ⟨.ok, be16 g.inBytes ++ be16 g.outBytes⟩ })
  ∧ (∀ g, x.state = .draining → x.long = some g →
      (g.kind = .closeDrain → g.completing = false → x.drainDone = true → w.drainCompletes l g y t)
      ∧ ((g.kind = .closeDrain ∧ g.completing = true) ∨ (g.kind = .closeAbort ∧ x.inCharacter = false ∧ x.tx ≠ .brk) →
        (∀ c ∈ x.inQ, c.inFrame = false) → (w.closedBy l g g.inBytes g.outBytes).thenCompletesReset t)
      ∧ ((g.kind = .closeDrain ∧ g.completing = true ∧ ∃ c ∈ x.inQ, c.inFrame = true)
          ∨ (g.kind = .closeAbort ∧ (x.inCharacter = true ∨ x.tx = .brk ∨ ∃ c ∈ x.inQ, c.inFrame = true)) →
        t = w.setLine l y))

/-! ## Invariants -/

/-- R141: the order is 0 to 7 started at some class, and in mode FIXED it is 0 to 7. -/
def State.orderCyclic (s : State) : Prop :=
  (∃ c, s.events.order = rotated c) ∧ (s.events.mode = .fixed → s.events.order = fixedOrder)

/-- R52, R62, R93, R113: a CLOSED line has its CLOSED values; only its binding, its counters, AUXOn and the levels of its
input pins are free. -/
def State.closedAtRest (s : State) : Prop := ∀ l, (s.line l).state = .closed → s.line l = (s.line l).closedFrom

/-- A sum over the lines. -/
def State.sumLines (s : State) (f : Line → Nat) : Nat := (s.lines.toList.map f).sum

/-- R4 to R6, R9, R12, R14: the pool's counts account for every cell and every reserved cell, no line holds more cells than
its quotas, no cell holds more than 32 bytes, the credit a line has given never exceeds its room, and a CLOSED line is at
its CLOSED values. -/
def State.poolAccounts (s : State) : Prop :=
  s.pool.free + s.sumLines (fun ln => ln.outQ.length + ln.inQ.length) = Config.poolCells
    ∧ s.pool.unreserved + s.sumLines (fun ln => ln.resOut + ln.resIn) = Config.poolCells
    ∧ (∀ l, (s.line l).outQ.length ≤ (s.line l).resOut ∧ (s.line l).inQ.length ≤ (s.line l).resIn
        ∧ (s.line l).credit ≤ (s.line l).room
        ∧ ∀ c ∈ (s.line l).outQ, c.bytes.length ≤ Config.cellBytes)
    ∧ s.closedAtRest

/-- R158, R159: at most four slots are held, with different numbers and different tags, and at most four refusals are listed. -/
def State.requestsBounded (s : State) : Prop :=
  s.reqs.slots.length ≤ Config.maxSlots ∧ (s.reqs.slots.map Slot.num).Nodup ∧ (s.reqs.slots.map Slot.tag).Nodup
    ∧ s.reqs.refusals.length ≤ Config.maxRefusals

/-- A held slot's response is owed by what its phase says: a completed slot stands in the response order, a sending slot's
frame is on TTX, and a slot in progress is that of a line's long request or of PART RESET (R159, R160). -/
def State.owed (s : State) (k : Slot) : Prop :=
  match k.phase with
  | .completed _ => .slot k.num ∈ s.reqs.order
  | .sending _ => ∃ f, s.trunk.tx = some f ∧ f.carries = .slot k.num
  | .inProgress =>
      (∃ l g, (s.line l).long = some g ∧ g.slot = some k.num) ∨ ∃ p, s.reqs.partReset = some p ∧ p.slot = some k.num

/-- No held slot is forgotten (R159, R160), slots have different numbers, and CLOSED lines have no long request. -/
def State.responsesOwed (s : State) : Prop :=
  (∀ k ∈ s.reqs.slots, s.owed k) ∧ (s.reqs.slots.map Slot.num).Nodup
    ∧ ∀ l, (s.line l).state = .closed → (s.line l).long = none

/-- R58, R156, R177: no counter passes 65535. -/
def State.countersSaturate (s : State) : Prop :=
  (∀ l, ∀ n ∈ (s.line l).counters.list, n ≤ Config.counterTop) ∧ (∀ n ∈ s.trunk.counters.list, n ≤ Config.counterTop)
    ∧ s.reqs.dropped ≤ Config.counterTop

/-- R30, R38, R124, R125: every profile holds a record that passes the checks of LOAD PROFILE, and every pattern entry is
cleared or in use with a length of 1 to 4 and its bytes beyond the length 00h. -/
def State.tablesValid (s : State) : Prop :=
  (∀ i : Fin 8, profileFail (s.profiles[i]).bytes = none)
    ∧ ∀ i : Fin 16, s.patterns[i] = Pattern.cleared
        ∨ ((s.patterns[i]).inUse = true ∧ 1 ≤ (s.patterns[i]).length ∧ (s.patterns[i]).length ≤ 4
            ∧ ∀ j : Fin 4, (s.patterns[i]).length ≤ j.val → (s.patterns[i]).bytes[j] = 0#8)

/-- R172: while the link is UP no announce is due and the announce timer is stopped. -/
def State.announceQuiet (s : State) : Prop :=
  s.trunk.link = .up → s.trunk.announceTimer = .stopped ∧ s.trunk.announceDue = false

/-- R53, R89, R90: a line has a break exactly while SEND BREAK is its long request, its transmitter is in BREAK and its break
timer runs exactly while the break is in progress, a FLUSH in progress waits for a character in the shift register, a line
whose drain's completion has been taken is DRAINING, and a drain not yet complete has one of its conditions unmet (R48). -/
def State.longRequestsMatch (s : State) : Prop :=
  ∀ l, ((s.line l).brk ≠ .none ↔ (s.line l).longIs .sendBreak = true)
    ∧ ((s.line l).tx = .brk ↔ (s.line l).brk = .inProgress)
    ∧ ((s.line l).breakTimer ≠ .stopped ↔ (s.line l).brk = .inProgress)
    ∧ (s.line l).flushDone = false
    ∧ ((s.line l).drainTaken = true → (s.line l).state = .draining)
    ∧ ((s.line l).underDrain = true → (s.line l).drainDone = false)

/-- R130: no marker list holds more than 16 markers. -/
def State.markersBounded (s : State) : Prop := ∀ l, (s.line l).markers.length ≤ Config.maxMarkers

/-! ## Stream positions -/

/-- How far a position lies beyond Rt (R2). -/
def Line.off (x : Line) (p : Pos) : Nat := (p - x.Rt).toNat

/-- Cells that hold the positions from a up to b: each begins where the one before it ends, none is empty, and every cell but
the last is full (R9). -/
def cellsCover : Pos → List OutCell → Pos → Prop
  | a, [], b => a = b
  | a, c :: cs, b =>
      c.first = a ∧ 1 ≤ c.bytes.length ∧ (cs ≠ [] → c.bytes.length = Config.cellBytes)
        ∧ cellsCover (a + BitVec.ofNat 32 c.bytes.length) cs b

/-- R9, R11: the outbound cells hold every position from Rt up to S, and the oldest holds Rt, so no cell lies wholly below Rt. -/
def Line.queueCovers (x : Line) : Prop :=
  match x.outQ with
  | [] => x.Rt = x.S
  | c :: cs => (x.Rt - c.first).toNat < c.bytes.length ∧ cellsCover c.first (c :: cs) x.S

/-- The position just past the newest outstanding entry; Rt when the list is empty. -/
def Line.newest (x : Line) : Pos := x.newestEnd.getD x.Rt

/-- R76: the outstanding entries are contiguous from Rt, in stream order, none empty, all of stored bytes, and no more than the
window. -/
def Line.blocksInOrder (p : Profile) (x : Line) : Prop :=
  x.blocks.map Block.start = (x.Rt :: x.blocks.map Block.fin).take x.blocks.length
    ∧ (x.Rt :: x.blocks.map Block.fin).Pairwise (fun a b => x.off a < x.off b)
    ∧ x.off x.newest ≤ x.off x.S ∧ x.blocks.length ≤ p.window

/-- R130, R66: the stored positions of the markers rise strictly and lie below S, a MARK marker lies at or beyond Rt, and neither
T nor the newest entry's end lies beyond the position just past a HOLD marker. -/
def Line.markersInOrder (x : Line) : Prop :=
  x.markers.Pairwise (fun a b => x.off (a.pos + 1) < x.off (b.pos + 1))
    ∧ ∀ m ∈ x.markers, x.off (m.pos + 1) ≤ x.off x.S ∧ (m.kind = .mark → x.off m.pos < x.off x.S)
        ∧ (m.kind = .hold → x.off x.T ≤ x.off (m.pos + 1) ∧ x.off x.newest ≤ x.off (m.pos + 1))

/-- R10, R88: in NONE and CODE mode no block is ever formed, and T is Rt, or one beyond it while the byte at Rt is in the shift
register; a byte there that a FLUSH or an abort has given up lies below Rt. -/
def Line.retiresBehind (x : Line) : Prop :=
  x.blocks = [] ∧ x.openBlock = none ∧ x.state ≠ .stalled ∧ x.ackTimer = .stopped
    ∧ ((∀ ch pos, x.tx = .character ch → ch.kind ≠ .data pos) → x.T = x.Rt)
    ∧ ∀ ch pos, x.tx = .character ch → ch.kind = .data pos →
        (pos = x.Rt ∧ x.T = x.Rt + 1)
        ∨ (pos ≠ x.Rt ∧ x.T = x.Rt
            ∧ ((x.longIs .flush = true ∧ (x.Rt - pos).toNat ≤ 2 ^ 14) ∨ (x.underAbort = true ∧ (x.Rt - pos).toNat ≤ 2 ^ 15)))

/-- R73 to R76, R84 to R86: in BLOCK mode T has passed the end of every entry whose end has been sent, and of every entry while
the line is STALLED; with no block open T is not beyond the newest entry, and an open block begins there, with T beyond it and
a place left for it in the window. -/
def Line.sendsBlocks (p : Profile) (x : Line) : Prop :=
  (∀ b ∈ x.blocks, (b.sent = true ∨ x.state = .stalled) → x.off b.fin ≤ x.off x.T)
    ∧ (x.state = .stalled → x.ackTimer = .stopped)
    ∧ (x.openBlock = none → x.off x.T ≤ x.off x.newest)
    ∧ (∀ o, x.openBlock = some o → o.start = x.newest ∧ x.off x.newest < x.off x.T ∧ x.blocks.length < p.window)
    ∧ ∀ ch e, x.tx = .character ch → ch.role = .entryEnd e → ∀ b ∈ x.blocks, b.fin = e → x.off e ≤ x.off x.T

/-- R8: Rt, T and S stand in this order on every line; its cells, its outstanding list and its markers stand in order between
them; and its sending mode keeps them so. -/
def State.streamsInOrder (s : State) : Prop :=
  ∀ l, (s.line l).off (s.line l).T ≤ (s.line l).off (s.line l).S ∧ (s.line l).queueCovers
    ∧ (s.line l).blocksInOrder (s.prof l) ∧ (s.line l).markersInOrder
    ∧ ((s.prof l).outPacing ≠ .block → (s.line l).retiresBehind)
    ∧ ((s.prof l).outPacing = .block → (s.line l).sendsBlocks (s.prof l))

/-- R138, R139: a record of the pending table or of a report in service is of its place's class; only the part is a source
of TRUNK, and only lines are sources of the other classes. -/
def State.recordsInPlace (s : State) : Prop :=
  (∀ c src r, s.events.place c src = some r → r.cls = c ∧ (c = 0 ↔ src = 8))
    ∧ ∀ c rep, (s.events.cls c).report = some rep →
        rep.cls = c ∧ ∀ sr ∈ rep.records, sr.2.cls = c ∧ (c = 0 ↔ sr.1 = 8)

/-- R144 to R147: a class with no report in service has its repeat timer stopped and no repeat due, a class with one has, while the
repeat interval is not 0, its timer running or its repeat due, a class whose repeat is due has its timer stopped, and under repeat
interval 0 no timer runs and nothing is due. -/
def State.repeatsMatch (s : State) : Prop :=
  ∀ c, ((s.events.cls c).report = none → (s.events.cls c).timer = .stopped ∧ (s.events.cls c).due = false)
    ∧ ((s.events.cls c).report ≠ none → s.events.interval ≠ 0 →
        (s.events.cls c).timer ≠ .stopped ∨ (s.events.cls c).due = true)
    ∧ ((s.events.cls c).due = true → (s.events.cls c).timer = .stopped)
    ∧ (s.events.interval = 0 → (s.events.cls c).timer = .stopped ∧ (s.events.cls c).due = false)

end Machine

end Sys2Proof
end

