-- ==== Sys2Proof/Certificates/Slice0/Obligations.lean ====
section
/-!
DEFINITION. The statements for the provers: one definition each, over the model's own names. A request statement names the slot its request takes (log 16) and the answer; a frame is said by an equality of whole states wherever it can be.
-/
open Sys2Proof Sys2Proof.Machine

/-! ## The queue of commands -/

/-- Step runs the command at the front of the queue on the state with the queue's rest; on an empty queue the part idles,
which is the model's choice (log 5). -/
def Obligations.StepRunsFrontCommand : Prop :=
  (∀ (c : Instr) (rest : List Instr) (s : State), s.pending = c :: rest → step s = exec c { s with pending := rest })
    ∧ ∀ s : State, s.pending = [] → step s = .next s

/-- Every command completes in every state, and no command touches the queue. That a command which cannot happen in its state
completes too, and changes nothing, is the model's choice (log 2); so is the queue itself, whose order is the order of
happenings (log 3) and which a power-on reset leaves as it is (log 9). -/
def Obligations.CommandsCompleteAndKeepQueue : Prop :=
  ∀ (c : Instr) (s : State), ∃ t, exec c s = .next t ∧ t.pending = s.pending

/-- A line event, or a DATA frame received from HUNT with at most 64 payload bytes, for one line, leaves the records of the other
lines, the profiles and the pattern table as they are; a line event leaves the Trunk Port as it is too. What else it may bring is the
completion of a PART RESET in progress, when every line is then CLOSED. -/
def Obligations.LineEventsTouchOneLine : Prop :=
  ∀ (c : Instr) (l : Fin 8) (s : State), c.eventLine = some l →
    (∀ seq payload, c = .data l seq payload → s.trunk.rx = .hunt ∧ payload.length ≤ 64) →
    ∃ v t, exec c s = .next t ∧ (∀ k, k ≠ l → v.line k = s.line k) ∧ v.profiles = s.profiles ∧ v.patterns = s.patterns
      ∧ v.reqs.partReset = s.reqs.partReset ∧ ((∀ seq payload, c ≠ .data l seq payload) → v.trunk = s.trunk)
      ∧ (t = v ∨ ∃ p, v.reqs.partReset = some p ∧ (∀ k, (v.line k).state = .closed) ∧ v.resetCompleted p t)

/-! ## Power-on reset -/

/-- A power-on reset gives every record its power-on value, with the straps sampled. That the levels of the input pins and
the queue stay as they are, and the pin levels of State.reset, are the model's choice (log 9); so it is that no frame is on TTX and
no session response waits (log 33). The default of every profile field, the cleared values of a pattern entry and the power-on value of
every field of a line are written out; the CLOSED values of a line are these too, with its binding, its counters, AUXOn and the levels
of its input pins kept. -/
def Obligations.PowerOnResetValues : Prop :=
  (∀ (trs1 trs0 : Bool) (s : State), ∃ t, exec (.powerOnReset trs1 trs0) s = .next t
      ∧ t.pool = ⟨384, 384, 0, .stopped⟩
      ∧ (∀ i : Fin 8, t.profiles[i] = Profile.default) ∧ (∀ i : Fin 16, t.patterns[i] = Pattern.cleared)
      ∧ (∀ l, t.line l = Line.powerOn (s.line l).rxd (s.line l).rdyi (s.line l).st)
      ∧ (∀ c src, t.events.place c src = none) ∧ (∀ c, t.events.cls c = ⟨false, 0#8, none, .stopped, false⟩)
      ∧ t.events.order = [0, 1, 2, 3, 4, 5, 6, 7] ∧ t.events.mode = .fixed ∧ t.events.interval = 50
      ∧ t.reqs = ⟨[], [], [], 0, none⟩
      ∧ t.trunk = ⟨trs1, trs0, s.trunk.trx, .announcing, .powerOn, 0#8, 0#8, .stopped, true, 0, none,
          ⟨0, 0, 0, 0, 0, 0, 0⟩, .hunt, none⟩
      ∧ t.pending = s.pending)
      ∧ exec (.powerOnReset false false) State.reset = .next State.reset
    ∧ Profile.default =
      { rate := 8, dataBits := 8, parity := .none, stopBits := .one, outPacing := .none, readyGate := false, stopCode := 0x13#8
        goCode := 0x11#8, goOnAny := false, blockEnd := 0x03#8, ackCode := 0x06#8, nakCode := none, blockLimit := 256, window := 1
        ackTimeout := 2000, retryLimit := 2, blockLinger := 0, pauseTimeout := 0, gap := 0, inPacing := .none, highMark := 6
        lowMark := 2, flushCode := none, inboundIdle := 20, outQuota := 16, inQuota := 8, decoding := false, debounce := 10
        map := Vector.replicate 8 ⟨.ready, false⟩, breakTime := 250, breakAction := .report, grantStep := 128 }
    ∧ Pattern.cleared = ⟨false, 1, #v[0#8, 0#8, 0#8, 0#8], .mark, 0#8, 0#8⟩
    ∧ (∀ rxd rdyi st, Line.powerOn rxd rdyi st =
      { binding := 0, state := .closed, long := none, counters := ⟨0, 0, 0, 0, 0, 0, 0, 0, 0, 0⟩, A := 0, S := 0, T := 0, Rt := 0
        Lsent := 0, grantDue := false, recentGrant := false, resOut := 0, resIn := 0, outQ := [], inQ := [], tx := .idle
        openBlock := none, endWaiting := false, blocks := [], resend := false, retry := 0, stopped := false, brk := .none
        pause := .none, gapTimer := .stopped, ackTimer := .stopped, pauseTimer := .stopped, lingerTimer := .stopped
        breakTimer := .stopped, rx := .idle, armed := false, idleTimer := .stopped, wanted := .go, lastSent := .go, paused := false
        rdyo := false, settled := 0, candidate := none, debounceTimer := .stopped, cond := .ready, lastReported := .ready
        unreported := 0, markers := [], rxd := rxd, rdyi := rdyi, st := st, auxo := false })
    ∧ ∀ x : Line, x.closedFrom
        = { Line.powerOn x.rxd x.rdyi x.st with binding := x.binding, counters := x.counters, auxo := x.auxo }

/-! ## The frame receiver -/

/-- In HUNT a byte other than the start code, and a character whose stop bit samples at space, is a hunt byte: the
hunt-bytes counter rises and nothing else of the part changes but the level of TRX; the start code begins a header. A start code and four bytes that fail as a header: a header error is counted and raised, and the four bytes are taken
again in HUNT, so that those before a start code among them are hunt bytes and those after it begin the next header. A frame whose CRC is wrong, and a frame abandoned at a space-stop character with TRX back at mark, is discarded: a CRC
error is counted and raised, the receiver is in HUNT, and nothing else changes. -/
def Obligations.BadFramesCounted : Prop :=
  (∀ s : State, s.trunk.rx = .hunt →
    (∀ b, b ≠ 0xC3#8 → exec (.huntByte (.byte b)) s
        = .next { s with trunk := { s.trunk with
            trx := .mark, counters := { s.trunk.counters with hunt := min 65535 (s.trunk.counters.hunt + 1) } } })
    ∧ exec (.huntByte .spaceStop) s
        = .next { s with trunk := { s.trunk with
            trx := .space, counters := { s.trunk.counters with hunt := min 65535 (s.trunk.counters.hunt + 1) } } }
    ∧ exec (.huntByte (.byte 0xC3#8)) s = .next { s with trunk := { s.trunk with trx := .mark, rx := .header [] } })
  ∧ (∀ (s : State) (k q n c : Byte), s.trunk.rx = .hunt → s.trunk.counters.hunt ≤ 65535 →
    (c ≠ headerCheck k q n ∨ 64 < n.toNat) →
    (0xC3#8 ∉ [k, q, n, c] →
      exec (.headerError k q n c) s = .next (State.raiseTrunk { s with trunk := { s.trunk with
        trx := .mark
        counters := { s.trunk.counters with
          header := min 65535 (s.trunk.counters.header + 1), hunt := min 65535 (s.trunk.counters.hunt + 4) } } }
        (.trunk 0 1 0 0 0 0)))
    ∧ ∀ pre post, [k, q, n, c] = pre ++ 0xC3#8 :: post → 0xC3#8 ∉ pre →
      exec (.headerError k q n c) s = .next (State.raiseTrunk { s with trunk := { s.trunk with
        trx := .mark
        rx := .header post
        counters := { s.trunk.counters with
          header := min 65535 (s.trunk.counters.header + 1), hunt := min 65535 (s.trunk.counters.hunt + pre.length) } } }
        (.trunk 0 1 0 0 0 0)))
  ∧ (∀ (s : State) (f : BadFrame), s.trunk.rx = .hunt → f.wf = true →
    exec (.crcError f) s = .next (State.raiseTrunk { s with trunk := { s.trunk with
      trx := .mark, counters := { s.trunk.counters with crc := min 65535 (s.trunk.counters.crc + 1) } } }
      (.trunk 1 0 0 0 0 0)))

/-- The bytes of a frame built by R168 with at most 64 payload bytes, taken one by one by a receiver in HUNT, make one good
frame of that kind, channel, sequence and payload; a frame of the same bytes with another CRC is a CRC error. The header check is the
ones' complement of the sum of the three header bytes, and the CRC has polynomial 1021h and initial value FFFFh, most significant bit
first, high byte first; over 31h to 39h it is 29B1h. -/
def Obligations.FramesReceivedWhole : Prop :=
  (∀ (s : State) (kind channel : BitVec 4) (seq : Byte) (payload : List Byte) (hi lo : Byte),
    s.trunk.rx = .hunt → payload.length ≤ 64 →
    s.rxBytes (frameBytes kind channel seq payload)
        = s.received.goodFrame ⟨kindChannelByte kind channel, seq, byteOf payload.length⟩ payload
    ∧ ([hi, lo] ≠ crcBytes ([kindChannelByte kind channel, seq, byteOf payload.length] ++ payload) →
        s.rxBytes ([0xC3#8, kindChannelByte kind channel, seq, byteOf payload.length,
            headerCheck (kindChannelByte kind channel) seq (byteOf payload.length)] ++ payload ++ [hi, lo])
          = s.received.crcError))
  ∧ (∀ (kind channel : BitVec 4) (seq : Byte) (payload : List Byte), frameBytes kind channel seq payload
      = [0xC3#8, kindChannelByte kind channel, seq, byteOf payload.length,
          headerCheck (kindChannelByte kind channel) seq (byteOf payload.length)] ++ payload
        ++ crcBytes ([kindChannelByte kind channel, seq, byteOf payload.length] ++ payload)
    ∧ kindChannelByte kind channel = BitVec.ofNat 8 (16 * kind.toNat + channel.toNat))
  ∧ (∀ k q n : Byte, headerCheck k q n = ~~~(k + q + n))
  ∧ (∀ bytes, crcBytes bytes = [(crc16 bytes).extractLsb' 8 8, (crc16 bytes).extractLsb' 0 8])
  ∧ crc16 [] = 0xFFFF#16
  ∧ (∀ bytes b, crc16 (bytes ++ [b]) = Nat.repeat (fun c => if c.msb then (c <<< 1) ^^^ 0x1021#16 else c <<< 1) 8
        (crc16 bytes ^^^ (b.setWidth 16 <<< 8)))
  ∧ crcBytes [0x31#8, 0x32#8, 0x33#8, 0x34#8, 0x35#8, 0x36#8, 0x37#8, 0x38#8, 0x39#8] = [0x29#8, 0xB1#8]

/-- R171: while UP a good frame with the expected sequence is accepted and dispatched, one with the sequence last accepted is
discarded and counted as a duplicate, any other is counted as a gap, accepted and dispatched; while ANNOUNCING sequences are
not compared; a START SESSION is exempt in both link states; last accepted is 0 after a power-on reset. That a START SESSION
frame with no tag, exempt too, is dropped with last accepted as it was is the model's reading (log 11). -/
def Obligations.SequencesCompared : Prop :=
  (∀ (s : State) (kind channel : BitVec 4) (seq : Byte) (payload : List Byte),
    s.trunk.rx = .hunt → payload.length ≤ 64 →
    (∀ tag ops, kind = 2#4 → channel = 15#4 → payload = 0x01#8 :: tag :: ops →
      s.rxFrame kind channel seq payload = s.received.startSession seq tag)
    ∧ (kind = 2#4 → channel = 15#4 → payload = [0x01#8] → s.rxFrame kind channel seq payload = s.received.dropRequest)
    ∧ ((kind ≠ 2#4 ∨ channel ≠ 15#4 ∨ payload.head? ≠ some 0x01#8) →
      (s.trunk.link = .up → seq = s.trunk.lastAccepted + 1 → s.rxFrame kind channel seq payload
        = (s.heard seq).dispatch ⟨kindChannelByte kind channel, seq, byteOf payload.length⟩ payload)
      ∧ (s.trunk.link = .up → seq = s.trunk.lastAccepted → s.rxFrame kind channel seq payload
        = State.raiseTrunk { s.received with trunk := { s.received.trunk with
            counters := { s.trunk.counters with duplicates := min 65535 (s.trunk.counters.duplicates + 1) } } }
            (.trunk 0 0 0 1 0 0))
      ∧ (s.trunk.link = .up → seq ≠ s.trunk.lastAccepted + 1 → seq ≠ s.trunk.lastAccepted →
        s.rxFrame kind channel seq payload
        = (State.raiseTrunk { s.heard seq with trunk := { (s.heard seq).trunk with
            counters := { s.trunk.counters with gaps := min 65535 (s.trunk.counters.gaps + 1) } } }
            (.trunk 0 0 1 0 0 0)).dispatch ⟨kindChannelByte kind channel, seq, byteOf payload.length⟩ payload)
      ∧ (s.trunk.link = .announcing → s.rxFrame kind channel seq payload
        = s.received.dispatch ⟨kindChannelByte kind channel, seq, byteOf payload.length⟩ payload)))
  ∧ State.reset.trunk.lastAccepted = 0#8

/-- A good frame of a pairing of kind and channel that Table 10-2 does not know is discarded: counted and raised, its
sequence accepted while UP, and nothing else changed. A REQUEST frame shorter than two bytes is dropped and counted; one whose
only byte is START SESSION's code is dropped whatever its sequence, with last accepted as it was, which is the model's reading
(log 11). An unknown request code is refused with UNKNOWN-REQUEST while UP and dropped while ANNOUNCING. A refusal is listed at the tail of the response order while fewer than four are listed, and is otherwise a drop; a drop
raises the dropped-request count and a TRUNK event with dropped requests 1, and gives no answer. -/
def Obligations.UnknownFramesAndRequests : Prop :=
  (∀ (s u : State) (kind channel : BitVec 4) (seq : Byte) (payload : List Byte),
    s.takesFrame seq u → payload.length ≤ 64 →
    ¬ (kind = 1#4 ∧ channel.toNat < 8) → ¬ (kind = 2#4 ∧ channel = 15#4) →
    exec (.unknownFrame kind channel seq payload) s
      = .next (State.raiseTrunk { u with trunk := { u.trunk with
          counters := { s.trunk.counters with unknown := min 65535 (s.trunk.counters.unknown + 1) } } }
          (.trunk 0 0 0 0 1 0)))
  ∧ ((∀ (s u : State) (seq : Byte) (payload : List Byte), s.takesFrame seq u → payload.length < 2 →
    payload ≠ [0x01#8] → exec (.requestDropped seq payload) s = .next u.dropRequest)
  ∧ (∀ (s : State) (seq : Byte), s.trunk.rx = .hunt → exec (.requestDropped seq [0x01#8]) s = .next s.received.dropRequest)
  ∧ ∀ (s u : State) (code : Byte) (r : Req), s.takesFrame r.seq u → ReqCode.ofByte code = none →
    r.operands.length + 2 ≤ 64 →
    (s.trunk.link = .up → exec (.unknownRequest code r) s = .next (u.refuse r.tag code .unknownRequest))
    ∧ (s.trunk.link = .announcing → exec (.unknownRequest code r) s = .next u.dropRequest))
  ∧ (∀ (s : State) (tag code : Byte) (result : Result),
    (s.reqs.refusals.length < 4 → s.refuse tag code result
      = { s with reqs := { s.reqs with
          refusals := s.reqs.refusals ++ [⟨tag, code, result⟩], order := s.reqs.order ++ [.refusal] } })
    ∧ (4 ≤ s.reqs.refusals.length → s.refuse tag code result = s.dropRequest)
    ∧ s.dropRequest = State.raiseTrunk { s with reqs := { s.reqs with dropped := min 65535 (s.reqs.dropped + 1) } }
        (.trunk 0 0 0 0 0 1))

/-! ## Sessions and link restarts -/

/-- START SESSION while ANNOUNCING: the link is UP, last accepted is its sequence, the transmit sequence is 0, the announce
timer is stopped, every open line is grant-due, and the session response carries its tag and the announce payload. START SESSION while UP: the link restart with reset cause session restart comes first, so every slot, refusal and waiting
response goes, long requests go on unanswered, and in-service reports return to the pending table; then the session starts. A frame
on TTX then keeps the inbound cells it carries, and carries no slot and no refusal any more. -/
def Obligations.SessionsStart : Prop :=
  (∀ (s : State) (r : Req), s.trunk.rx = .hunt → s.trunk.link = .announcing → r.operands.length + 2 ≤ 64 →
    exec (.startSession r) s = .next { s with
      lines := s.lines.map (fun ln => { ln with grantDue := ln.grantDue || ln.state != .closed })
      trunk := { s.trunk with
        rx := .hunt
        trx := .mark
        link := .up
        lastAccepted := r.seq
        txSeq := 0#8
        announceTimer := .stopped
        announceDue := false
        session := some ⟨r.tag, [0x5A#8, 0x21#8, 0x01#8, 0x01#8, 0x80#8, 8#8, s.trunk.cause.code]
          ++ be16 s.trunk.counters.restarts⟩ } })
  ∧ (∀ (s : State) (r : Req), s.trunk.rx = .hunt → s.trunk.link = .up → r.operands.length + 2 ≤ 64 →
    exec (.startSession r) s = .next { s with
      lines := s.lines.map (fun ln =>
        { ln with
          long := ln.long.map (fun g => { g with slot := none })
          grantDue := ln.grantDue || ln.state != .closed })
      reqs := ⟨[], [], [], s.reqs.dropped, s.reqs.partReset.map (fun p => { p with slot := none })⟩
      events := s.events.restart
      trunk := { s.trunk with
        rx := .hunt
        trx := .mark
        link := .up
        cause := .sessionRestart
        lastAccepted := r.seq
        txSeq := 0#8
        announceTimer := .stopped
        announceDue := false
        counters := { s.trunk.counters with restarts := min 65535 (s.trunk.counters.restarts + 1) }
        tx := s.trunk.tx.map (fun f => { f with carries := f.carries.afterRestart })
        session := some ⟨r.tag, [0x5A#8, 0x21#8, 0x01#8, 0x01#8, 0x80#8, 8#8, 3#8]
          ++ be16 (min 65535 (s.trunk.counters.restarts + 1))⟩ } })
  ∧ (∀ l, Carry.afterRestart (.cells l) = .cells l) ∧ ∀ c, (∀ l, c ≠ .cells l) → Carry.afterRestart c = .nothing

/-- A trunk break is a link restart with reset cause trunk break, after which the receiver waits for TRX to return to mark;
last accepted, the transmit sequence and the lines' own records stay. TRX at mark ends the wait after a break, makes an
abandoned frame a CRC error, and is otherwise only a level. That a further break report before TRX is back at mark does
nothing is the rule's "detected once". That a session response not yet built stays (log 18), and that an announce timer that
runs goes on running (log 30), is the model's reading. At a link restart no report stays in service: its records return to their places, a pending record there counting as the
newer; report numbers, masks, the order and the interval stay, and repeat timers and due flags are cleared. A frame on TTX keeps the
inbound cells it carries, and carries no slot and no refusal any more. -/
def Obligations.TrunkBreaksRestartTheLink : Prop :=
  ((∀ s : State, s.trunk.rx ≠ .afterBreak →
    exec .trunkBreak s = .next { s with
      lines := s.lines.map (fun ln => { ln with long := ln.long.map (fun g => { g with slot := none }) })
      reqs := ⟨[], [], [], s.reqs.dropped, s.reqs.partReset.map (fun p => { p with slot := none })⟩
      events := s.events.restart
      trunk := { s.trunk with
        rx := .afterBreak
        trx := .space
        link := .announcing
        cause := .trunkBreak
        announceDue := true
        counters := { s.trunk.counters with restarts := min 65535 (s.trunk.counters.restarts + 1) }
        tx := s.trunk.tx.map (fun f => { f with carries := f.carries.afterRestart }) } })
  ∧ (∀ s : State, s.trunk.rx = .afterBreak → exec .trunkBreak s = .next s
      ∧ exec .trunkBreakEnd s = .next { s with trunk := { s.trunk with rx := .hunt, trx := .mark } })
  ∧ (∀ s : State, s.trunk.rx = .abandoned →
      exec .trunkBreakEnd s = .next (State.raiseTrunk { s with trunk := { s.trunk with
        rx := .hunt, trx := .mark
        counters := { s.trunk.counters with crc := min 65535 (s.trunk.counters.crc + 1) } } } (.trunk 1 0 0 0 0 0)))
  ∧ (∀ s : State, s.trunk.rx ≠ .afterBreak → s.trunk.rx ≠ .abandoned →
      exec .trunkBreakEnd s = .next { s with trunk := { s.trunk with trx := .mark } }))
  ∧ (∀ (e : EventUnit) (c : Fin 8),
    (e.restart.cls c).report = none ∧ (e.restart.cls c).timer = .stopped ∧ (e.restart.cls c).due = false
      ∧ (e.restart.cls c).number = (e.cls c).number ∧ (e.restart.cls c).mask = (e.cls c).mask
      ∧ e.restart.order = e.order ∧ e.restart.mode = e.mode ∧ e.restart.interval = e.interval
      ∧ ((e.cls c).report = none → ∀ src, e.restart.place c src = e.place c src)
      ∧ ∀ rep, (e.cls c).report = some rep → (rep.records.map Prod.fst).Nodup →
          (∀ src, src ∉ rep.records.map Prod.fst → e.restart.place c src = e.place c src)
          ∧ ∀ src rec, (src, rec) ∈ rep.records →
              (e.place c src = none → e.restart.place c src = some rec)
              ∧ ∀ newer, e.place c src = some newer → e.restart.place c src = some (rec.merge newer))
  ∧ (∀ l, Carry.afterRestart (.cells l) = .cells l) ∧ ∀ c, (∀ l, c ≠ .cells l) → Carry.afterRestart c = .nothing

/-! ## DATA frames from the computer -/

/-- A DATA frame is refused whole, by the first of the three tests that fails: it is counted and raises a REFUSED event with
the reason, one frame and its length, and nothing else of the part changes. -/
def Obligations.DataFramesRefused : Prop :=
  ∀ (s u : State) (l : Fin 8) (seq : Byte) (payload : List Byte), s.takesFrame seq u → payload.length ≤ 64 →
    let t := fun reason => (u.mapLine l (fun ln => { ln with counters :=
      { ln.counters with refused := min 65535 (ln.counters.refused + 1) } })).raise l (.refused reason 1 payload.length)
    (((s.line l).state = .closed ∨ (s.line l).state = .draining) →
      exec (.data l seq payload) s = .next (t ⟨false, true, false⟩))
    ∧ ((s.line l).isOpen → ((s.line l).Lsent - (s.line l).A).toNat < payload.length →
      exec (.data l seq payload) s = .next (t ⟨true, false, false⟩))
    ∧ ((s.line l).isOpen → payload.length ≤ ((s.line l).Lsent - (s.line l).A).toNat →
      16 < (s.line l).markers.length + (scan s.patterns l payload).marks.length →
      exec (.data l seq payload) s = .next (t ⟨false, false, true⟩))

/-- A DATA frame within credit whose markers fit is accepted whole: A rises by its length, the bytes the scan leaves are
appended to the outbound queue and S rises by their number, the markers are appended in scan order, the cells taken leave the
free list, and nothing is refused, sent or retired. The grant-due flag is set by the frame as a prompt, by the grant step or by
the emptied queue, and otherwise stays. Nothing else of the part changes but what follows within the event, which on a line with no
FLUSH ready to complete is the standing updates. With no pattern in use every byte is stored and no marker is made. -/
def Obligations.DataFramesAccepted : Prop :=
  ∀ (s u : State) (l : Fin 8) (seq : Byte) (payload : List Byte), s.takesFrame seq u → payload.length ≤ 64 →
    (s.line l).isOpen → payload.length ≤ ((s.line l).Lsent - (s.line l).A).toNat →
    (s.line l).markers.length + (scan s.patterns l payload).marks.length ≤ 16 →
    let x := s.line l
    let o := scan s.patterns l payload
    (∃ z t, z = { x with
          A := x.A + BitVec.ofNat 32 payload.length
          S := x.S + BitVec.ofNat 32 o.stored.length
          outQ := z.outQ
          markers := x.markers ++ o.marks.map (fun m => m.marker x.A x.S)
          grantDue := z.grantDue }
      ∧ z.outQ.flatMap OutCell.bytes = x.outQ.flatMap OutCell.bytes ++ o.stored
      ∧ (z.grantDue = true ↔ x.grantDue = true ∨ payload = [] ∨ x.becomesDue (s.prof l) z)
      ∧ (let w := { u.setLine l z with pool := { s.pool with free := s.pool.free - (z.outQ.length - x.outQ.length) } }
        exec (.data l seq payload) s = .next t ∧ State.thenSettles w l t
        ∧ (x.flushDone = false → t = w.setLine l (Line.standing (s.prof l) z))))
    ∧ ((∀ i : Fin 16, (s.patterns[i]).inUse = false) → scan s.patterns l payload = ⟨payload, []⟩)

/-- R16: a DATA frame of no bytes to an open line stores nothing, leaves A unchanged and makes a grant due; to a CLOSED or
DRAINING line it is refused with reason "closed" and no grant becomes due. The premise on the marker list is R130, an invariant
(CountsStayBounded). -/
def Obligations.GrantPrompts : Prop :=
  ∀ (s u : State) (l : Fin 8) (seq : Byte), s.takesFrame seq u → (s.line l).markers.length ≤ 16 →
    ((s.line l).isOpen → ∃ t, exec (.data l seq []) s = .next t
      ∧ State.thenSettles (u.setLine l { s.line l with grantDue := true }) l t ∧ (t.line l).grantDue = true
      ∧ (t.line l).A = (s.line l).A ∧ (t.line l).S = (s.line l).S ∧ (t.line l).outQ = (s.line l).outQ
      ∧ (t.line l).markers = (s.line l).markers ∧ t.pool = s.pool ∧ t.events = s.events)
    ∧ (((s.line l).state = .closed ∨ (s.line l).state = .draining) → exec (.data l seq []) s
      = .next ((u.setLine l { s.line l with counters :=
          { (s.line l).counters with refused := min 65535 ((s.line l).counters.refused + 1) } }).raise l
        (.refused ⟨false, true, false⟩ 1 0)))

/-- The scan of a payload goes from its first byte to its last. Where no entry matches, the byte is stored and the scan goes on
after it; an entry matches where it is in use, has the line in its set and its bytes stand next in the payload. Where entries
match, the one with the lowest index is taken: STRIP stores none of its bytes and makes no marker, MARK and HOLD store its bytes
and make a marker of its kind, tag and index at the stored and accepted offsets of its last byte, and the scan goes on after it.
So no more bytes are stored than the payload has, and the markers' offsets rise strictly and lie within what is stored and
accepted. -/
def Obligations.ScanFindsPatterns : Prop :=
  ∀ (pats : Vector Pattern 16) (l : Fin 8),
    (∀ i : Fin 16, 1 ≤ (pats[i]).length ∧ (pats[i]).length ≤ 4) →
    let stands := fun (e : Fin 16) (rest : List Byte) => (pats[e]).inUse = true ∧ (pats[e]).lineSet.getLsbD l.val = true
      ∧ (pats[e]).length ≤ rest.length ∧ rest.take (pats[e]).length = (pats[e]).bytes.toList.take (pats[e]).length
    (∀ payload, scan pats l payload = scanFrom pats l 0 0 0 payload)
    ∧ (∀ i n, scanFrom pats l 0 i n [] = ⟨[], []⟩)
    ∧ (∀ i n b rest, (∀ e, ¬ stands e (b :: rest)) →
      let after := scanFrom pats l 0 (i + 1) (n + 1) rest
      scanFrom pats l 0 i n (b :: rest) = ⟨b :: after.stored, after.marks⟩)
    ∧ (∀ i n rest (e : Fin 16), stands e rest → (∀ d : Fin 16, d < e → ¬ stands d rest) →
      let k := (pats[e]).length
      let after := scanFrom pats l 0 (i + k) (n + k) (rest.drop k)
      ((pats[e]).action = .strip → scanFrom pats l 0 i n rest = scanFrom pats l 0 (i + k) n (rest.drop k))
      ∧ ((pats[e]).action = .mark → scanFrom pats l 0 i n rest
          = ⟨rest.take k ++ after.stored, ⟨.mark, (pats[e]).tag, e, n + k - 1, i + k⟩ :: after.marks⟩)
      ∧ ((pats[e]).action = .hold → scanFrom pats l 0 i n rest
          = ⟨rest.take k ++ after.stored, ⟨.hold, (pats[e]).tag, e, n + k - 1, i + k⟩ :: after.marks⟩))
    ∧ ∀ payload, (scan pats l payload).stored.length ≤ payload.length
      ∧ (scan pats l payload).marks.Pairwise (fun a b => a.storedOff < b.storedOff ∧ a.acceptedOff < b.acceptedOff)
      ∧ ∀ m ∈ (scan pats l payload).marks,
        (pats[m.entry]).inUse = true ∧ (pats[m.entry]).lineSet.getLsbD l.val = true ∧ m.tag = (pats[m.entry]).tag
        ∧ ((pats[m.entry]).action = .mark ∧ m.kind = .mark ∨ (pats[m.entry]).action = .hold ∧ m.kind = .hold)
        ∧ m.storedOff < (scan pats l payload).stored.length ∧ m.acceptedOff ≤ payload.length
        ∧ (payload.drop (m.acceptedOff - (pats[m.entry]).length)).take (pats[m.entry]).length
            = (pats[m.entry]).bytes.toList.take (pats[m.entry]).length
        ∧ ((scan pats l payload).stored.drop (m.storedOff + 1 - (pats[m.entry]).length)).take (pats[m.entry]).length
            = (pats[m.entry]).bytes.toList.take (pats[m.entry]).length

/-! ## Requests: admission -/

/-- The admission checks of a known request, in order: a link that is not UP drops it; then a wrong operand length is refused
with BAD-OPERAND, a held tag with DUPLICATE-TAG, a PART RESET in progress or four held slots with BUSY. A request that passes
them all takes a slot in progress and is its owner's. The request codes and operand lengths are those of Table 9-4. -/
def Obligations.RequestsAdmitted : Prop :=
  (∀ (i : Instr) (c : ReqCode) (r : Req) (s : State), i.request = some (c, r) → s.trunk.rx = .hunt →
    r.operands.length + 2 ≤ 64 →
    (s.trunk.link = .announcing → exec i s = .next s.received.dropRequest)
    ∧ (s.trunk.link = .up → r.seq = s.trunk.lastAccepted + 1 →
      (r.operands.length ≠ c.operandBytes → exec i s = .next ((s.heard r.seq).refuse r.tag c.byte .badOperand))
      ∧ (r.operands.length = c.operandBytes →
        ((∃ k ∈ s.reqs.slots, k.tag = r.tag) → exec i s = .next ((s.heard r.seq).refuse r.tag c.byte .duplicateTag))
        ∧ ((∀ k ∈ s.reqs.slots, k.tag ≠ r.tag) →
          ((s.reqs.partReset ≠ none ∨ ∀ n : Fin 4, ∃ k ∈ s.reqs.slots, k.num = n) →
            exec i s = .next ((s.heard r.seq).refuse r.tag c.byte .busy))
          ∧ (s.reqs.partReset = none → ∀ n, s.reqs.freeSlot = some n →
            (∀ k ∈ s.reqs.slots, k.num ≠ n)
            ∧ exec i s = .next ((s.inSlot c r n).toOwner n c r.operands))))))
  ∧ ReqCode.all.map ReqCode.byte = [0x01#8, 0x02#8, 0x03#8, 0x04#8, 0x10#8, 0x11#8, 0x12#8, 0x20#8, 0x21#8, 0x22#8, 0x23#8,
        0x24#8, 0x25#8, 0x26#8, 0x27#8, 0x28#8, 0x29#8, 0x30#8, 0x31#8, 0x32#8, 0x40#8, 0x41#8, 0x42#8, 0x43#8, 0x44#8]
  ∧ ReqCode.all.tail.map ReqCode.operandBytes
      = [1, 1, 1, 47, 1, 2, 1, 2, 2, 1, 1, 2, 1, 1, 1, 2, 9, 1, 1, 3, 1, 2, 1, 0]

/-! ## Requests on part-wide tables -/

/-- R165: READ PART answers with the part's data as they stand; clear 1 sets the seven trunk counters and the dropped-request
count to 0 in the same event, clear 0 changes nothing, any other value is refused with BAD-OPERAND. -/
def Obligations.ReadPartAnswers : Prop :=
  ∀ (s : State) (r : Req) (n : Fin 4) (b : Byte), s.takes .readPart r n → r.operands = [b] →
    let c := s.trunk.counters
    let t := s.answered .readPart r n ⟨.ok, [0x5A#8, 0x21#8, 0x01#8] ++ be16 384 ++ be16 s.pool.free ++ be16 s.pool.unreserved
      ++ be16 c.crc ++ be16 c.header ++ be16 c.gaps ++ be16 c.duplicates ++ be16 c.unknown ++ be16 c.hunt ++ be16 c.restarts
      ++ be16 s.reqs.dropped ++ [byteOf s.pool.refresh]⟩
    (b = 0#8 → exec (.readPart r) s = .next t)
    ∧ (b = 1#8 → exec (.readPart r) s = .next { t with
        trunk := { t.trunk with counters := ⟨0, 0, 0, 0, 0, 0, 0⟩ }, reqs := { t.reqs with dropped := 0 } })
    ∧ (b ≠ 0#8 → b ≠ 1#8 → exec (.readPart r) s = .next (s.turnedAway .readPart r n .badOperand))

/-- SET GRANT REFRESH sets the interval, restarts or stops the timer and clears the recent-grant flags; at each expiry every
line that is not CLOSED and had no recent grant becomes grant-due, the flags are cleared and the timer restarts. -/
def Obligations.GrantRefresh : Prop :=
  (∀ (s : State) (r : Req) (n : Fin 4) (b : Byte), s.takes .setGrantRefresh r n → r.operands = [b] →
    exec (.setGrantRefresh r) s = .next { s.answered .setGrantRefresh r n ⟨.ok, []⟩ with
      lines := s.lines.map (fun ln => { ln with recentGrant := false })
      pool := { s.pool with
        refresh := b.toNat, refreshTimer := if b = 0#8 then .stopped else .running (10 * b.toNat) } })
  ∧ ∀ s : State, s.pool.refreshTimer ≠ .stopped →
    exec .grantRefreshTimerExpiry s = .next { s with
      lines := s.lines.map (fun ln =>
        { ln with grantDue := ln.grantDue || (ln.state != .closed && !ln.recentGrant), recentGrant := false })
      pool := { s.pool with
        refreshTimer := if s.pool.refresh = 0 then .stopped else .running (10 * s.pool.refresh) } }

/-- LOAD PROFILE: an index outside 0 to 7 is refused with BAD-OPERAND, a profile in use by a line that is not CLOSED with
PROFILE-IN-USE, a record that fails a check with BAD-PROFILE and the field index of the first that fails, none of these
changing the profile; otherwise the record replaces the profile and the answer is OK. READ PROFILE answers with the index and the profile's record, and changes nothing. -/
def Obligations.ProfilesLoadedAndRead : Prop :=
  (∀ (s : State) (r : Req) (n : Fin 4) (b : Byte) (rec : List Byte), s.takes .loadProfile r n → r.operands = b :: rec →
    (8 ≤ b.toNat → exec (.loadProfile r) s = .next (s.turnedAway .loadProfile r n .badOperand))
    ∧ ∀ i : Fin 8, b.toNat = i.val →
      ((∃ l, (s.line l).binding = i ∧ (s.line l).state ≠ .closed) →
        exec (.loadProfile r) s = .next (s.turnedAway .loadProfile r n .profileInUse))
      ∧ ((∀ l, (s.line l).binding = i → (s.line l).state = .closed) →
        (∀ f, profileFail rec = some f →
          exec (.loadProfile r) s = .next (s.answered .loadProfile r n ⟨.badProfile, [byteOf f]⟩))
        ∧ (profileFail rec = none →
          exec (.loadProfile r) s = .next { s.answered .loadProfile r n ⟨.ok, []⟩ with
            profiles := s.profiles.set i.val (Profile.ofBytes rec) i.isLt })))
  ∧ (∀ (s : State) (r : Req) (n : Fin 4) (b : Byte), s.takes .readProfile r n → r.operands = [b] →
    (8 ≤ b.toNat → exec (.readProfile r) s = .next (s.turnedAway .readProfile r n .badOperand))
    ∧ ∀ i : Fin 8, b.toNat = i.val →
      exec (.readProfile r) s = .next (s.answered .readProfile r n ⟨.ok, b :: (s.profiles[i]).bytes⟩))

/-- The checks of LOAD PROFILE on a record of 46 bytes, as Tables 2-1 and 2-2 and then Table 2-5 have them in order: the first field
outside its range or its codes is reported by its index; in a record with every field in range the first consistency check that
fails is reported by its field; a record that fails none passes. So a record that passes holds values in their ranges and is
consistent: stop bits 1.5 only with 5 data bits, high mark above low mark and within the inbound quota, the codes its modes use
within the data width, different from one another where they must differ, and no flush code that the outbound pacing consumes. -/
def Obligations.AcceptedProfilesAreSound : Prop :=
  (∀ rec : List Byte, rec.length = 46 →
    let b := fun (o : Nat) => (rec.getD o 0#8).toNat
    let w := fun (o : Nat) => 256 * b o + b (o + 1)
    let entry := fun (o : Nat) => b o % 8 ≤ 6 ∧ b o / 8 % 16 = 0
    let ranges : List Prop := [b 0 ≤ 12, 5 ≤ b 1 ∧ b 1 ≤ 8, b 2 ≤ 4, b 3 ≤ 2, b 4 ≤ 2, b 5 ≤ 1, True, True, b 8 ≤ 1, True, True,
      b 11 ≤ 1, 1 ≤ w 13 ∧ w 13 ≤ 1024, 1 ≤ b 15 ∧ b 15 ≤ 4, 10 ≤ w 16 ∧ w 16 ≤ 65535, b 18 ≤ 7, True,
      w 21 = 0 ∨ (10 ≤ w 21 ∧ w 21 ≤ 65535), True, b 24 ≤ 2, 2 ≤ b 25 ∧ b 25 ≤ 64, 1 ≤ b 26 ∧ b 26 ≤ 63, b 27 ≤ 1,
      1 ≤ b 29 ∧ b 29 ≤ 255, 2 ≤ b 30 ∧ b 30 ≤ 128, 2 ≤ b 31 ∧ b 31 ≤ 64, b 32 ≤ 1, True, entry 34, entry 35, entry 36, entry 37,
      entry 38, entry 39, entry 40, entry 41, 1 ≤ b 42 ∧ b 42 ≤ 255, b 43 ≤ 1, 16 ≤ w 44 ∧ w 44 ≤ 2048]
    let fits := fun (o : Nat) => b o < 2 ^ b 1
    let codes := b 4 = 1 ∨ b 24 = 1
    let nak := b 4 = 2 ∧ b 11 = 1
    let both := b 24 = 1 ∧ b 4 = 2
    let checks : List (Prop × Nat) := [(b 3 = 1 → b 1 = 5, 3), (b 26 < b 25, 21), (b 25 ≤ b 31, 20),
      (codes → fits 6, 6), (codes → fits 7, 7), (b 4 = 2 → fits 9, 9), (b 4 = 2 → fits 10, 10), (nak → fits 12, 11),
      (b 27 = 1 → fits 28, 22), (codes → b 6 ≠ b 7, 7), (nak → b 12 ≠ b 10, 11),
      (both → b 6 ≠ b 10, 6), (both → b 11 = 1 → b 6 ≠ b 12, 6), (both → b 7 ≠ b 10, 7), (both → b 11 = 1 → b 7 ≠ b 12, 7),
      (b 27 = 1 → (b 4 = 1 → b 28 ≠ b 6 ∧ b 28 ≠ b 7) ∧ (b 4 = 2 → b 28 ≠ b 10) ∧ (nak → b 28 ≠ b 12), 22)]
    (∀ before q rest, ranges = before ++ q :: rest → (∀ r ∈ before, r) → ¬ q → profileFail rec = some before.length)
    ∧ ((∀ r ∈ ranges, r) →
      (∀ before q f rest, checks = before ++ (q, f) :: rest → (∀ r ∈ before, r.1) → ¬ q → profileFail rec = some f)
      ∧ ((∀ r ∈ checks, r.1) → profileFail rec = none)))
  ∧ ∀ rec : List Byte, rec.length = 46 → profileFail rec = none →
    let p := Profile.ofBytes rec
    p.rate ≤ 12 ∧ 5 ≤ p.dataBits ∧ p.dataBits ≤ 8 ∧ 1 ≤ p.blockLimit ∧ p.blockLimit ≤ 1024 ∧ 1 ≤ p.window ∧ p.window ≤ 4
    ∧ 10 ≤ p.ackTimeout ∧ p.ackTimeout ≤ 65535 ∧ p.retryLimit ≤ 7 ∧ (p.pauseTimeout = 0 ∨ 10 ≤ p.pauseTimeout)
    ∧ 1 ≤ p.inboundIdle ∧ 2 ≤ p.outQuota ∧ p.outQuota ≤ 128 ∧ 2 ≤ p.inQuota ∧ p.inQuota ≤ 64
    ∧ 1 ≤ p.breakTime ∧ 16 ≤ p.grantStep ∧ p.grantStep ≤ 2048
    ∧ 1 ≤ p.lowMark ∧ p.lowMark < p.highMark ∧ p.highMark ≤ p.inQuota
    ∧ (p.stopBits = .oneAndHalf → p.dataBits = 5)
    ∧ (p.outPacing = .code ∨ p.inPacing = .code →
        p.stopCode.toNat < 2 ^ p.dataBits ∧ p.goCode.toNat < 2 ^ p.dataBits ∧ p.stopCode ≠ p.goCode)
    ∧ (p.outPacing = .block → p.blockEnd.toNat < 2 ^ p.dataBits ∧ p.ackCode.toNat < 2 ^ p.dataBits
        ∧ ∀ k, p.nakCode = some k → k.toNat < 2 ^ p.dataBits ∧ k ≠ p.ackCode)
    ∧ (p.outPacing = .block → p.inPacing = .code →
        p.stopCode ≠ p.ackCode ∧ p.goCode ≠ p.ackCode ∧ ∀ k, p.nakCode = some k → k ≠ p.stopCode ∧ k ≠ p.goCode)
    ∧ ∀ f, p.flushCode = some f → f.toNat < 2 ^ p.dataBits ∧ f ∉ p.consumed

/-- R37: BIND LINE refuses a number outside 0 to 7 with BAD-OPERAND, then a line that is not CLOSED with WRONG-STATE, and
otherwise sets the line's binding and nothing else. -/
def Obligations.LinesBound : Prop :=
  ∀ (s : State) (r : Req) (n : Fin 4) (a b : Byte), s.takes .bindLine r n → r.operands = [a, b] →
    ((8 ≤ a.toNat ∨ 8 ≤ b.toNat) → exec (.bindLine r) s = .next (s.turnedAway .bindLine r n .badOperand))
    ∧ ∀ l i : Fin 8, a.toNat = l.val → b.toNat = i.val →
      ((s.line l).state ≠ .closed → exec (.bindLine r) s = .next (s.turnedAway .bindLine r n .wrongState))
      ∧ ((s.line l).state = .closed →
        exec (.bindLine r) s = .next ((s.answered .bindLine r n ⟨.ok, []⟩).setLine l { s.line l with binding := i }))

/-- LOAD PATTERN, CLEAR PATTERN and READ PATTERN: their operand checks, the entry written with the bytes beyond its length
00h, the entry or every entry cleared, and the entry read with the number of markers on all lists that name it. -/
def Obligations.PatternsLoadedClearedRead : Prop :=
  (∀ (s : State) (r : Req) (n : Fin 4) (x len b0 b1 b2 b3 act tag set : Byte), s.takes .loadPattern r n →
    r.operands = [x, len, b0, b1, b2, b3, act, tag, set] →
    ((16 ≤ x.toNat ∨ len.toNat < 1 ∨ 4 < len.toNat ∨ 2 < act.toNat) →
      exec (.loadPattern r) s = .next (s.turnedAway .loadPattern r n .badOperand))
    ∧ ∀ i : Fin 16, x.toNat = i.val → 1 ≤ len.toNat → len.toNat ≤ 4 → act.toNat ≤ 2 →
      exec (.loadPattern r) s = .next { s.answered .loadPattern r n ⟨.ok, []⟩ with
        patterns := s.patterns.set i.val
          { inUse := true
            length := len.toNat
            bytes := #v[b0, if 2 ≤ len.toNat then b1 else 0#8, if 3 ≤ len.toNat then b2 else 0#8,
              if len.toNat = 4 then b3 else 0#8]
            action := if act = 0#8 then .mark else if act = 1#8 then .hold else .strip
            tag := tag
            lineSet := set } i.isLt })
  ∧ (∀ (s : State) (r : Req) (n : Fin 4) (x : Byte), s.takes .clearPattern r n → r.operands = [x] →
    (∀ i : Fin 16, x.toNat = i.val → exec (.clearPattern r) s = .next { s.answered .clearPattern r n ⟨.ok, []⟩ with
      patterns := s.patterns.set i.val ⟨false, 1, #v[0#8, 0#8, 0#8, 0#8], .mark, 0#8, 0#8⟩ i.isLt })
    ∧ (x = 0xFF#8 → exec (.clearPattern r) s = .next { s.answered .clearPattern r n ⟨.ok, []⟩ with
      patterns := Vector.replicate 16 ⟨false, 1, #v[0#8, 0#8, 0#8, 0#8], .mark, 0#8, 0#8⟩ })
    ∧ (16 ≤ x.toNat → x ≠ 0xFF#8 → exec (.clearPattern r) s = .next (s.turnedAway .clearPattern r n .badOperand)))
  ∧ (∀ (s : State) (r : Req) (n : Fin 4) (x : Byte), s.takes .readPattern r n → r.operands = [x] →
    (16 ≤ x.toNat → exec (.readPattern r) s = .next (s.turnedAway .readPattern r n .badOperand))
    ∧ ∀ i : Fin 16, x.toNat = i.val →
      exec (.readPattern r) s = .next (s.answered .readPattern r n ⟨.ok,
        [x, bitByte (s.patterns[i]).inUse, byteOf (s.patterns[i]).length] ++ (s.patterns[i]).bytes.toList
          ++ [(s.patterns[i]).action.code, (s.patterns[i]).tag, (s.patterns[i]).lineSet,
            byteOf (s.sumLines (fun ln => (ln.markers.filter (fun m => m.entry == i)).length))]⟩))
  ∧ [PatternAction.mark, .hold, .strip].map PatternAction.code = [0#8, 1#8, 2#8]

/-! ## Event requests -/

/-- ACK EVENT, specific: a form other than 0 or 1 and a class outside 0 to 7 are refused with BAD-OPERAND; a match clears the
class's report, its timer and its due flag, in ROTATING makes the class lowest, and is answered with the class and number; no
match is answered NOT-IN-SERVICE and changes nothing. ACK EVENT, non-specific: with no report in service it is answered NOT-IN-SERVICE; otherwise it clears the report of the
in-service class that stands highest in the order, as the specific form does, and is answered with that class and number. -/
def Obligations.EventsAcknowledged : Prop :=
  (∀ (s : State) (r : Req) (n : Fin 4) (form b k : Byte), s.takes .ackEvent r n → r.operands = [form, b, k] →
    ((1 < form.toNat ∨ (form = 0#8 ∧ 8 ≤ b.toNat)) →
      exec (.ackEventSpecific r) s = .next (s.turnedAway .ackEvent r n .badOperand))
    ∧ ∀ c : Fin 8, form = 0#8 → b.toNat = c.val →
      (∀ rep, (s.events.cls c).report = some rep → rep.number = k →
        exec (.ackEventSpecific r) s = .next { s.answered .ackEvent r n ⟨.ok, [b, k]⟩ with
          events := { s.events with
            classes := s.events.classes.set c.val
              { s.events.cls c with report := none, timer := .stopped, due := false } c.isLt
            order := if s.events.mode = .rotating then [c + 1, c + 2, c + 3, c + 4, c + 5, c + 6, c + 7, c] else s.events.order } })
      ∧ ((∀ rep, (s.events.cls c).report = some rep → rep.number ≠ k) →
        exec (.ackEventSpecific r) s = .next (s.turnedAway .ackEvent r n .notInService)))
  ∧ (∀ (s : State) (r : Req) (n : Fin 4) (b k : Byte), s.takes .ackEvent r n → r.operands = [1#8, b, k] →
    ((∀ c, (s.events.cls c).report = none) →
      exec (.ackEventNonSpecific r) s = .next (s.turnedAway .ackEvent r n .notInService))
    ∧ ∀ c rep, c ∈ s.events.order → (s.events.cls c).report = some rep →
      (∀ d ∈ s.events.order, (s.events.cls d).report ≠ none → s.events.order.idxOf c ≤ s.events.order.idxOf d) →
      exec (.ackEventNonSpecific r) s = .next { s.answered .ackEvent r n ⟨.ok, [byteOf c.val, rep.number]⟩ with
        events := { s.events with
          classes := s.events.classes.set c.val
            { s.events.cls c with report := none, timer := .stopped, due := false } c.isLt
          order := if s.events.mode = .rotating then [c + 1, c + 2, c + 3, c + 4, c + 5, c + 6, c + 7, c] else s.events.order } })

/-- SET EVENT MASK sets the eight mask flags and answers with those before; SET EVENT ORDER sets the mode and the order;
SET REPEAT INTERVAL sets the interval, answers with the one before, stops or restarts the repeat timers of the classes in
service; READ EVENTS answers with the Event Unit's data and changes nothing; in a byte of class flags
bit c stands for class c. -/
def Obligations.EventSettings : Prop :=
  (∀ (s : State) (r : Req) (n : Fin 4) (m : Byte), s.takes .setEventMask r n → r.operands = [m] →
    ∃ t, exec (.setEventMask r) s = .next t
      ∧ t = { s.answered .setEventMask r n ⟨.ok, [s.events.maskByte]⟩ with
          events := { s.events with classes := t.events.classes } }
      ∧ (∀ c : Fin 8, s.events.maskByte.getLsbD c.val = (s.events.cls c).mask)
      ∧ ∀ c : Fin 8, t.events.cls c = { s.events.cls c with mask := m.getLsbD c.val })
  ∧ (∀ (s : State) (r : Req) (n : Fin 4) (mode low : Byte), s.takes .setEventOrder r n → r.operands = [mode, low] →
    ((1 < mode.toNat ∨ (7 < low.toNat ∧ low ≠ 0xFF#8)) →
      exec (.setEventOrder r) s = .next (s.turnedAway .setEventOrder r n .badOperand))
    ∧ (mode = 0#8 → (low.toNat ≤ 7 ∨ low = 0xFF#8) →
      exec (.setEventOrder r) s = .next { s.answered .setEventOrder r n ⟨.ok, []⟩ with
        events := { s.events with mode := .fixed, order := [0, 1, 2, 3, 4, 5, 6, 7] } })
    ∧ (∀ c : Fin 8, mode = 1#8 → low.toNat = c.val →
      exec (.setEventOrder r) s = .next { s.answered .setEventOrder r n ⟨.ok, []⟩ with
        events := { s.events with mode := .rotating, order := [c + 1, c + 2, c + 3, c + 4, c + 5, c + 6, c + 7, c] } })
    ∧ (mode = 1#8 → low = 0xFF#8 →
      exec (.setEventOrder r) s = .next { s.answered .setEventOrder r n ⟨.ok, []⟩ with
        events := { s.events with mode := .rotating } }))
  ∧ (∀ (s : State) (r : Req) (n : Fin 4) (b : Byte), s.takes .setRepeatInterval r n → r.operands = [b] →
    ∃ t, exec (.setRepeatInterval r) s = .next t
      ∧ t = { s.answered .setRepeatInterval r n ⟨.ok, [byteOf s.events.interval]⟩ with
          events := { s.events with interval := b.toNat, classes := t.events.classes } }
      ∧ ∀ c : Fin 8, t.events.cls c = { s.events.cls c with
          timer := if b = 0#8 then .stopped
            else if (s.events.cls c).report ≠ none ∧ (s.events.cls c).due = false then .running (10 * b.toNat)
            else (s.events.cls c).timer
          due := if b = 0#8 then false else (s.events.cls c).due })
  ∧ (∀ (s : State) (r : Req) (n : Fin 4), s.takes .readEvents r n →
    exec (.readEvents r) s = .next (s.answered .readEvents r n ⟨.ok,
      [s.events.mode.code] ++ s.events.order.map (fun c => byteOf c.val) ++ [byteOf s.events.interval, s.events.maskByte,
        flagByte (allClasses.map (fun c => (s.events.cls c).report.isSome)),
        flagByte (allClasses.map (fun c => (s.events.cls c).due))]
      ++ allClasses.map (fun c => (s.events.cls c).number)
      ++ allClasses.map (fun c => byteOf (s.events.records c).length)⟩))
  ∧ [OrderMode.fixed, .rotating].map OrderMode.code = [0#8, 1#8] ∧ allClasses = [0, 1, 2, 3, 4, 5, 6, 7]
  ∧ ∀ (f : Fin 8 → Bool) (c : Fin 8), (flagByte (allClasses.map f)).getLsbD c.val = f c

/-- An event raised at a source creates a record in the place of its class and source, with the values the event carries, or
merges into the record there; no other place changes, and neither does any class entry. A merge unites sets, a member being
in the union when it is in either, adds counts with saturation, and takes the latest of the other fields from the newer event. -/
def Obligations.EventsRaisedAndMerged : Prop :=
  (∀ (e : EventUnit) (src : Fin 9) (r : EventRec),
    (e.raise src r).classes = e.classes ∧ (e.raise src r).order = e.order
    ∧ (e.place r.cls src = none → (e.raise src r).place r.cls src = some r)
    ∧ (∀ old, e.place r.cls src = some old → (e.raise src r).place r.cls src = some (old.merge r))
    ∧ ∀ c k, (c ≠ r.cls ∨ k ≠ src) → (e.raise src r).place c k = e.place c k)
  ∧ (∀ a b c d e f a' b' c' d' e' f' : Nat, (EventRec.trunk a b c d e f).merge (.trunk a' b' c' d' e' f')
      = .trunk (min 255 (a + a')) (min 255 (b + b')) (min 255 (c + c')) (min 255 (d + d')) (min 255 (e + e')) (min 255 (f + f')))
  ∧ (∀ k k' a a' p p', (EventRec.stall k a p).merge (.stall k' a' p') = .stall k' a' p')
  ∧ (∀ c c' n n', (EventRec.timeout c n).merge (.timeout c' n') = .timeout (c.union c') (min 255 (n + n')))
  ∧ (∀ x y n x' y' n', (EventRec.condition x y n).merge (.condition x' y' n') = .condition x' y' (min 255 (n + n')))
  ∧ (∀ k a b c k' a' b' c', (EventRec.lineError k a b c).merge (.lineError k' a' b' c')
      = .lineError (k.union k') (min 255 (a + a')) (min 255 (b + b')) (min 255 (c + c')))
  ∧ (∀ k a b k' a' b', (EventRec.refused k a b).merge (.refused k' a' b')
      = .refused (k.union k') (min 255 (a + a')) (min 65535 (b + b')))
  ∧ (∀ n t p n' t' p', (EventRec.mark n t p).merge (.mark n' t' p') = .mark (min 255 (n + n')) t' p')
  ∧ (∀ t p t' p', (EventRec.hold t p).merge (.hold t' p') = .hold t' p')
  ∧ (∀ a b : CauseSet, a.union b
      = ⟨a.stopCode || b.stopCode, a.readyLow || b.readyLow, a.condition || b.condition⟩)
  ∧ (∀ a b : KindSet, a.union b
      = ⟨a.framing || b.framing, a.parity || b.parity, a.overrun || b.overrun, a.brk || b.brk,
          a.strayAck || b.strayAck, a.lateAck || b.lateAck⟩)
  ∧ ∀ a b : ReasonSet, a.union b = ⟨a.credit || b.credit, a.closed || b.closed, a.markerOverflow || b.markerOverflow⟩

/-! ## Line requests -/

/-- OPEN LINE: an index outside 0 to 7, a line that is not CLOSED, and too few unreserved cells are refused in this order and
change nothing; otherwise the quotas are reserved and every record of the line takes its opening value, the condition taken
from the combination present under status decoding, with a CONDITION event when its entry is reported or INVALID. The fields not
named take their CLOSED values, which are the power-on values with the binding, AUXOn and the levels of the input pins kept. -/
def Obligations.LinesOpened : Prop :=
  (∀ x : Line, x.closedFrom
    = { Line.powerOn x.rxd x.rdyi x.st with binding := x.binding, counters := x.counters, auxo := x.auxo })
  ∧ ∀ (s : State) (r : Req) (n : Fin 4) (a : Byte), s.takes .openLine r n → r.operands = [a] →
    (8 ≤ a.toNat → exec (.openLine r) s = .next (s.turnedAway .openLine r n .badOperand))
    ∧ ∀ l : Fin 8, a.toNat = l.val →
      ((s.line l).state ≠ .closed → exec (.openLine r) s = .next (s.turnedAway .openLine r n .wrongState))
      ∧ ((s.line l).state = .closed →
        let p := s.prof l
        let m := p.map[(s.line l).st]
        let told := p.decoding && (m.report || m.cond == .invalid)
        (s.pool.unreserved < p.outQuota + p.inQuota →
          exec (.openLine r) s = .next (s.turnedAway .openLine r n .noRoom))
        ∧ (p.outQuota + p.inQuota ≤ s.pool.unreserved →
          exec (.openLine r) s = .next { (s.answered .openLine r n ⟨.ok, []⟩).setLine l
              { (s.line l).closedFrom with
                state := .running
                counters := ⟨0, 0, 0, 0, 0, 0, 0, 0, 0, 0⟩
                resOut := p.outQuota
                resIn := p.inQuota
                Lsent := BitVec.ofNat 32 (32 * p.outQuota)
                grantDue := true
                rdyo := true
                settled := if p.decoding then (s.line l).st else 0
                cond := if p.decoding then m.cond else .ready
                lastReported := if told then m.cond else .ready } with
            pool := { s.pool with unreserved := s.pool.unreserved - (p.outQuota + p.inQuota) }
            events := if told then s.events.raise l.castSucc (.condition m.cond .ready 0) else s.events }))

/-- READ LINE answers in every line state with the line's data; clear 1 sets the ten counters to 0 in the same event, clear 0
changes nothing. PAUSE INBOUND and RESUME INBOUND set and clear the paused-inbound flag of a line that is not CLOSED; SET AUX drives AUXOn
in every line state and answers with the level before. The codes of the line states and of the long requests, the flag byte, and
the room that L stands above A by, are as the layout and the room's rule give them. -/
def Obligations.LinesReadAndPaused : Prop :=
  (∀ (s : State) (r : Req) (n : Fin 4) (a b : Byte), s.takes .readLine r n → r.operands = [a, b] →
    ((8 ≤ a.toNat ∨ 1 < b.toNat) → exec (.readLine r) s = .next (s.turnedAway .readLine r n .badOperand))
    ∧ ∀ l : Fin 8, a.toNat = l.val →
      let x := s.line l
      let t := s.answered .readLine r n ⟨.ok,
        [byteOf x.state.code, byteOf x.longCode, byteOf x.binding.val, byteOf x.cond.code]
        ++ be32 x.A ++ be32 x.S ++ be32 x.T ++ be32 x.Rt ++ be32 (x.A + BitVec.ofNat 32 x.room)
        ++ [byteOf x.outQ.length, byteOf x.inQ.length, byteOf x.blocks.length, byteOf x.markers.length,
          flagByte [x.stopped, x.resend], byteOf x.retry]
        ++ be16 x.counters.sent ++ be16 x.counters.received ++ be16 x.counters.framing ++ be16 x.counters.parity
        ++ be16 x.counters.overruns ++ be16 x.counters.breaks ++ be16 x.counters.resends ++ be16 x.counters.strayAcks
        ++ be16 x.counters.lateAcks ++ be16 x.counters.refused⟩
      (b = 0#8 → exec (.readLine r) s = .next t)
      ∧ (b = 1#8 → exec (.readLine r) s = .next (t.setLine l { x with counters := ⟨0, 0, 0, 0, 0, 0, 0, 0, 0, 0⟩ })))
  ∧ ((∀ (s : State) (r : Req) (n : Fin 4) (a : Byte), s.takes .pauseInbound r n → r.operands = [a] →
    (8 ≤ a.toNat → exec (.pauseInbound r) s = .next (s.turnedAway .pauseInbound r n .badOperand))
    ∧ ∀ l : Fin 8, a.toNat = l.val →
      ((s.line l).state = .closed → exec (.pauseInbound r) s = .next (s.turnedAway .pauseInbound r n .wrongState))
      ∧ ((s.line l).state ≠ .closed → exec (.pauseInbound r) s
          = .next ((s.answered .pauseInbound r n ⟨.ok, []⟩).setLine l { s.line l with paused := true })))
  ∧ (∀ (s : State) (r : Req) (n : Fin 4) (a : Byte), s.takes .resumeInbound r n → r.operands = [a] →
    (8 ≤ a.toNat → exec (.resumeInbound r) s = .next (s.turnedAway .resumeInbound r n .badOperand))
    ∧ ∀ l : Fin 8, a.toNat = l.val →
      ((s.line l).state = .closed → exec (.resumeInbound r) s = .next (s.turnedAway .resumeInbound r n .wrongState))
      ∧ ((s.line l).state ≠ .closed → exec (.resumeInbound r) s
          = .next ((s.answered .resumeInbound r n ⟨.ok, []⟩).setLine l { s.line l with paused := false })))
  ∧ ∀ (s : State) (r : Req) (n : Fin 4) (a v : Byte), s.takes .setAux r n → r.operands = [a, v] →
    ((8 ≤ a.toNat ∨ 1 < v.toNat) → exec (.setAux r) s = .next (s.turnedAway .setAux r n .badOperand))
    ∧ ∀ l : Fin 8, a.toNat = l.val → v.toNat ≤ 1 → exec (.setAux r) s
        = .next ((s.answered .setAux r n ⟨.ok, [bitByte (s.line l).auxo]⟩).setLine l { s.line l with auxo := v == 1#8 }))
  ∧ [LineState.closed, .running, .held, .stalled, .draining].map LineState.code = [0, 1, 2, 3, 4]
  ∧ (∀ x : Line, (x.long = none → x.longCode = 0)
    ∧ ∀ g, x.long = some g → (g.kind = .closeDrain → x.longCode = 1) ∧ (g.kind = .closeAbort → x.longCode = 2)
      ∧ (g.kind = .flush → x.longCode = 3) ∧ (g.kind = .sendBreak → x.longCode = 4))
  ∧ (∀ stopped resend : Bool, flagByte [stopped, resend]
      = (if stopped then 1#8 else 0#8) + (if resend then 2#8 else 0#8))
  ∧ (∀ x : Line, (x.outQ = [] → x.room = 32 * x.resOut)
    ∧ ∀ q c, x.outQ = q ++ [c] → x.room = 32 * (x.resOut - x.outQ.length) + (32 - c.bytes.length))

/-- CLOSE LINE with the drain form, checked in order: operands, a CLOSED line, a long request in progress, a STALLED line,
none of which changes the line. A RUNNING or HELD line enters DRAINING, its HOLD markers are removed without an event and the
drain is its long request; when the four conditions of a complete drain already hold, its inbound data not in a frame is discarded and counted, and it is CLOSED
and answered in the same event, or waits for the end of an inbound frame that carries its cells. That a drain that waits seals no current inbound cell is the model's choice (log 34). -/
def Obligations.DrainsTaken : Prop :=
  ∀ (s : State) (r : Req) (n : Fin 4) (a b : Byte), s.takes .closeLine r n → r.operands = [a, b] →
    ((8 ≤ a.toNat ∨ 1 < b.toNat) → exec (.closeLineDrain r) s = .next (s.turnedAway .closeLine r n .badOperand))
    ∧ ∀ l : Fin 8, a.toNat = l.val → b = 0#8 →
      let x := s.line l
      (x.state = .closed → exec (.closeLineDrain r) s = .next (s.turnedAway .closeLine r n .wrongState))
      ∧ (x.state ≠ .closed → x.long ≠ none → exec (.closeLineDrain r) s = .next (s.turnedAway .closeLine r n .lineBusy))
      ∧ (x.state = .stalled → x.long = none → exec (.closeLineDrain r) s = .next (s.turnedAway .closeLine r n .drainFailed))
      ∧ ((x.state = .running ∨ x.state = .held) → x.long = none →
        let done := x.S = x.Rt ∧ x.openBlock = none ∧ x.endWaiting = false ∧ x.blocks = [] ∧ (x.tx = .idle ∨ x.tx = .gap)
        let m := x.markers.filter (fun m => m.kind != .hold)
        (¬ done → exec (.closeLineDrain r) s = .next ((s.inSlot .closeLine r n).setLine l
          (Line.standing (s.prof l)
            { x with state := .draining, markers := m, long := some ⟨.closeDrain, some n, false, 0, 0⟩ })))
        ∧ (done → (∀ c ∈ x.inQ, c.inFrame = false) → exec (.closeLineDrain r) s
          = .next { (s.answered .closeLine r n ⟨.ok, be16 x.discardableBytes ++ be16 0⟩).setLine l x.closedFrom with
              pool := { s.pool with
                free := s.pool.free + (x.outQ.length + x.inQ.length)
                unreserved := s.pool.unreserved + (x.resOut + x.resIn) } })
        ∧ (done → (∃ c ∈ x.inQ, c.inFrame = true) →
          let g : LongReq := ⟨.closeDrain, some n, false, 0, 0⟩
          ∃ y, Line.drainTakenTo (s.prof l) g
              (Line.standing (s.prof l) { x with state := .draining, markers := m, long := some g }) y
            ∧ exec (.closeLineDrain r) s = .next { (s.inSlot .closeLine r n).setLine l y with
                pool := { s.pool with free := s.pool.free + (x.inQ.length - y.inQ.length) } }))

/-- A drain completes at the row of its completion when its four conditions hold: its inbound data not in a frame is
discarded and counted, and the line enters CLOSED, answered OK with the two counts, at once when no inbound frame carries
its cells, at the end of that frame otherwise. An abort completes when the transmitter is free and no inbound frame carries
its cells. Where PART RESET is in progress and every other line is CLOSED, it completes in the same event. (In the model these
conditions are met within the event that makes them hold, log 1; the rows do the same.) -/
def Obligations.ClosesComplete : Prop :=
  ∀ (s : State) (l : Fin 8) (g : LongReq), (s.line l).state = .draining → (s.line l).long = some g →
    (g.kind = .closeDrain → g.completing = false → (s.line l).S = (s.line l).Rt → (s.line l).openBlock = none →
      (s.line l).endWaiting = false → (s.line l).blocks = [] → ((s.line l).tx = .idle ∨ (s.line l).tx = .gap) →
      ∃ t, exec (.drainComplete l) s = .next t ∧ s.drainCompletes l g (s.line l) t)
    ∧ (g.kind = .closeDrain → g.completing = true → (∀ c ∈ (s.line l).inQ, c.inFrame = false) →
      ∃ t, exec (.entryToClosed l) s = .next t ∧ (s.closedBy l g g.inBytes g.outBytes).thenCompletesReset t)
    ∧ (g.kind = .closeAbort → (s.line l).inCharacter = false → (s.line l).tx ≠ .brk →
      (∀ c ∈ (s.line l).inQ, c.inFrame = false) →
      ∃ t, exec (.abortComplete l) s = .next t ∧ exec (.entryToClosed l) s = .next t
        ∧ (s.closedBy l g g.inBytes g.outBytes).thenCompletesReset t)
    ∧ ((s.closedBy l g g.inBytes g.outBytes).line l = (s.line l).closedFrom
      ∧ ∀ n, g.slot = some n → (s.closedBy l g g.inBytes g.outBytes).reqs
          = s.reqs.complete n ⟨.ok, be16 g.inBytes ++ be16 g.outBytes⟩)

/-- CLOSE LINE with the abort form: a CLOSED line is refused with WRONG-STATE, a line with an abort, a FLUSH or a drain already
complete with LINE-BUSY; a drain not yet complete or a break is answered ABORTED first. Both queues are discarded and counted,
every block, marker, timer and pending event record of the line goes, and with no character in the shift register and no
inbound frame carrying its cells the line is CLOSED and answered in the same event; otherwise it is DRAINING under the abort.
On a line that waits, that a transmitter in GAP stays there with its timer stopped (log 17), that the retry count and the stopped flag
stay until the entry to CLOSED (log 29), and that an inbound-pacing code that is due is never sent and changes no record (log 31), is
the model's reading. -/
def Obligations.AbortsTaken : Prop :=
  ∀ (s : State) (r : Req) (n : Fin 4) (a b : Byte), s.takes .closeLine r n → r.operands = [a, b] →
    ((8 ≤ a.toNat ∨ 1 < b.toNat) → exec (.closeLineAbort r) s = .next (s.turnedAway .closeLine r n .badOperand))
    ∧ ∀ l : Fin 8, a.toNat = l.val → b = 1#8 →
      let x := s.line l
      let nIn := x.discardableBytes
      let nOut := (x.S - x.Rt).toNat
      (x.state = .closed → exec (.closeLineAbort r) s = .next (s.turnedAway .closeLine r n .wrongState))
      ∧ (x.state ≠ .closed → ∀ g, x.long = some g →
        (g.kind = .closeAbort ∨ g.kind = .flush ∨ (g.kind = .closeDrain ∧ g.completing = true)) →
        exec (.closeLineAbort r) s = .next (s.turnedAway .closeLine r n .lineBusy))
      ∧ (x.state ≠ .closed →
        (∀ g, x.long = some g → g.kind = .sendBreak ∨ (g.kind = .closeDrain ∧ g.completing = false)) →
        ∃ t, exec (.closeLineAbort r) s = .next t
          ∧ (let reqs := match x.long with
              | some g => (s.inSlot .closeLine r n).reqs.answerLong g ⟨.aborted, []⟩
              | none => (s.inSlot .closeLine r n).reqs
            (x.inCharacter = false → (∀ c ∈ x.inQ, c.inFrame = false) →
              t.line l = x.closedFrom ∧ t.reqs = reqs.complete n ⟨.ok, be16 nIn ++ be16 nOut⟩
              ∧ t.pool.free = s.pool.free + (x.outQ.length + x.inQ.length)
              ∧ t.pool.unreserved = s.pool.unreserved + (x.resOut + x.resIn))
            ∧ ((x.inCharacter = true ∨ ∃ c ∈ x.inQ, c.inFrame = true) →
              x.abortTaken (s.prof l) (some n) (t.line l) ∧ (t.line l).tx ≠ .brk ∧ (t.line l).inCharacter = x.inCharacter
              ∧ t.reqs = reqs ∧ t.pool.free + (t.line l).inQ.length = s.pool.free + (x.outQ.length + x.inQ.length)
              ∧ t.pool.unreserved = s.pool.unreserved))
          ∧ (∀ c src, t.events.place c src = if src = l.castSucc then none else s.events.place c src)
          ∧ t.events = { s.events with pending := t.events.pending }
          ∧ t.pool = { s.pool with free := t.pool.free, unreserved := t.pool.unreserved }
          ∧ t = { s.heard r.seq with lines := t.lines, pool := t.pool, events := t.events, reqs := t.reqs }
          ∧ ∀ k, k ≠ l → t.line k = s.line k)

/-- FLUSH: operands, a CLOSED or DRAINING line and a long request in progress are refused in this order. Outbound selected
discards every stored byte, block and marker and returns the line to RUNNING; inbound selected discards every inbound cell not
in a frame; a direction not selected is untouched. The bytes given up may make a grant due; the inbound cells discarded have the
marks applied, and last sent and RDYOn follow wanted as the inbound pacing has it. It completes at once with no character in the shift register, else it is
the line's long request until FLUSH_COMPLETE finds none; its answer carries the two counts, of the inbound bytes those in cells not
in a frame. -/
def Obligations.FlushesTaken : Prop :=
  (∀ (s : State) (r : Req) (n : Fin 4) (a sel : Byte), s.takes .flush r n → r.operands = [a, sel] →
    ((8 ≤ a.toNat ∨ sel = 0#8 ∨ 3 < sel.toNat) → exec (.flush r) s = .next (s.turnedAway .flush r n .badOperand))
    ∧ ∀ l : Fin 8, a.toNat = l.val → 1 ≤ sel.toNat → sel.toNat ≤ 3 →
      let x := s.line l
      let nIn := if sel = 1#8 then 0 else x.discardableBytes
      let nOut := if sel = 2#8 then 0 else (x.S - x.Rt).toNat
      ((x.state = .closed ∨ x.state = .draining) → exec (.flush r) s = .next (s.turnedAway .flush r n .wrongState))
      ∧ (x.isOpen → x.long ≠ none → exec (.flush r) s = .next (s.turnedAway .flush r n .lineBusy))
      ∧ (x.isOpen → x.long = none →
        let p := s.prof l
        let y : Line := if sel = 2#8 then x else { x with
          T := x.S, Rt := x.S, outQ := [], blocks := [], openBlock := none, endWaiting := false, resend := false, retry := 0
          ackTimer := .stopped, lingerTimer := .stopped, stopped := false, markers := [], tx := x.tx.abandon, state := .running }
        ∃ z, z = { y with
            inQ := if sel = 1#8 then x.inQ else x.inQ.filter (fun c => c.inFrame)
            long := some ⟨.flush, some n, false, nIn, nOut⟩
            grantDue := z.grantDue, idleTimer := z.idleTimer, wanted := z.wanted, lastSent := z.lastSent, rdyo := z.rdyo }
          ∧ (sel ≠ 2#8 → (z.grantDue = true ↔ x.grantDue = true ∨ x.becomesDue p z)
            ∧ (z.standing p).lingerTimer = .stopped ∧ (z.standing p).pauseTimer = .stopped ∧ (z.standing p).pause = .none)
          ∧ (sel = 2#8 → z.grantDue = x.grantDue) ∧ (sel = 1#8 → z.idleTimer = x.idleTimer)
          ∧ (sel ≠ 1#8 → (∀ c ∈ z.inQ, c.isSealed = true) → z.idleTimer = .stopped)
          ∧ x.marksApplied p z ∧ x.pacesPeripheral p z ∧ (z.standing p).endWaiting = y.endWaiting
          ∧ z.inCharacter = x.inCharacter
          ∧ (let pool := { s.pool with
              free := s.pool.free + ((x.outQ.length - z.outQ.length) + (x.inQ.length - z.inQ.length)) }
            (x.inCharacter = true →
              exec (.flush r) s = .next { (s.inSlot .flush r n).setLine l (z.standing p) with pool := pool })
            ∧ (x.inCharacter = false → exec (.flush r) s
              = .next { (s.answered .flush r n ⟨.ok, be16 nIn ++ be16 nOut⟩).setLine l { z.standing p with long := none } with
                  pool := pool }))))
  ∧ (∀ x : Line, x.discardableBytes = ((x.inQ.filter (fun c => !c.inFrame)).map (fun c => c.bytes.length)).sum)
  ∧ ∀ (s : State) (l : Fin 8) (g : LongReq), (s.line l).long = some g → g.kind = .flush → (s.line l).inCharacter = false →
    exec (.flushComplete l) s = .next { s.setLine l { s.line l with long := none } with
      reqs := s.reqs.answerLong g ⟨.ok, be16 g.inBytes ++ be16 g.outBytes⟩ }

/-- RESUME: WRONG-STATE in CLOSED, RUNNING and DRAINING. In HELD the oldest HOLD marker is removed and the line is RUNNING. In
STALLED the retry count is 0, the line is RUNNING, and a resend begins: T returns to Rt, the sent flags are cleared, the open
block and an end waiting go, the ack timer stops, and the resends counter rises. DISCARD BLOCKS: WRONG-STATE outside STALLED. In STALLED every outstanding block is given up: Rt moves to the newest end, the
cells it covers are freed, MARK markers below it go without an event, the list is empty, the retry count is 0, the ack timer
stops, T stays, an end waiting with no block open is cleared, the cells freed may make a grant due, and the line is HELD if a
barrier is reached, RUNNING if not. -/
def Obligations.BlockedLinesReleased : Prop :=
  (∀ (s : State) (r : Req) (n : Fin 4) (a : Byte), s.takes .resume r n → r.operands = [a] →
    (8 ≤ a.toNat → exec (.resume r) s = .next (s.turnedAway .resume r n .badOperand))
    ∧ ∀ l : Fin 8, a.toNat = l.val →
      let x := s.line l
      ((x.state = .closed ∨ x.state = .running ∨ x.state = .draining) →
        exec (.resume r) s = .next (s.turnedAway .resume r n .wrongState))
      ∧ (x.state = .held → x.flushDone = false →
        exec (.resume r) s = .next ((s.answered .resume r n ⟨.ok, []⟩).setLine l
          (Line.standing (s.prof l)
            { x with state := .running, markers := x.markers.eraseP (fun m => m.kind == .hold) })))
      ∧ (x.state = .stalled → x.flushDone = false →
        exec (.resume r) s = .next ((s.answered .resume r n ⟨.ok, []⟩).setLine l
          (Line.standing (s.prof l)
            { x with
              state := .running
              retry := 0
              resend := true
              blocks := x.blocks.map (fun b => { b with sent := false })
              T := x.Rt
              openBlock := none
              endWaiting := false
              ackTimer := .stopped
              lingerTimer := .stopped
              tx := x.tx.abandon
              counters := { x.counters with resends := min 65535 (x.counters.resends + 1) } }))))
  ∧ (∀ (s : State) (r : Req) (n : Fin 4) (a : Byte), s.takes .discardBlocks r n → r.operands = [a] →
    (8 ≤ a.toNat → exec (.discardBlocks r) s = .next (s.turnedAway .discardBlocks r n .badOperand))
    ∧ ∀ l : Fin 8, a.toNat = l.val →
      let x := s.line l
      (x.state ≠ .stalled → exec (.discardBlocks r) s = .next (s.turnedAway .discardBlocks r n .wrongState))
      ∧ (x.state = .stalled → x.flushDone = false → ∀ e, x.blocks.getLast? = some e →
        ∃ z, z = { x with
            Rt := e.fin
            outQ := x.outQ.dropWhile (OutCell.covered e.fin)
            markers := x.markers.filter (fun m => !(m.kind == .mark && posLt m.pos e.fin))
            blocks := [], retry := 0, resend := false, ackTimer := .stopped
            endWaiting := x.endWaiting && x.openBlock.isSome
            state := if x.barrierReached then .held else .running
            grantDue := z.grantDue }
          ∧ (z.grantDue = true ↔ x.grantDue = true ∨ x.becomesDue (s.prof l) z)
          ∧ exec (.discardBlocks r) s = .next { (s.answered .discardBlocks r n ⟨.ok, []⟩).setLine l (z.standing (s.prof l)) with
              pool := { s.pool with free := s.pool.free + (x.outQ.length - z.outQ.length) } }))
  ∧ ∀ x : Line, x.barrierReached = true ↔ ∃ m, x.barrier = some m ∧ m.reached = true

/-- SEND BREAK: a CLOSED line and a long request in progress are refused. The break begins at once with no character in the
shift register, else it is pending until the character's completion; in BREAK TXDn is at space and the break timer runs with the break time.
At its expiry the transmitter enters GAP, or IDLE when the gap is 0, where TXDn is at mark, and the request is answered OK. -/
def Obligations.BreaksSent : Prop :=
  (∀ (s : State) (r : Req) (n : Fin 4) (a : Byte), s.takes .sendBreak r n → r.operands = [a] →
    (8 ≤ a.toNat → exec (.sendBreak r) s = .next (s.turnedAway .sendBreak r n .badOperand))
    ∧ ∀ l : Fin 8, a.toNat = l.val →
      let x := s.line l
      (x.state = .closed → exec (.sendBreak r) s = .next (s.turnedAway .sendBreak r n .wrongState))
      ∧ (x.state ≠ .closed → x.long ≠ none → exec (.sendBreak r) s = .next (s.turnedAway .sendBreak r n .lineBusy))
      ∧ (x.isOpen → x.long = none → x.inCharacter = true →
        exec (.sendBreak r) s = .next ((s.inSlot .sendBreak r n).setLine l
          { x with long := some ⟨.sendBreak, some n, false, 0, 0⟩, brk := .pending }))
      ∧ (x.isOpen → x.long = none → x.inCharacter = false →
        exec (.sendBreak r) s = .next ((s.inSlot .sendBreak r n).setLine l
          (Line.standing (s.prof l)
            { x with
              long := some ⟨.sendBreak, some n, false, 0, 0⟩
              brk := .inProgress
              tx := .brk
              gapTimer := .stopped
              breakTimer := .running (s.prof l).breakTime }))))
  ∧ (∀ (s : State) (l : Fin 8), (s.line l).isOpen → (s.line l).brk = .pending → (s.line l).inCharacter = false →
      (s.line l).flushDone = false →
      exec (.breakBegin l) s = .next (s.setLine l (Line.standing (s.prof l)
        { s.line l with
          brk := .inProgress, tx := .brk, gapTimer := .stopped, breakTimer := .running (s.prof l).breakTime })))
  ∧ (∀ (s : State) (l : Fin 8) (g : LongReq), (s.line l).isOpen → (s.line l).brk = .inProgress →
    (s.line l).breakTimer ≠ .stopped → (s.line l).long = some g → g.kind = .sendBreak →
    let x := s.line l
    exec (.breakTimerExpiry l) s = .next { s.setLine l (Line.standing (s.prof l)
        { x with
          long := none
          brk := .none
          breakTimer := .stopped
          tx := if (s.prof l).gap = 0 then .idle else .gap
          gapTimer := if (s.prof l).gap = 0 then x.gapTimer else .running (s.prof l).gap }) with
      reqs := s.reqs.answerLong g ⟨.ok, []⟩ })
  ∧ ∀ x : Line, (x.tx = .brk → x.txd = [.space]) ∧ ((x.tx = .idle ∨ x.tx = .gap) → x.txd = [.mark])
    ∧ (x.inCharacter = true ↔ ∃ ch, x.tx = .character ch)

/-- PART RESET: an operand other than 0 or 1 is refused with BAD-OPERAND and changes nothing. Otherwise every other request in
progress, but for a drain already complete, is answered ABORTED in the order of admission, the refusal list is emptied and the
dropped-request count is 0; that an entry whose frame is on TTX stays listed until that frame's end is the model's reading (log 15).
A line that is not CLOSED is aborted: CLOSED with no character in its shift register and no inbound frame carrying its cells,
DRAINING under an abort that sends no answer (log 19) until then. A line whose abort is in progress goes on with it, with no further
answer, and a line whose drain is complete is left alone. When every line is CLOSED then, PART RESET completes in the same event;
while one is not, it holds its slot, in progress.
On a line that waits, that a transmitter in GAP stays there with its timer stopped (log 17), that the retry count and the stopped flag
stay until the entry to CLOSED (log 29), and that an inbound-pacing code that is due is never sent and changes no record (log 31), is
the model's reading, as for an abort. -/
def Obligations.PartResetTaken : Prop :=
  (∀ (s : State) (r : Req) (n : Fin 4) (b : Byte), s.takes .partReset r n → r.operands = [b] →
    (1 < b.toNat → exec (.partReset r) s = .next (s.turnedAway .partReset r n .badOperand))
    ∧ (b.toNat ≤ 1 →
      let overtaken := fun (k : Slot) => k.phase == .inProgress && !s.slotOfTakenDrain k.num
      let slots := s.reqs.slots.map (fun k =>
        if s.reqs.slots.any (fun j => j.num == k.num && overtaken j) then { k with phase := .completed ⟨.aborted, []⟩ } else k)
      let order := s.reqs.order.filter (fun i => i != .refusal) ++ (s.reqs.slots.filter overtaken).map (fun k => .slot k.num)
      let aborts := fun (x : Line) => x.state ≠ .closed ∧ x.drainTaken = false ∧ x.underAbort = false
      let waits := fun (x : Line) => x.inCharacter = true ∨ ∃ c ∈ x.inQ, c.inFrame = true
      let closes := fun (x : Line) => x.state = .closed ∨ (aborts x ∧ ¬ waits x)
      ∃ t, exec (.partReset r) s = .next t
        ∧ (∀ f, s.trunk.tx = some f → f.carries = .refusal → t.reqs.refusals = s.reqs.refusals.take 1)
        ∧ ((∀ f, s.trunk.tx = some f → f.carries ≠ .refusal) → t.reqs.refusals = [])
        ∧ t.reqs.dropped = 0
        ∧ t.pool.free + t.sumLines (fun x => x.outQ.length + x.inQ.length)
            = s.pool.free + s.sumLines (fun x => x.outQ.length + x.inQ.length)
        ∧ t.pool.unreserved + t.sumLines (fun x => x.resOut + x.resIn)
            = s.pool.unreserved + s.sumLines (fun x => x.resOut + x.resIn)
        ∧ ((∀ l, closes (s.line l)) →
          t.reqs.slots = slots ++ [slotFor .partReset r n (.completed ⟨.ok, []⟩)] ∧ t.reqs.order = order ++ [.slot n]
          ∧ t.reqs.partReset = none ∧ t.events = EventUnit.powerOn
          ∧ t.trunk = { (s.heard r.seq).trunk with counters := ⟨0, 0, 0, 0, 0, 0, 0⟩ }
          ∧ t.pool.refresh = 0 ∧ t.pool.refreshTimer = .stopped
          ∧ (b = 1#8 → (∀ i : Fin 8, t.profiles[i] = Profile.default) ∧ ∀ i : Fin 16, t.patterns[i] = Pattern.cleared)
          ∧ (b = 0#8 → t.profiles = s.profiles ∧ t.patterns = s.patterns)
          ∧ ∀ l, t.line l = { if (s.line l).state = .closed then s.line l else (s.line l).closedFrom with
              counters := ⟨0, 0, 0, 0, 0, 0, 0, 0, 0, 0⟩
              auxo := false
              binding := if b = 1#8 then 0 else (s.line l).binding })
        ∧ ((∃ l, ¬ closes (s.line l)) →
          t.reqs.slots = slots ++ [slotFor .partReset r n .inProgress] ∧ t.reqs.order = order
          ∧ t.reqs.partReset = some ⟨some n, b == 1#8⟩
          ∧ t.events = { s.events with pending := t.events.pending } ∧ (∀ c, t.events.place c 8 = s.events.place c 8)
          ∧ (∀ c l, (aborts (s.line l) → t.events.place c l.castSucc = none)
              ∧ (¬ aborts (s.line l) → t.events.place c l.castSucc = s.events.place c l.castSucc))
          ∧ t.trunk = (s.heard r.seq).trunk ∧ t.profiles = s.profiles ∧ t.patterns = s.patterns
          ∧ t.pool.refresh = s.pool.refresh ∧ t.pool.refreshTimer = s.pool.refreshTimer
          ∧ ∀ l, let x := s.line l
            ((x.state = .closed ∨ x.drainTaken = true) → t.line l = x)
            ∧ (x.state ≠ .closed → x.drainTaken = false → x.underAbort = true →
                t.line l = { x with long := x.long.map (fun g => { g with slot := none }) })
            ∧ (aborts x → ¬ waits x → t.line l = x.closedFrom)
            ∧ (aborts x → waits x → x.abortTaken (s.prof l) none (t.line l) ∧ (t.line l).inCharacter = x.inCharacter))))
  ∧ (∀ (s : State) (m : Fin 4), s.slotOfTakenDrain m = true
      ↔ ∃ l g, (s.line l).long = some g ∧ g.kind = .closeDrain ∧ g.completing = true ∧ g.slot = some m)
  ∧ ∀ x : Line, (x.drainTaken = true ↔ ∃ g, x.long = some g ∧ g.kind = .closeDrain ∧ g.completing = true)
    ∧ (x.underAbort = true ↔ x.state = .draining ∧ ∃ g, x.long = some g ∧ g.kind = .closeAbort)

/-- The completion of PART RESET, once every line is CLOSED: every counter is 0, AUXOn is low, the Event Unit is at its
power-on values, the grant refresh is off, under clear the profiles, bindings and patterns are at theirs, and its response, OK,
joins the tail of the response order unless a link restart has taken its slot. With none in progress, or a line not CLOSED, the
command changes nothing, which is the model's choice (log 2). -/
def Obligations.PartResetCompletes : Prop :=
  (∀ (s : State) (p : PartReset), s.reqs.partReset = some p → (∀ l, (s.line l).state = .closed) →
    ∃ t, exec .partResetComplete s = .next t ∧ s.resetCompleted p t)
  ∧ (∀ s : State, (s.reqs.partReset = none ∨ ∃ k, (s.line k).state ≠ .closed) → exec .partResetComplete s = .next s)
  ∧ (∀ (p : PartReset) (s t : State), s.resetCompleted p t ↔
      t.reqs = (let q := { s.reqs with dropped := 0, partReset := none }
          match p.slot with
          | some n => q.complete n ⟨.ok, []⟩
          | none => q)
      ∧ t.events = EventUnit.powerOn ∧ t.trunk = { s.trunk with counters := ⟨0, 0, 0, 0, 0, 0, 0⟩ }
      ∧ t.pool = { s.pool with refresh := 0, refreshTimer := .stopped } ∧ t.pending = s.pending
      ∧ (p.clear = true → (∀ i : Fin 8, t.profiles[i] = Profile.default) ∧ ∀ i : Fin 16, t.patterns[i] = Pattern.cleared)
      ∧ (p.clear = false → t.profiles = s.profiles ∧ t.patterns = s.patterns)
      ∧ ∀ l, t.line l = { s.line l with
          counters := ⟨0, 0, 0, 0, 0, 0, 0, 0, 0, 0⟩, auxo := false, binding := if p.clear then 0 else (s.line l).binding })
  ∧ ∀ (q : RequestUnit) (n : Fin 4) (reply : Reply), q.complete n reply = { q with
      slots := q.slots.map (fun k => if k.num = n then { k with phase := .completed reply } else k)
      order := q.order ++ [.slot n] }

/-! ## What follows within an event -/

/-- What follows within an event, by the state of the line. On an open line with no FLUSH ready to complete it is the standing
updates alone, and so it is on a line DRAINING under a drain not yet complete; they change an end waiting, the linger timer and
the pause episode. A FLUSH, a drain or a close with nothing left to wait for completes; that it does so within the event that
ends the wait is the model's reading (log 1). With the entry of the last open line to CLOSED a PART RESET in progress completes. The linger timer runs from when a block is open, no end is waiting and T equals S,
and stops when one of these ceases; a pause episode begins when the gates are closed while work waits and ends when they open or
nothing waits. Work waits in RUNNING, HELD or under a drain when an end is waiting, or when the byte at T is held by nothing but the
gates or a break; a gate that applies is open when the stopped flag is clear, RDYIn asserted, the condition READY. That a block whose end has been started counts as open no more, for the linger timer and for the end a drain
makes waiting, is the model's reading (log 13); it comes of an end that waits no more from its start on, which is the model's
choice (log 32). -/
def Obligations.StandingUpdates : Prop :=
  (∀ (s : State) (l : Fin 8), s.thenSettles l (s.settle l))
  ∧ ∀ (p : Profile) (x : Line),
    let y := x.standing p
    (∃ e t q u, y = { x with endWaiting := e, lingerTimer := t, pause := q, pauseTimer := u })
    ∧ (y.endWaiting = true ↔ x.endWaiting = true
        ∨ (x.underDrain = true ∧ x.T = x.S ∧ ∃ b, x.openBlock = some b ∧ b.ended = false))
    ∧ ((p.blockLinger = 0 ∨ y.endWaiting = true ∨ y.T ≠ y.S ∨ (∀ b, y.openBlock = some b → b.ended = true)) →
        y.lingerTimer = .stopped)
    ∧ (p.blockLinger ≠ 0 → y.endWaiting = false → y.T = y.S → (∃ b, y.openBlock = some b ∧ b.ended = false) →
        y.lingerTimer = if x.lingerTimer = .stopped then .running p.blockLinger else x.lingerTimer)
    ∧ ((y.workWaits p = false ∨ y.gatesOpen p = true) → y.pause = .none ∧ y.pauseTimer = .stopped)
    ∧ (y.workWaits p = true → y.gatesOpen p = false →
        (x.pause = .none → p.pauseTimeout ≠ 0 → y.pause = .running ∧ y.pauseTimer = .running p.pauseTimeout)
        ∧ ((x.pause ≠ .none ∨ p.pauseTimeout = 0) → y.pause = x.pause ∧ y.pauseTimer = x.pauseTimer))
    ∧ (x.workWaits p = true ↔ (x.state = .running ∨ x.state = .held ∨ x.underDrain = true)
      ∧ (x.endWaiting = true ∨ (posLt x.T x.S = true ∧ x.barrierAllows = true ∧ (p.outPacing = .block →
          (∃ e, x.entryAt x.T = some e ∧ e.sent = false) ∨ x.openBlock ≠ none ∨ x.blocks.length < p.window))))
    ∧ (x.gatesOpen p = true ↔ (p.outPacing = .code → x.stopped = false) ∧ (p.readyGate = true → x.rdyi = true)
        ∧ (p.decoding = true → x.cond = .ready))
    ∧ (x.underDrain = true ↔ x.state = .draining ∧ ∃ g, x.long = some g ∧ g.kind = .closeDrain ∧ g.completing = false)
    ∧ (x.drainDone = true ↔ x.S = x.Rt ∧ x.openBlock = none ∧ x.endWaiting = false ∧ x.blocks = []
        ∧ (x.tx = .idle ∨ x.tx = .gap))
    ∧ (x.flushDone = true ↔ (∃ g, x.long = some g ∧ g.kind = .flush) ∧ ∀ ch, x.tx ≠ .character ch)

/-! ## The transmitter -/

/-- The choice takes an inbound-pacing code first: due whenever wanted differs from last sent under inbound CODE pacing, in
every state but CLOSED, an abort and a drain already complete, whatever the peripheral gates; last sent takes the wanted state.
While a break is pending or in progress, under an abort, after a drain's completion is taken and in CLOSED nothing goes, code, end or
data, and there is only what follows within the event (log 1). A transmitter that is not IDLE makes no choice. The completion of an inbound-pacing code counts it and retires nothing; a pending break then begins in place of the gap,
else the transmitter enters GAP with the gap timer, or IDLE when the gap is 0. -/
def Obligations.PacingCodesSent : Prop :=
  (∀ (s : State) (l : Fin 8),
    let x := s.line l
    let p := s.prof l
    (x.tx ≠ .idle → exec (.transmitterChoice l) s = .next s)
    ∧ (x.tx = .idle → p.inPacing = .code → x.wanted ≠ x.lastSent → x.brk = .none → (x.isOpen ∨ x.underDrain = true) →
      let b := if x.wanted = .stop then p.stopCode else p.goCode
      exec (.transmitterChoice l) s = .next (s.setLine l (Line.standing p
        { x with tx := .character ⟨.pacingCode, b, .noEnd, frameChar p b⟩, lastSent := x.wanted })))
    ∧ (x.tx = .idle → p.inPacing = .code → x.wanted ≠ x.lastSent →
      (x.brk ≠ .none ∨ x.state = .closed ∨ (x.state = .draining ∧ x.underDrain = false)) →
      exec (.transmitterChoice l) s = .next (s.settle l)))
  ∧ (∀ (s : State) (l : Fin 8) (ch : ShiftChar), (s.line l).tx = .character ch → ch.kind = .pacingCode →
    let x := s.line l
    let p := s.prof l
    let y := { x with counters := { x.counters with sent := min 65535 (x.counters.sent + 1) } }
    exec (.characterCompletion l) s = .next ((s.setLine l
      (if x.brk = .pending then
        { y with tx := .brk, brk := .inProgress, gapTimer := .stopped, breakTimer := .running p.breakTime }
      else if p.gap = 0 then { y with tx := .idle }
      else { y with tx := .gap, gapTimer := .running p.gap })).settle l))

/-- With no code due, an end that is waiting goes next, ahead of data, when the gates are open, no break is pending and the
line is RUNNING, HELD or DRAINING under a drain: it ends the open block, or is the re-sent end of the entry that ends at T. That
it waits no more from its start on is the model's choice (log 32). The framing of a byte: its data bits least significant first,
the parity bit that the parity calls for, and the stop bits; the levels on TXDn, by half bit periods, are a start bit at space,
then the bits with 1 at mark, then the stop bits at mark; in BREAK TXDn is at space, in IDLE and GAP at mark. A trunk character is a
start bit, eight data bits, least significant first, no parity bit and one stop bit; TTX is at mark when no frame is being sent and has
the frame's characters when one is. That the list of levels has these one after another, with no place for idle time between them, is
the model's choice (log 4). A trunk character sampled in the middle of its bits is its byte, one whose stop bit samples at space is none, and one
whose start bit samples at mark is no character. -/
def Obligations.InsertedEndsAndFraming : Prop :=
  (∀ (s : State) (l : Fin 8),
    let x := s.line l
    let p := s.prof l
    x.tx = .idle → (p.inPacing ≠ .code ∨ x.wanted = x.lastSent) → x.brk = .none →
    (x.state = .running ∨ x.state = .held ∨ x.underDrain = true) → x.endWaiting = true → x.gatesOpen p = true →
    (∀ b, x.openBlock = some b → exec (.transmitterChoice l) s = .next (s.setLine l (Line.standing p
      { x with
        tx := .character ⟨.insertedEnd, p.blockEnd, .openEnd, frameChar p p.blockEnd⟩
        endWaiting := false
        openBlock := some { b with ended := true } })))
    ∧ (x.openBlock = none → exec (.transmitterChoice l) s = .next (s.setLine l (Line.standing p
      { x with tx := .character ⟨.insertedEnd, p.blockEnd, .entryEnd x.T, frameChar p p.blockEnd⟩, endWaiting := false }))))
  ∧ (∀ (p : Profile) (b : Byte),
    (frameChar p b).dataBits = dataBitList p.dataBits b
    ∧ (frameChar p b).parityBit = parityBitOf p.parity (dataBitList p.dataBits b)
    ∧ (frameChar p b).dataBits.length = p.dataBits ∧ (frameChar p b).stopBits = p.stopBits
    ∧ (∀ i, i < p.dataBits → (frameChar p b).dataBits[i]? = some (b.getLsbD i))
    ∧ (p.parity = .none → (frameChar p b).parityBit = none)
    ∧ (p.parity = .mark → (frameChar p b).parityBit = some true) ∧ (p.parity = .space → (frameChar p b).parityBit = some false)
    ∧ (p.parity = .even → (frameChar p b).parityBit = some (((frameChar p b).dataBits.count true) % 2 == 1))
    ∧ (p.parity = .odd → (frameChar p b).parityBit = some (((frameChar p b).dataBits.count true) % 2 == 0)))
  ∧ (∀ f : CharFrame, f.levels = [.space, .space]
      ++ (f.dataBits ++ f.parityBit.toList).flatMap (fun b => if b then [.mark, .mark] else [.space, .space])
      ++ List.replicate (match f.stopBits with | .one => 2 | .oneAndHalf => 3 | .two => 4) .mark)
  ∧ (∀ x : Line, (∀ ch, x.tx = .character ch → x.txd = ch.frame.levels) ∧ (x.tx = .brk → x.txd = [.space])
    ∧ ((x.tx = .idle ∨ x.tx = .gap) → x.txd = [.mark]))
  ∧ (∀ b : Byte, (trunkChar b).dataBits = (List.range 8).map (fun i => b.getLsbD i) ∧ (trunkChar b).parityBit = none
    ∧ (trunkChar b).stopBits = .one)
  ∧ (∀ t : Trunk, (t.tx = none → t.ttx = [.mark])
    ∧ ∀ f, t.tx = some f → t.ttx = (frameBytes f.kind.code f.channel f.seq f.payload).flatMap (fun b => (trunkChar b).levels))
  ∧ (∀ (b : Byte) (stop : Level) (bits : List Level),
    bits = (List.range 8).map (fun i => if b.getLsbD i then Level.mark else .space) →
    trunkCharOf (.space :: bits ++ [stop]) = some (if stop = .mark then .byte b else .spaceStop)
    ∧ trunkCharOf (.mark :: bits ++ [stop]) = none)

/-- With no code due and no end waiting, the data byte at T starts when T is below S, not beyond the barrier, the block rules
and the gates let it: T rises by one and the byte is framed. In NONE and CODE that is all. In BLOCK a byte inside an outstanding
entry is sent again, its entry's end after it or in it; any other opens a block or counts in the open one, and the block-end
code, the block limit or the barrier ends the block. With no code due, nothing starts where no end is waiting and T has reached S or
lies beyond the barrier, and nothing, end or data, where the gates are closed, a break is pending or in progress, or the line is
STALLED, CLOSED, or DRAINING with no drain in progress. The stop gate applies under CODE and is open when the stopped flag is clear,
the ready gate where the profile has it and is open when RDYIn is asserted, the condition gate under status decoding and is open at
READY. Where the cells cover Rt up to S, the byte at a position from Rt up to S is the one that stands there in the stored stream.
That a position is at or below another when the difference is below 2^31 is the model's reading (log 28). -/
def Obligations.DataBytesStart : Prop :=
  (∀ (s : State) (l : Fin 8) (b : Byte),
    let x := s.line l
    let p := s.prof l
    x.tx = .idle → (p.inPacing ≠ .code ∨ x.wanted = x.lastSent) → x.brk = .none →
    (x.state = .running ∨ x.state = .held ∨ x.underDrain = true) → x.endWaiting = false → x.gatesOpen p = true →
    posLt x.T x.S = true → x.barrierAllows = true → x.byteAt x.T = some b →
    let start := fun y => exec (.transmitterChoice l) s = .next (s.setLine l (Line.standing p y))
    (p.outPacing ≠ .block →
      start { x with tx := .character ⟨.data x.T, b, .noEnd, frameChar p b⟩, T := x.T + 1 })
    ∧ (p.outPacing = .block → ∀ e, x.entryAt x.T = some e → (e.sent = false ∨ x.openBlock ≠ none ∨ x.blocks.length < p.window) →
      start { x with
        tx := .character ⟨.data x.T, b, if x.T + 1 = e.fin ∧ e.kind = .inData then .entryEnd e.fin else .noEnd, frameChar p b⟩
        T := x.T + 1
        endWaiting := decide (x.T + 1 = e.fin ∧ e.kind = .inserted) })
    ∧ (p.outPacing = .block → x.entryAt x.T = none → (x.openBlock ≠ none ∨ x.blocks.length < p.window) →
      ∀ st n, (x.openBlock = none ∧ st = x.T ∧ n = 1 ∨ ∃ o, x.openBlock = some o ∧ st = o.start ∧ n = o.count + 1) →
      start { x with
        tx := .character ⟨.data x.T, b, if b = p.blockEnd then .openEnd else .noEnd, frameChar p b⟩
        T := x.T + 1
        openBlock := some ⟨st, n, decide (b = p.blockEnd)⟩
        endWaiting := decide (b ≠ p.blockEnd ∧ (p.blockLimit ≤ n ∨ ∃ m, x.barrier = some m ∧ m.pos = x.T)) })
    ∧ (p.outPacing = .block → x.openBlock = none → p.window ≤ x.blocks.length →
      (∀ e, x.entryAt x.T = some e → e.sent = true) → exec (.transmitterChoice l) s = .next (s.settle l)))
  ∧ (∀ (s : State) (l : Fin 8),
    let x := s.line l
    let p := s.prof l
    x.tx = .idle → (p.inPacing ≠ .code ∨ x.wanted = x.lastSent) →
    (x.endWaiting = false ∧ (posLt x.T x.S = false ∨ ∃ m, x.barrier = some m ∧ posLe x.T m.pos = false)
      ∨ x.gatesOpen p = false ∨ x.brk ≠ .none ∨ x.state = .stalled ∨ x.state = .closed
      ∨ (x.state = .draining ∧ x.underDrain = false)) →
    exec (.transmitterChoice l) s = .next (s.settle l))
  ∧ (∀ (p : Profile) (x : Line), x.gatesOpen p = true ↔ (p.outPacing = .code → x.stopped = false)
      ∧ (p.readyGate = true → x.rdyi = true) ∧ (p.decoding = true → x.cond = .ready))
  ∧ (∀ (x : Line) (q : Pos), x.queueCovers → x.off q < x.off x.S → ∃ c cs, x.outQ = c :: cs
      ∧ (q - c.first).toNat < (x.outQ.flatMap OutCell.bytes).length
      ∧ x.byteAt q = (x.outQ.flatMap OutCell.bytes)[(q - c.first).toNat]?)
  ∧ (∀ x : Line, x.barrier = x.markers.find? (fun m => m.kind == .hold)
    ∧ (x.barrierAllows = true ↔ ∀ m, x.barrier = some m → posLe x.T m.pos = true)
    ∧ ∀ q, x.entryAt q = x.blocks.find? (fun e => posLe e.start q && posLt q e.fin))
  ∧ ∀ a b : Pos, (posLe a b = true ↔ (b - a).toNat < 2 ^ 31) ∧ (posLt a b = true ↔ a ≠ b ∧ (b - a).toNat < 2 ^ 31)

/-- The completion of a data byte in NONE or CODE mode retires it when it lies at Rt: Rt rises by one, the cell it empties, whose
end is then at or below Rt, is freed, which may make a grant due, MARK markers below Rt are reached with their events, oldest first, and leave
the list, and a barrier at the byte is reached, the first time with a HOLD event and its marker's reached flag set; no other marker
changes. The character is counted, and the transmitter goes to BREAK when a break is pending,
else to GAP or IDLE. Nothing else of the line changes. This is so in every state of the line; what follows within the event, the completion of a FLUSH, of a drain or
of an abort among it, is that of the line's state (that it follows within this event: log 1). -/
def Obligations.BytesRetire : Prop :=
  (∀ (s : State) (l : Fin 8) (ch : ShiftChar) (pos : Pos), (s.line l).tx = .character ch → ch.kind = .data pos →
    (s.prof l).outPacing ≠ .block →
    let x := s.line l
    let p := s.prof l
    let gone := x.markers.filter (fun m => m.kind == .mark && posLt m.pos (pos + 1))
    let left := x.markers.filter (fun m => !(m.kind == .mark && posLt m.pos (pos + 1)))
    let marked := gone.foldl (fun e m => e.raise l.castSucc (.mark 1 m.tag m.accepted)) s.events
    ∃ z ev t, z = { x with
        counters := z.counters, tx := z.tx, brk := z.brk, gapTimer := z.gapTimer, breakTimer := z.breakTimer
        Rt := z.Rt, outQ := z.outQ, grantDue := z.grantDue, markers := z.markers, state := z.state }
      ∧ x.afterCompletion p z
      ∧ (pos ≠ x.Rt → z.Rt = x.Rt ∧ z.outQ = x.outQ ∧ z.grantDue = x.grantDue ∧ z.markers = x.markers ∧ z.state = x.state
          ∧ ev = s.events)
      ∧ (pos = x.Rt → z.Rt = pos + 1 ∧ z.outQ = x.outQ.dropWhile (OutCell.covered (pos + 1))
          ∧ (z.grantDue = true ↔ x.grantDue = true ∨ x.becomesDue p z)
          ∧ x.reachesBarrier pos l.castSucc left marked z ev)
      ∧ (let w := { s.setLine l z with
          events := ev, pool := { s.pool with free := s.pool.free + (x.outQ.length - z.outQ.length) } }
        exec (.characterCompletion l) s = .next t ∧ State.thenSettles w l t ∧ (z.calm → t = w.setLine l (z.standing p))))
  ∧ ∀ (rt : Pos) (c : OutCell), c.covered rt = true ↔ posLe (c.first + BitVec.ofNat 32 c.bytes.length) rt = true

/-- In BLOCK mode the completion of the end of the open block hands the block to the tail of the outstanding list, as sent, and
starts the ack timer if it is stopped; the completion of a re-sent end sets its entry's sent flag, and clears the resend flag
when it is the oldest's; a data byte that ends nothing retires nothing and reaches nothing. Where the end completes the point of the
barrier, it is reached, the first time with a HOLD event and its marker's reached flag set; no other marker changes. The transmitter goes to BREAK when a break is pending, else
to GAP or IDLE. Which end the character is stands in the shift register from its start (log 14). This is so in every state of the line; what
follows within the event, the completion of a FLUSH, of a drain or of an abort among it, is that of the line's state (that it
follows within this event: log 1). -/
def Obligations.BlockEndsComplete : Prop :=
  ∀ (s : State) (l : Fin 8) (ch : ShiftChar), (s.line l).tx = .character ch → ch.kind ≠ .pacingCode →
    (s.prof l).outPacing = .block →
    let x := s.line l
    let p := s.prof l
    let full := if x.cond = .offline ∨ x.cond = .mediaOut ∨ x.cond = .detached then AckTimer.suspended
      else .running p.ackTimeout
    let started := if x.ackTimer = .stopped ∧ x.state ≠ .stalled then full else x.ackTimer
    ∃ z ev t, z = { x with
        counters := z.counters, tx := z.tx, brk := z.brk, gapTimer := z.gapTimer, breakTimer := z.breakTimer
        blocks := z.blocks, openBlock := z.openBlock, resend := z.resend, ackTimer := z.ackTimer
        markers := z.markers, state := z.state }
      ∧ x.afterCompletion p z
      ∧ ((ch.role = .noEnd ∨ (ch.role = .openEnd ∧ x.openBlock = none)
            ∨ ∃ e, ch.role = .entryEnd e ∧ ∀ k ∈ x.blocks, k.fin ≠ e) →
          z.blocks = x.blocks ∧ z.openBlock = x.openBlock ∧ z.ackTimer = x.ackTimer ∧ z.resend = x.resend
          ∧ z.markers = x.markers ∧ z.state = x.state ∧ ev = s.events)
      ∧ (∀ o, ch.role = .openEnd → x.openBlock = some o →
          z.blocks = x.blocks ++ [⟨o.start, x.T, if ch.kind = .insertedEnd then .inserted else .inData, true⟩]
          ∧ z.openBlock = none ∧ z.resend = x.resend ∧ z.ackTimer = started
          ∧ x.reachesBarrier (x.T - 1) l.castSucc x.markers s.events z ev)
      ∧ (∀ e, ch.role = .entryEnd e → (∃ k ∈ x.blocks, k.fin = e) →
          z.blocks = x.blocks.map (fun k => if k.fin = e then { k with sent := true } else k)
          ∧ z.openBlock = x.openBlock
          ∧ ((∃ k, x.blocks.head? = some k ∧ k.fin = e) → z.resend = false)
          ∧ ((∀ k, x.blocks.head? = some k → k.fin ≠ e) → z.resend = x.resend)
          ∧ z.ackTimer = started ∧ x.reachesBarrier (e - 1) l.castSucc x.markers s.events z ev)
      ∧ (let w := { s.setLine l z with events := ev }
        exec (.characterCompletion l) s = .next t ∧ State.thenSettles w l t ∧ (z.calm → t = w.setLine l (z.standing p)))

/-- The gap timer's expiry takes the transmitter from GAP to IDLE. The pause timer's expiry makes the episode reported and raises
a TIMEOUT event with the causes that hold, one occurrence; the linger timer's makes an end waiting. Nothing else of the part
changes but what follows from the end. The idle timer's expiry seals the current inbound cell. A change of RDYIn is only the level
and what follows from it for the ready gate. The repeat timer's expiry makes its class's repeat due and leaves the timer stopped;
the announce timer's makes an ANNOUNCE frame due. -/
def Obligations.TimersExpire : Prop :=
  (∀ (s : State) (l : Fin 8), (s.line l).tx = .gap → (s.line l).gapTimer ≠ .stopped →
    exec (.gapTimerExpiry l) s = .next ((s.setLine l { s.line l with tx := .idle, gapTimer := .stopped }).settle l))
  ∧ ((∀ (s : State) (l : Fin 8), (s.line l).pause = .running → (s.line l).pauseTimer ≠ .stopped →
    exec (.pauseTimerExpiry l) s = .next ((s.setLine l { s.line l with pause := .reported, pauseTimer := .stopped }).raise l
      (.timeout
        { stopCode := decide ((s.prof l).outPacing = .code) && (s.line l).stopped
          readyLow := (s.prof l).readyGate && !(s.line l).rdyi
          condition := (s.prof l).decoding && decide ((s.line l).cond ≠ .ready) } 1)))
  ∧ ∀ (s : State) (l : Fin 8), (s.line l).lingerTimer ≠ .stopped →
    exec (.lingerTimerExpiry l) s
      = .next ((s.setLine l { s.line l with lingerTimer := .stopped, endWaiting := true }).settle l))
  ∧ (∀ (s : State) (l : Fin 8) (q : List InCell) (c : InCell), (s.line l).idleTimer ≠ .stopped → (s.line l).inQ = q ++ [c] →
    c.isSealed = false →
    exec (.idleTimerExpiry l) s
      = .next (s.setLine l { s.line l with inQ := q ++ [{ c with isSealed := true }], idleTimer := .stopped }))
  ∧ (∀ (s : State) (l : Fin 8) (v : Bool),
    exec (.rdyiChange l v) s = .next ((s.setLine l { s.line l with rdyi := v }).settle l))
  ∧ (∀ (s : State) (c : Fin 8), (s.events.cls c).timer ≠ .stopped →
    exec (.repeatTimerExpiry c) s = .next { s with
      events := { s.events with
        classes := s.events.classes.set c.val { s.events.cls c with due := true, timer := .stopped } c.isLt } })
  ∧ ∀ s : State, s.trunk.announceTimer ≠ .stopped →
    exec .announceTimerExpiry s = .next { s with trunk := { s.trunk with announceDue := true, announceTimer := .stopped } }

/-- The expiry of a running ack timer with a block outstanding: while the retry count is below the limit it rises and a resend
begins; at the limit the line is STALLED, a STALL event is raised, T moves up to the newest entry's end if it lies below, and a
drain in progress ends with DRAIN-FAILED. A stopped or suspended timer cannot expire. At a resend the character in the shift
register goes on but ends nothing. -/
def Obligations.AckTimersExpire : Prop :=
  (∀ (s : State) (l : Fin 8),
    let x := s.line l
    let p := s.prof l
    ((∀ ms, x.ackTimer ≠ .running ms) → exec (.ackTimerExpiry l) s = .next s)
    ∧ ∀ ms first last, x.ackTimer = .running ms → x.blocks.head? = some first → x.blocks.getLast? = some last →
      (x.state = .running ∨ x.state = .held ∨ x.underDrain = true) → x.flushDone = false →
      (x.retry < p.retryLimit → exec (.ackTimerExpiry l) s = .next (s.setLine l (Line.standing p
        { x with
          retry := x.retry + 1
          resend := true
          blocks := x.blocks.map (fun b => { b with sent := false })
          T := x.Rt
          openBlock := none
          endWaiting := false
          ackTimer := .stopped
          lingerTimer := .stopped
          tx := x.tx.abandon
          counters := { x.counters with resends := min 65535 (x.counters.resends + 1) } })))
      ∧ (p.retryLimit ≤ x.retry → exec (.ackTimerExpiry l) s = .next { s.setLine l (Line.standing p
          { x with
            state := .stalled
            ackTimer := .stopped
            pauseTimer := .stopped
            pause := .none
            T := if posLt x.T last.fin then last.fin else x.T
            long := if x.longIs .closeDrain then none else x.long }) with
          events := s.events.raise l.castSucc (.stall x.blocks.length x.retry first.start)
          reqs := if x.longIs .closeDrain then
              (match x.long with
              | some g => s.reqs.answerLong g ⟨.drainFailed, []⟩
              | none => s.reqs)
            else s.reqs }))
  ∧ (∀ ch, (TxState.character ch).abandon = .character { ch with role := .noEnd })
  ∧ TxState.idle.abandon = .idle ∧ TxState.gap.abandon = .gap ∧ TxState.brk.abandon = .brk
  ∧ ∀ (x : Line) (k : LongKind), x.longIs k = true ↔ ∃ g, x.long = some g ∧ g.kind = k

/-! ## The receiver -/

/-- While the receiver works, a mark-to-space transition begins a character from IDLE with armed yes, a false start returns it
to IDLE with armed yes, mark seen in IDLE arms it, and mark ends a received break; otherwise RXDn is only a level. That an edge or a character that cannot come in the receiver's state
is only the level it shows is the model's choice (logs 2, 20). The value is the bits within the data width. A character whose stop bit samples at space is a break when its bits are all 0 and its parity bit, if any, is 0, and a
framing error otherwise; one whose parity bit is wrong is a parity error. Each is counted once and raises a LINE ERROR event of
its kind; the character is neither stored nor taken as a code. A break seals the current cell, and under break action FLUSH the
sealed cells not in a frame are discarded. -/
def Obligations.ReceiverEdgesAndErrors : Prop :=
  (∀ (s : State) (l : Fin 8),
    let x := s.line l
    ((x.isOpen ∨ x.underDrain = true) →
      (x.rx = .idle → x.armed = true →
        exec (.startEdge l) s = .next (s.setLine l { x with rxd := .space, rx := .character, armed := false }))
      ∧ ((x.rx ≠ .idle ∨ x.armed = false) → exec (.startEdge l) s = .next (s.setLine l { x with rxd := .space }))
      ∧ (x.rx = .character →
        exec (.falseStart l) s = .next (s.setLine l { x with rxd := .mark, rx := .idle, armed := true }))
      ∧ (x.rx = .idle → exec (.receiverArmed l) s = .next (s.setLine l { x with rxd := .mark, armed := true }))
      ∧ (x.rx = .brk →
        exec (.receiverBreakEnd l) s = .next (s.setLine l { x with rxd := .mark, rx := .idle, armed := true }))
      ∧ (x.rx ≠ .character → exec (.falseStart l) s = .next (s.setLine l { x with rxd := .mark })
        ∧ ∀ v parity stop, exec (.characterReceived l v parity stop) s
            = .next (s.setLine l { x with rxd := if stop then .mark else .space }))
      ∧ (x.rx ≠ .idle → exec (.receiverArmed l) s = .next (s.setLine l { x with rxd := .mark }))
      ∧ (x.rx ≠ .brk → exec (.receiverBreakEnd l) s = .next (s.setLine l { x with rxd := .mark })))
    ∧ ((x.state = .closed ∨ (x.state = .draining ∧ x.underDrain = false)) →
      exec (.startEdge l) s = .next (s.setLine l { x with rxd := .space })
      ∧ exec (.falseStart l) s = .next (s.setLine l { x with rxd := .mark })
      ∧ exec (.receiverArmed l) s = .next (s.setLine l { x with rxd := .mark })
      ∧ exec (.receiverBreakEnd l) s = .next (s.setLine l { x with rxd := .mark })
      ∧ ∀ v parity stop, exec (.characterReceived l v parity stop) s
          = .next (s.setLine l { x with rxd := if stop then .mark else .space })))
  ∧ (∀ (s : State) (l : Fin 8) (v : Byte) (parity : Bool),
    let x := s.line l
    let p := s.prof l
    (x.isOpen ∨ x.underDrain = true) → x.rx = .character →
    ((∀ e, parityBitOf p.parity (dataBitList p.dataBits (maskWidth p.dataBits v)) = some e → e ≠ parity →
      exec (.characterReceived l v parity true) s = .next (State.settle ((s.setLine l
        { x with
          rxd := .mark, rx := .idle, armed := true
          counters := { x.counters with parity := min 65535 (x.counters.parity + 1) } }).raise l
        (.lineError { KindSet.empty with parity := true } 0 1 0)) l))
    ∧ ((maskWidth p.dataBits v ≠ 0#8 ∨ (p.parity ≠ .none ∧ parity = true)) →
      exec (.characterReceived l v parity false) s = .next (State.settle ((s.setLine l
        { x with
          rxd := .space, rx := .idle, armed := false
          counters := { x.counters with framing := min 65535 (x.counters.framing + 1) } }).raise l
        (.lineError { KindSet.empty with framing := true } 1 0 0)) l))
    ∧ (maskWidth p.dataBits v = 0#8 → (p.parity = .none ∨ parity = false) →
      let y := { x with
        rxd := .space, rx := .brk, armed := false
        counters := { x.counters with breaks := min 65535 (x.counters.breaks + 1) } }
      let z := fun (q : List InCell) (t : Timer) => (s.setLine l { y with inQ := q, idleTimer := t }).raise l
        (.lineError { KindSet.empty with brk := true } 0 0 0)
      (∀ q c, x.inQ = q ++ [c] → c.isSealed = false →
        (p.breakAction = .report → exec (.characterReceived l v parity false) s
          = .next ((z (q ++ [{ c with isSealed := true }]) .stopped).settle l))
        ∧ (p.breakAction = .flush → exec (.characterReceived l v parity false) s
          = .next (((z (q ++ [{ c with isSealed := true }]) .stopped).dropInbound l
              (fun c => !c.isSealed || c.inFrame)).settle l)))
      ∧ ((∀ q c, x.inQ = q ++ [c] → c.isSealed = true) →
        (p.breakAction = .report → exec (.characterReceived l v parity false) s = .next ((z x.inQ x.idleTimer).settle l))
        ∧ (p.breakAction = .flush → exec (.characterReceived l v parity false) s
          = .next (((z x.inQ x.idleTimer).dropInbound l (fun c => !c.isSealed || c.inFrame)).settle l))))))
  ∧ ∀ (width : Nat) (v : Byte) (i : Nat), (maskWidth width v).getLsbD i = (v.getLsbD i && decide (i < width))

/-- A good character that no pacing consumes is counted and stored: into the current inbound cell, which is sealed when it is
full or the character is the flush code and whose idle timer starts again otherwise; with no current cell, into a new cell
within the inbound quota, with the marks applied to the new count, last sent and RDYOn following wanted as the inbound pacing has
it; nothing else of the line changes but by the standing updates. With the quota held it is lost, counted as an overrun, and a
LINE ERROR event is raised. Under outbound CODE pacing with go-on-any it clears the stopped flag too. -/
def Obligations.GoodCharactersStored : Prop :=
  ∀ (s : State) (l : Fin 8) (b : Byte) (parity : Bool),
    let x := s.line l
    let p := s.prof l
    let v := maskWidth p.dataBits b
    let y : Line := { x with
      rxd := .mark, rx := .idle, armed := true
      stopped := x.stopped && !(decide (p.outPacing = .code) && p.goOnAny)
      counters := { x.counters with received := min 65535 (x.counters.received + 1) } }
    let full := fun (n : Nat) => decide (32 ≤ n ∨ p.flushCode = some v)
    x.calm → x.rx = .character → (∀ e, parityBitOf p.parity (dataBitList p.dataBits v) = some e → e = parity) →
    (p.outPacing = .code → v ≠ p.stopCode ∧ v ≠ p.goCode) →
    (p.outPacing = .block → v ≠ p.ackCode ∧ p.nakCode ≠ some v) →
    (∀ q c, x.inQ = q ++ [c] → c.isSealed = false → exec (.characterReceived l b parity true) s
        = .next (s.setLine l (Line.standing p
          { y with
            inQ := q ++ [{ c with bytes := c.bytes ++ [v], isSealed := full (c.bytes.length + 1) }]
            idleTimer := if full (c.bytes.length + 1) then .stopped else .running p.inboundIdle })))
    ∧ ((∀ q c, x.inQ = q ++ [c] → c.isSealed = true) → x.inQ.length < x.resIn →
      ∃ z, z = { y with
          inQ := x.inQ ++ [⟨[v], full 1, false⟩]
          idleTimer := if full 1 then .stopped else .running p.inboundIdle
          wanted := z.wanted, lastSent := z.lastSent, rdyo := z.rdyo }
        ∧ x.marksApplied p z ∧ x.pacesPeripheral p z
        ∧ exec (.characterReceived l b parity true) s = .next { s.setLine l (z.standing p) with
            pool := { s.pool with free := s.pool.free - 1 } })
    ∧ ((∀ q c, x.inQ = q ++ [c] → c.isSealed = true) → x.resIn ≤ x.inQ.length →
      exec (.characterReceived l b parity true) s = .next ((s.setLine l (Line.standing p
        { y with counters := { y.counters with overruns := min 65535 (y.counters.overruns + 1) } })).raise l
        (.lineError { KindSet.empty with overrun := true } 0 0 1)))

/-- Under outbound CODE pacing a good character equal to the stop code sets the stopped flag, and one equal to the go code
clears it; each is counted and consumed, and nothing is stored. Under outbound BLOCK pacing with a nak code, a good character equal to it is consumed: with the oldest entry sent, no resend
in progress and the line not STALLED it is taken as an expiry of the ack timer: while the retry count is below the limit it rises and a
resend begins; at the limit the line is STALLED, a STALL event is raised, the ack timer stops, the pause episode ends, T moves up to
the newest entry's end if it lies below, and a drain in progress ends with DRAIN-FAILED. In every other case it is counted as stray. -/
def Obligations.PacingCodesConsumed : Prop :=
  (∀ (s : State) (l : Fin 8) (b : Byte) (parity : Bool),
    let x := s.line l
    let p := s.prof l
    let v := maskWidth p.dataBits b
    let y : Line := { x with
      rxd := .mark, rx := .idle, armed := true
      counters := { x.counters with received := min 65535 (x.counters.received + 1) } }
    x.calm → x.rx = .character → (∀ e, parityBitOf p.parity (dataBitList p.dataBits v) = some e → e = parity) →
    p.outPacing = .code →
    (v = p.stopCode → exec (.characterReceived l b parity true) s
      = .next (s.setLine l (Line.standing p { y with stopped := true })))
    ∧ (v = p.goCode → v ≠ p.stopCode → exec (.characterReceived l b parity true) s
      = .next (s.setLine l (Line.standing p { y with stopped := false }))))
  ∧ (∀ (s : State) (l : Fin 8) (b : Byte) (parity : Bool),
    let x := s.line l
    let p := s.prof l
    let v := maskWidth p.dataBits b
    let y : Line := { x with
      rxd := .mark, rx := .idle, armed := true
      counters := { x.counters with received := min 65535 (x.counters.received + 1) } }
    x.calm → x.rx = .character → (∀ e, parityBitOf p.parity (dataBitList p.dataBits v) = some e → e = parity) →
    p.outPacing = .block → p.nakCode = some v → v ≠ p.ackCode →
    ((x.state = .stalled ∨ x.resend = true ∨ ∀ k, x.blocks.head? = some k → k.sent = false) →
      exec (.characterReceived l b parity true) s = .next ((s.setLine l (Line.standing p
        { y with counters := { y.counters with strayAcks := min 65535 (y.counters.strayAcks + 1) } })).raise l
        (.lineError { KindSet.empty with strayAck := true } 0 0 0)))
    ∧ (∀ k, x.state ≠ .stalled → x.resend = false → x.blocks.head? = some k → k.sent = true →
      (x.retry < p.retryLimit → exec (.characterReceived l b parity true) s = .next (s.setLine l (Line.standing p
        { y with
          retry := x.retry + 1
          resend := true
          blocks := x.blocks.map (fun b => { b with sent := false })
          T := x.Rt
          openBlock := none
          endWaiting := false
          ackTimer := .stopped
          lingerTimer := .stopped
          tx := x.tx.abandon
          counters := { y.counters with resends := min 65535 (y.counters.resends + 1) } })))
      ∧ (p.retryLimit ≤ x.retry → ∀ last, x.blocks.getLast? = some last →
        exec (.characterReceived l b parity true) s = .next { s.setLine l (Line.standing p
          { y with
            state := .stalled
            ackTimer := .stopped
            pauseTimer := .stopped
            pause := .none
            T := if posLt x.T last.fin then last.fin else x.T
            long := if x.longIs .closeDrain then none else x.long }) with
          events := s.events.raise l.castSucc (.stall x.blocks.length x.retry k.start)
          reqs := if x.longIs .closeDrain then
              (match x.long with
              | some g => s.reqs.answerLong g ⟨.drainFailed, []⟩
              | none => s.reqs)
            else s.reqs })))

/-- Under outbound BLOCK pacing a good character equal to the ack code is consumed. With no entry it is stray; with the oldest
entry unsent or a resend in progress it is late, unless the line is STALLED; otherwise it retires the oldest entry: Rt moves to
its end, the cells it covers are freed, which may make a grant due, MARK markers below Rt are reached, the retry count is 0, the
ack timer restarts or stops, and a STALLED line whose list is empty is HELD or RUNNING. A drain whose conditions then hold
completes, within the event by the model's reading (log 1). -/
def Obligations.AcksTaken : Prop :=
  ∀ (s : State) (l : Fin 8) (b : Byte) (parity : Bool),
    let x := s.line l
    let p := s.prof l
    let v := maskWidth p.dataBits b
    let y : Line := { x with
      rxd := .mark, rx := .idle, armed := true
      counters := { x.counters with received := min 65535 (x.counters.received + 1) } }
    x.calm → x.rx = .character → (∀ e, parityBitOf p.parity (dataBitList p.dataBits v) = some e → e = parity) →
    p.outPacing = .block → v = p.ackCode →
    (x.blocks = [] → exec (.characterReceived l b parity true) s = .next ((s.setLine l (Line.standing p
        { y with counters := { y.counters with strayAcks := min 65535 (y.counters.strayAcks + 1) } })).raise l
        (.lineError { KindSet.empty with strayAck := true } 0 0 0)))
    ∧ (∀ k ks, x.blocks = k :: ks → x.state ≠ .stalled → (x.resend = true ∨ k.sent = false) →
      exec (.characterReceived l b parity true) s = .next ((s.setLine l (Line.standing p
        { y with counters := { y.counters with lateAcks := min 65535 (y.counters.lateAcks + 1) } })).raise l
        (.lineError { KindSet.empty with lateAck := true } 0 0 0)))
    ∧ (∀ k ks, x.blocks = k :: ks → (x.state = .stalled ∨ (x.resend = false ∧ k.sent = true)) →
      ∃ z t, z = { y with
          Rt := k.fin
          blocks := ks
          retry := 0
          outQ := x.outQ.dropWhile (OutCell.covered k.fin)
          markers := x.markers.filter (fun m => !(m.kind == .mark && posLt m.pos k.fin))
          ackTimer := if ks = [] then .stopped else if x.state = .stalled then x.ackTimer
            else if x.cond = .offline ∨ x.cond = .mediaOut ∨ x.cond = .detached then .suspended else .running p.ackTimeout
          state := if x.state = .stalled ∧ ks = [] then (if x.barrierReached then .held else .running) else x.state
          endWaiting := if x.state = .stalled ∧ ks = [] then x.endWaiting && x.openBlock.isSome else x.endWaiting
          grantDue := z.grantDue }
        ∧ (z.grantDue = true ↔ x.grantDue = true ∨ x.becomesDue p z)
        ∧ (let w := { s.setLine l z with
            pool := { s.pool with free := s.pool.free + (x.outQ.length - z.outQ.length) }
            events := (x.markers.filter (fun m => m.kind == .mark && posLt m.pos k.fin)).foldl
              (fun e m => e.raise l.castSucc (.mark 1 m.tag m.accepted)) s.events }
          exec (.characterReceived l b parity true) s = .next t ∧ State.thenSettles w l t
          ∧ (z.calm → t = w.setLine l (z.standing p))))

/-! ## Status inputs -/

/-- A change of the status inputs while the decoder works becomes the candidate with the debounce timer started in full, or is
adopted at once under debounce 0; while it does not work, and without a change, it is only a level. The debounce timer's expiry adopts the candidate. A combination that decodes to the same condition changes only what is
settled; a different one changes the condition, suspends a running ack timer or starts a suspended one again as the condition
asks, counts the change, and raises a CONDITION event when its entry is reported or it is INVALID. -/
def Obligations.ConditionsChange : Prop :=
  (∀ (s : State) (l c : Fin 8),
    let x := s.line l
    let p := s.prof l
    ((x.isOpen ∨ x.underDrain = true) → p.decoding = true → c ≠ x.st →
      (p.debounce ≠ 0 → exec (.statusChange l c) s = .next ((s.setLine l
        { x with st := c, candidate := some c, debounceTimer := .running p.debounce }).settle l))
      ∧ (p.debounce = 0 → exec (.statusChange l c) s = .next (((s.setLine l { x with st := c }).adopt l c).settle l)))
    ∧ ((p.decoding = false ∨ c = x.st ∨ x.state = .closed ∨ (x.state = .draining ∧ x.underDrain = false)) →
      exec (.statusChange l c) s = .next (s.setLine l { x with st := c })))
  ∧ ((∀ (s : State) (l c : Fin 8), (s.line l).candidate = some c → (s.line l).debounceTimer ≠ .stopped →
    exec (.debounceTimerExpiry l) s = .next ((s.adopt l c).settle l))
  ∧ ∀ (s : State) (l c : Fin 8),
    let x := s.line l
    let p := s.prof l
    let m := p.map[c]
    let y : Line := { x with settled := c, candidate := none, debounceTimer := .stopped }
    let n := min 255 (x.unreported + 1)
    (m.cond = x.cond → s.adopt l c = s.setLine l y)
    ∧ (m.cond ≠ x.cond →
      let a := match x.ackTimer with
        | .stopped => AckTimer.stopped
        | .running ms => if m.cond = .offline ∨ m.cond = .mediaOut ∨ m.cond = .detached then .suspended else .running ms
        | .suspended => if m.cond = .offline ∨ m.cond = .mediaOut ∨ m.cond = .detached then .suspended
            else .running p.ackTimeout
      ((m.report = true ∨ m.cond = .invalid) →
        s.adopt l c = (s.setLine l { y with cond := m.cond, ackTimer := a, lastReported := m.cond, unreported := 0 }).raise l
          (.condition m.cond x.lastReported n))
      ∧ (m.report = false → m.cond ≠ .invalid →
        s.adopt l c = s.setLine l { y with cond := m.cond, ackTimer := a, unreported := n })))

/-! ## The trunk transmitter -/

/-- The arbiter chooses only when no frame is on TTX. While ANNOUNCING it builds an ANNOUNCE frame when one is due, and nothing
else. While UP it takes the first that has something ready of the session response, the head of the response order, the Event
Unit's turn, a GRANT frame for every grant-due line, and inbound DATA of the first line that offers from the pointer on; a frame
built while UP takes the transmit sequence, which rises by one. An inbound DATA frame carries one or two of its line's oldest sealed
cells not in a frame, which are then in a frame, and the pointer moves to the line after it; the line's record changes in nothing else. A line offers, while the link is UP, when its paused-inbound flag is
clear and it has a sealed cell not in a frame. The result codes, reset causes and frame kinds are those of their tables. -/
def Obligations.ArbiterChooses : Prop :=
  (∀ (s : State) (f : TxFrame), s.trunk.tx = some f → exec .arbiterChoice s = .next s)
  ∧ (∀ s : State, s.trunk.tx = none → s.trunk.link = .announcing →
    (s.trunk.announceDue = false → exec .arbiterChoice s = .next s)
    ∧ (s.trunk.announceDue = true → exec .arbiterChoice s = .next { s with trunk := { s.trunk with
        tx := some ⟨.announce, 15#4, 0#8, [0x5A#8, 0x21#8, 0x01#8, 0x01#8, 0x80#8, 8#8, s.trunk.cause.code]
          ++ be16 s.trunk.counters.restarts, .nothing⟩
        announceDue := false
        announceTimer := .running 250 } }))
  ∧ (∀ s : State, s.trunk.tx = none → s.trunk.link = .up →
    let sent := fun (t : State) (kind : FrameKind) (ch : BitVec 4) (pl : List Byte) (c : Carry) =>
      { t with trunk := { t.trunk with tx := some ⟨kind, ch, s.trunk.txSeq, pl, c⟩, txSeq := s.trunk.txSeq + 1 } }
    (∀ w, s.trunk.session = some w → exec .arbiterChoice s
      = .next (sent { s with trunk := { s.trunk with session := none } } .response 15#4
          ([w.tag, 0x01#8, 0x00#8] ++ w.data) .nothing))
    ∧ (s.trunk.session = none →
      (∀ n rest k reply, s.reqs.order = .slot n :: rest → s.reqs.slots.find? (fun k => k.num == n) = some k →
        k.phase = .completed reply → ∃ t, exec .arbiterChoice s
          = .next (sent t .response 15#4 ([k.tag, k.code, reply.result.code] ++ reply.data) (.slot n))
          ∧ t = { s with reqs := { s.reqs with order := rest, slots := t.reqs.slots } }
          ∧ { k with phase := .sending reply } ∈ t.reqs.slots ∧ ∀ j ∈ s.reqs.slots, j.num ≠ n → j ∈ t.reqs.slots)
      ∧ (∀ rest e, s.reqs.order = .refusal :: rest → s.reqs.refusals.head? = some e → exec .arbiterChoice s
          = .next (sent { s with reqs := { s.reqs with order := rest } } .response 15#4 [e.tag, e.code, e.result.code] .refusal))
      ∧ (s.reqs.order = [] →
        (∀ e rep, s.events.turn = some (e, rep) → exec .arbiterChoice s
          = .next (sent { s with events := e } .report 15#4 rep.payload .nothing))
        ∧ (s.events.turn = none →
          ((∃ l, (s.line l).grantDue = true) → exec .arbiterChoice s
            = .next (sent { s with lines := s.lines.map Line.granted } .grant 15#4
                ((allLines.filter (fun l => (s.line l).grantDue)).flatMap
                  (fun l => byteOf l.val :: be32 ((s.line l).A + BitVec.ofNat 32 (s.line l).room))) .nothing)
            ∧ ∀ l, ((s.line l).grantDue = true → (s.line l).granted = { s.line l with
                  Lsent := (s.line l).A + BitVec.ofNat 32 (s.line l).room, grantDue := false, recentGrant := true })
                ∧ ((s.line l).grantDue = false → (s.line l).granted = s.line l))
          ∧ ((∀ l, (s.line l).grantDue = false) →
            ((∀ l, (s.line l).offers = false) → exec .arbiterChoice s = .next s)
            ∧ ∀ l, (s.line l).offers = true → (∀ j : Fin 8, j < l - s.trunk.pointer → (s.line (s.trunk.pointer + j)).offers = false) →
              ∃ t, exec .arbiterChoice s = .next t
                ∧ t.trunk = { s.trunk with
                    tx := some ⟨.data, BitVec.ofNat 4 l.val, s.trunk.txSeq,
                      (((s.line l).inQ.filter (fun c => c.isSealed && !c.inFrame)).take 2).flatMap InCell.bytes, .cells l⟩
                    txSeq := s.trunk.txSeq + 1
                    pointer := l + 1 }
                ∧ t.line l = { s.line l with inQ := (t.line l).inQ }
                ∧ (t.line l).inQ.map (fun c => (c.bytes, c.isSealed)) = (s.line l).inQ.map (fun c => (c.bytes, c.isSealed))
                ∧ (∀ (i : Nat) (c : InCell), (s.line l).inQ[i]? = some c → c.inFrame = true → (t.line l).inQ[i]? = some c)
                ∧ (t.line l).inQ.filter (fun c => c.isSealed && !c.inFrame)
                    = ((s.line l).inQ.filter (fun c => c.isSealed && !c.inFrame)).drop 2
                ∧ t.pool = s.pool ∧ t.events = s.events ∧ t.reqs = s.reqs ∧ ∀ k, k ≠ l → t.line k = s.line k)))))
  ∧ (∀ x : Line, x.offers = true ↔ x.paused = false ∧ ∃ c ∈ x.inQ, c.isSealed = true ∧ c.inFrame = false)
  ∧ [Result.ok, .busy, .duplicateTag, .unknownRequest, .badOperand, .badProfile, .profileInUse, .noRoom, .wrongState,
        .lineBusy, .notInService, .drainFailed, .aborted].map Result.code
      = [0x00#8, 0x01#8, 0x02#8, 0x03#8, 0x04#8, 0x05#8, 0x06#8, 0x07#8, 0x08#8, 0x09#8, 0x0A#8, 0x0B#8, 0x0C#8]
  ∧ [ResetCause.powerOn, .trunkBreak, .sessionRestart].map ResetCause.code = [0#8, 1#8, 3#8]
  ∧ [FrameKind.data, .response, .report, .grant, .announce].map FrameKind.code = [1#4, 3#4, 4#4, 5#4, 6#4]

/-- The Event Unit's turn: the repeat of the class that stands highest among those whose repeat is due, its flag cleared and its
timer started again; else a new report of the eligible class that stands highest, with its pending records in ascending source
order under the next report number, which leave the pending table; else nothing. A report's payload is its class, its number and
its records, each its source and the bytes of its class. A class is eligible when it is not masked, has
pending records and no report in service, and stands above every class that has one. -/
def Obligations.EventTurns : Prop :=
  (∀ e : EventUnit,
    (∀ c rep, (e.cls c).report = some rep → (e.cls c).due = true → c ∈ e.order →
      (∀ d ∈ e.order, (e.cls d).due = true → (e.cls d).report ≠ none → e.order.idxOf c ≤ e.order.idxOf d) →
      e.turn = some ({ e with
        classes := e.classes.set c.val
          { e.cls c with due := false, timer := if e.interval = 0 then .stopped else .running (10 * e.interval) } c.isLt }, rep))
    ∧ ((∀ c ∈ e.order, ¬ ((e.cls c).due = true ∧ (e.cls c).report ≠ none)) →
      (∀ c ∈ e.order, e.eligible c = true → (∀ d ∈ e.order, e.eligible d = true → e.order.idxOf c ≤ e.order.idxOf d) →
        ∃ e', e.turn = some (e', ⟨c, (e.cls c).number + 1, e.records c⟩)
          ∧ e'.cls c = { e.cls c with
              number := (e.cls c).number + 1
              report := some ⟨c, (e.cls c).number + 1, e.records c⟩
              timer := if e.interval = 0 then .stopped else .running (10 * e.interval)
              due := false }
          ∧ (∀ d, d ≠ c → e'.cls d = e.cls d)
          ∧ ∀ d src, e'.place d src = if d = c then none else e.place d src)
      ∧ ((∀ c ∈ e.order, e.eligible c = false) → e.turn = none))
    ∧ ∀ c, e.eligible c = true ↔ ((e.cls c).mask = false ∧ (∃ src r, e.place c src = some r) ∧ (e.cls c).report = none
        ∧ ∀ d, (e.cls d).report ≠ none → e.order.idxOf c < e.order.idxOf d))
  ∧ (∀ (e : EventUnit) (c : Fin 8), (e.records c).Pairwise (fun a b => a.1 < b.1)
    ∧ ∀ src r, (src, r) ∈ e.records c ↔ e.place c src = some r)
  ∧ (∀ rep : Report, rep.payload
      = [byteOf rep.cls.val, rep.number] ++ rep.records.flatMap (fun sr => byteOf sr.1.val :: sr.2.bytes))
  ∧ (∀ a b c d e f, (EventRec.trunk a b c d e f).bytes = [byteOf a, byteOf b, byteOf c, byteOf d, byteOf e, byteOf f])
  ∧ (∀ n r p, (EventRec.stall n r p).bytes = [byteOf n, byteOf r] ++ be32 p)
  ∧ (∀ a b c n, (EventRec.timeout ⟨a, b, c⟩ n).bytes
      = [(if a then 1#8 else 0#8) + (if b then 2#8 else 0#8) + (if c then 4#8 else 0#8), byteOf n])
  ∧ (∀ c d n, (EventRec.condition c d n).bytes = [byteOf c.code, byteOf d.code, byteOf n])
  ∧ (∀ a b c d e f x y z, (EventRec.lineError ⟨a, b, c, d, e, f⟩ x y z).bytes
      = [(if a then 1#8 else 0#8) + (if b then 2#8 else 0#8) + (if c then 4#8 else 0#8) + (if d then 8#8 else 0#8)
          + (if e then 16#8 else 0#8) + (if f then 32#8 else 0#8), byteOf x, byteOf y, byteOf z])
  ∧ (∀ a b c x y, (EventRec.refused ⟨a, b, c⟩ x y).bytes
      = [(if a then 1#8 else 0#8) + (if b then 2#8 else 0#8) + (if c then 4#8 else 0#8), byteOf x] ++ be16 y)
  ∧ (∀ n tag p, (EventRec.mark n tag p).bytes = [byteOf n, tag] ++ be32 p)
  ∧ (∀ tag p, (EventRec.hold tag p).bytes = [tag] ++ be32 p)
  ∧ [Condition.ready, .busy, .offline, .mediaOut, .fault, .detached, .invalid].map Condition.code = [0, 1, 2, 3, 4, 5, 6]

/-- The end of the frame on TTX frees the inbound cells it carries in one event, with the marks applied to the new count and last
sent and RDYOn following wanted as the inbound pacing has it, and releases the slot or refusal-list entry it answers; a frame that
carries none of these gives back nothing. A line whose entry to CLOSED waited for the frame, under a drain complete or an abort,
then is CLOSED, within the event by the model's reading (log 1), and a PART RESET in progress completes with it when every other line
is CLOSED. -/
def Obligations.FramesEnd : Prop :=
  ∀ (s : State) (f : TxFrame), s.trunk.tx = some f →
    let u := { s with trunk := { s.trunk with tx := none } }
    (f.carries = .nothing → exec .frameEnd s = .next u)
    ∧ (∀ n, f.carries = .slot n → exec .frameEnd s
        = .next { u with reqs := { s.reqs with slots := s.reqs.slots.filter (fun k => k.num != n) } })
    ∧ (f.carries = .refusal → exec .frameEnd s
        = .next { u with reqs := { s.reqs with refusals := s.reqs.refusals.tail } })
    ∧ ∀ l, f.carries = .cells l →
      let x := s.line l
      let p := s.prof l
      ∃ z t, z = { x with
          inQ := x.inQ.filter (fun c => !c.inFrame)
          idleTimer := z.idleTimer, wanted := z.wanted, lastSent := z.lastSent, rdyo := z.rdyo }
        ∧ ((∀ c ∈ z.inQ, c.isSealed = true) → z.idleTimer = .stopped) ∧ x.marksApplied p z ∧ x.pacesPeripheral p z
        ∧ (let w := { u.setLine l z with pool := { s.pool with free := s.pool.free + (x.inQ.length - z.inQ.length) } }
          exec .frameEnd s = .next t ∧ State.thenSettles w l t ∧ (x.calm → t = w.setLine l (z.standing p)))
        ∧ ∀ g, x.state = .draining → x.long = some g →
          ((g.kind = .closeDrain ∧ g.completing = true) ∨ (g.kind = .closeAbort ∧ x.inCharacter = false ∧ x.tx ≠ .brk)) →
          (State.closedBy u l g g.inBytes g.outBytes).thenCompletesReset t

/-! ## Stream positions -/

/-- Every step keeps the stream positions of every line in order: Rt, T and S stand in this order; the outbound cells hold every
position from Rt up to S, each cell but the last full and none wholly below Rt; the outstanding entries are contiguous from Rt
and within the window; the markers' positions rise strictly, MARK markers at or beyond Rt. How a line's sending mode keeps T
where it belongs is part of the invariant. The premises are invariants of the model (PoolAccountsKept, TablesStayValid,
LongRequestsStayMatched). -/
def Obligations.StreamPositionsKept : Prop :=
  ∀ s t, s.poolAccounts → s.tablesValid → s.longRequestsMatch → s.streamsInOrder → step s = .next t → t.streamsInOrder

/-! ## Encodings -/

/-- A record that passes the checks of LOAD PROFILE, loaded and read back, is the record with the byte of an absent code 00h;
loaded again it passes every check and leaves the profile as it was. -/
def Obligations.ProfileRecordsRoundTrip : Prop :=
  ∀ rec : List Byte, rec.length = 46 → profileFail rec = none →
    (Profile.ofBytes rec).bytes.length = 46
    ∧ (∀ i, i < 46 → i ≠ 12 → i ≠ 28 → (Profile.ofBytes rec).bytes[i]? = rec[i]?)
    ∧ (rec[11]? = some 0x00#8 → (Profile.ofBytes rec).bytes[12]? = some 0x00#8)
    ∧ (rec[27]? = some 0x00#8 → (Profile.ofBytes rec).bytes[28]? = some 0x00#8)
    ∧ (rec[11]? = some 0x01#8 → (Profile.ofBytes rec).bytes[12]? = rec[12]?)
    ∧ (rec[27]? = some 0x01#8 → (Profile.ofBytes rec).bytes[28]? = rec[28]?)
    ∧ profileFail (Profile.ofBytes rec).bytes = none
    ∧ Profile.ofBytes (Profile.ofBytes rec).bytes = Profile.ofBytes rec

/-! ## Invariants -/

/-- State.reset meets every invariant stated here. -/
def Obligations.InvariantsHoldAtReset : Prop :=
  State.reset.orderCyclic ∧ State.reset.closedAtRest ∧ State.reset.poolAccounts ∧ State.reset.requestsBounded ∧ State.reset.responsesOwed
    ∧ State.reset.countersSaturate ∧ State.reset.tablesValid ∧ State.reset.announceQuiet ∧ State.reset.longRequestsMatch
    ∧ State.reset.markersBounded ∧ State.reset.recordsInPlace ∧ State.reset.repeatsMatch ∧ State.reset.streamsInOrder

/-- Every step keeps the priority order cyclic, and 0 to 7 in mode FIXED. Every step keeps every event record in the place of its class and source. Every step keeps the repeat timers and due flags those of the reports in service: a class with a report in service has its timer
running or its repeat due under a nonzero interval, one with none has neither. -/
def Obligations.EventUnitStaysSound : Prop :=
  (∀ s t, s.orderCyclic → step s = .next t → t.orderCyclic)
  ∧ (∀ s t, s.recordsInPlace → step s = .next t → t.recordsInPlace)
  ∧ (∀ s t, s.repeatsMatch → step s = .next t → t.repeatsMatch)

/-- Every step keeps a CLOSED line at its CLOSED values: the power-on values, with its binding, its counters, AUXOn and the levels
of its input pins free. -/
def Obligations.ClosedLinesStayAtRest : Prop :=
  (∀ s t, s.closedAtRest → step s = .next t → t.closedAtRest)
  ∧ ∀ s : State, s.closedAtRest ↔ ∀ l, let x := s.line l
      x.state = .closed →
        x = { Line.powerOn x.rxd x.rdyi x.st with binding := x.binding, counters := x.counters, auxo := x.auxo }

/-- Every step keeps the pool's accounts: no cell and no reserved cell is lost or made, no line passes its quotas, and the
credit a line has given never exceeds its room, so that a frame within credit always fits. -/
def Obligations.PoolAccountsKept : Prop :=
  ∀ s t, s.poolAccounts → step s = .next t → t.poolAccounts

/-- Every step keeps every held slot's response owed: no request taken is forgotten. -/
def Obligations.ResponsesStayOwed : Prop :=
  ∀ s t, s.responsesOwed → step s = .next t → t.responsesOwed

/-- Every step keeps every counter at or below 65535. Every step keeps every marker list at 16 markers or fewer. Every step keeps at most four slots, with different numbers and tags, and at most four refusals. Every step keeps the announce timer stopped and no announce due while the link is UP. -/
def Obligations.CountsStayBounded : Prop :=
  (∀ s t, s.countersSaturate → step s = .next t → t.countersSaturate)
  ∧ (∀ s t, s.markersBounded → step s = .next t → t.markersBounded)
  ∧ (∀ s t, s.requestsBounded → step s = .next t → t.requestsBounded)
  ∧ (∀ s t, s.announceQuiet → step s = .next t → t.announceQuiet)

/-- Every step keeps the profiles and the pattern table valid. -/
def Obligations.TablesStayValid : Prop :=
  ∀ s t, s.tablesValid → step s = .next t → t.tablesValid

/-- Every step keeps a line's long request, break, transmitter and break timer in agreement. -/
def Obligations.LongRequestsStayMatched : Prop :=
  ∀ s t, s.longRequestsMatch → step s = .next t → t.longRequestsMatch
end

