-- ==== Sys2Proof/Laws/State.lean ====
section
/-!
SUPPORT. One lemma per field and per update of the state: what each named update leaves unchanged, and what it reads as.
-/
namespace Sys2Proof.Machine

/-! ## Lines -/

@[simp] theorem State.line_setLine_same (s : State) (l : Fin 8) (x : Line) : (s.setLine l x).line l = x := by
  simp [State.line, State.setLine]

theorem State.line_setLine_ne (s : State) {l k : Fin 8} (x : Line) (h : k ≠ l) : (s.setLine l x).line k = s.line k := by
  have h' : l.val ≠ k.val := fun e => h (Fin.ext e.symm)
  simp [State.line, State.setLine, Vector.getElem_set_ne, h']

@[simp] theorem State.setLine_setLine (s : State) (l : Fin 8) (x y : Line) : (s.setLine l x).setLine l y = s.setLine l y := by
  simp [State.setLine, Vector.set_set]

theorem State.setLine_line (s : State) (l : Fin 8) : s.setLine l (s.line l) = s := by
  simp [State.setLine, State.line]

@[simp] theorem State.line_mapLine_same (s : State) (l : Fin 8) (f : Line → Line) : (s.mapLine l f).line l = f (s.line l) := by
  simp [State.mapLine]

theorem State.line_mapLine_ne (s : State) {l k : Fin 8} (f : Line → Line) (h : k ≠ l) : (s.mapLine l f).line k = s.line k :=
  s.line_setLine_ne _ h

@[simp] theorem State.mapLine_mapLine (s : State) (l : Fin 8) (f g : Line → Line) :
    (s.mapLine l f).mapLine l g = s.mapLine l (fun x => g (f x)) := by
  simp [State.mapLine]

@[simp] theorem State.setLine_mapLine (s : State) (l : Fin 8) (x : Line) (g : Line → Line) :
    (s.setLine l x).mapLine l g = s.setLine l (g x) := by
  simp [State.mapLine]

@[simp] theorem State.line_mapLines (s : State) (l : Fin 8) (f : Line → Line) : (s.mapLines f).line l = f (s.line l) := by
  simp [State.line, State.mapLines]


/-! ## setLine -/

@[simp] theorem State.pool_setLine (s : State) (l : Fin 8) (x : Line) : (s.setLine l x).pool = s.pool := rfl
@[simp] theorem State.profiles_setLine (s : State) (l : Fin 8) (x : Line) : (s.setLine l x).profiles = s.profiles := rfl
@[simp] theorem State.patterns_setLine (s : State) (l : Fin 8) (x : Line) : (s.setLine l x).patterns = s.patterns := rfl
@[simp] theorem State.events_setLine (s : State) (l : Fin 8) (x : Line) : (s.setLine l x).events = s.events := rfl
@[simp] theorem State.reqs_setLine (s : State) (l : Fin 8) (x : Line) : (s.setLine l x).reqs = s.reqs := rfl
@[simp] theorem State.trunk_setLine (s : State) (l : Fin 8) (x : Line) : (s.setLine l x).trunk = s.trunk := rfl
@[simp] theorem State.pending_setLine (s : State) (l : Fin 8) (x : Line) : (s.setLine l x).pending = s.pending := rfl

/-! ## mapLine -/

@[simp] theorem State.pool_mapLine (s : State) (l : Fin 8) (f : Line → Line) : (s.mapLine l f).pool = s.pool := rfl
@[simp] theorem State.profiles_mapLine (s : State) (l : Fin 8) (f : Line → Line) : (s.mapLine l f).profiles = s.profiles := rfl
@[simp] theorem State.patterns_mapLine (s : State) (l : Fin 8) (f : Line → Line) : (s.mapLine l f).patterns = s.patterns := rfl
@[simp] theorem State.events_mapLine (s : State) (l : Fin 8) (f : Line → Line) : (s.mapLine l f).events = s.events := rfl
@[simp] theorem State.reqs_mapLine (s : State) (l : Fin 8) (f : Line → Line) : (s.mapLine l f).reqs = s.reqs := rfl
@[simp] theorem State.trunk_mapLine (s : State) (l : Fin 8) (f : Line → Line) : (s.mapLine l f).trunk = s.trunk := rfl
@[simp] theorem State.pending_mapLine (s : State) (l : Fin 8) (f : Line → Line) : (s.mapLine l f).pending = s.pending := rfl

/-! ## mapLines -/

@[simp] theorem State.pool_mapLines (s : State) (f : Line → Line) : (s.mapLines f).pool = s.pool := rfl
@[simp] theorem State.profiles_mapLines (s : State) (f : Line → Line) : (s.mapLines f).profiles = s.profiles := rfl
@[simp] theorem State.patterns_mapLines (s : State) (f : Line → Line) : (s.mapLines f).patterns = s.patterns := rfl
@[simp] theorem State.events_mapLines (s : State) (f : Line → Line) : (s.mapLines f).events = s.events := rfl
@[simp] theorem State.reqs_mapLines (s : State) (f : Line → Line) : (s.mapLines f).reqs = s.reqs := rfl
@[simp] theorem State.trunk_mapLines (s : State) (f : Line → Line) : (s.mapLines f).trunk = s.trunk := rfl
@[simp] theorem State.pending_mapLines (s : State) (f : Line → Line) : (s.mapLines f).pending = s.pending := rfl

/-! ## freeCells -/

@[simp] theorem State.profiles_freeCells (s : State) (n : Nat) : (s.freeCells n).profiles = s.profiles := rfl
@[simp] theorem State.patterns_freeCells (s : State) (n : Nat) : (s.freeCells n).patterns = s.patterns := rfl
@[simp] theorem State.lines_freeCells (s : State) (n : Nat) : (s.freeCells n).lines = s.lines := rfl
@[simp] theorem State.events_freeCells (s : State) (n : Nat) : (s.freeCells n).events = s.events := rfl
@[simp] theorem State.reqs_freeCells (s : State) (n : Nat) : (s.freeCells n).reqs = s.reqs := rfl
@[simp] theorem State.trunk_freeCells (s : State) (n : Nat) : (s.freeCells n).trunk = s.trunk := rfl
@[simp] theorem State.pending_freeCells (s : State) (n : Nat) : (s.freeCells n).pending = s.pending := rfl
@[simp] theorem State.line_freeCells (s : State) (n : Nat) (j : Fin 8) : (s.freeCells n).line j = s.line j := rfl
@[simp] theorem State.prof_freeCells (s : State) (n : Nat) (j : Fin 8) : (s.freeCells n).prof j = s.prof j := rfl

/-! ## takeCells -/

@[simp] theorem State.profiles_takeCells (s : State) (n : Nat) : (s.takeCells n).profiles = s.profiles := rfl
@[simp] theorem State.patterns_takeCells (s : State) (n : Nat) : (s.takeCells n).patterns = s.patterns := rfl
@[simp] theorem State.lines_takeCells (s : State) (n : Nat) : (s.takeCells n).lines = s.lines := rfl
@[simp] theorem State.events_takeCells (s : State) (n : Nat) : (s.takeCells n).events = s.events := rfl
@[simp] theorem State.reqs_takeCells (s : State) (n : Nat) : (s.takeCells n).reqs = s.reqs := rfl
@[simp] theorem State.trunk_takeCells (s : State) (n : Nat) : (s.takeCells n).trunk = s.trunk := rfl
@[simp] theorem State.pending_takeCells (s : State) (n : Nat) : (s.takeCells n).pending = s.pending := rfl
@[simp] theorem State.line_takeCells (s : State) (n : Nat) (j : Fin 8) : (s.takeCells n).line j = s.line j := rfl
@[simp] theorem State.prof_takeCells (s : State) (n : Nat) (j : Fin 8) : (s.takeCells n).prof j = s.prof j := rfl

/-! ## raise -/

@[simp] theorem State.pool_raise (s : State) (l : Fin 8) (r : EventRec) : (s.raise l r).pool = s.pool := rfl
@[simp] theorem State.profiles_raise (s : State) (l : Fin 8) (r : EventRec) : (s.raise l r).profiles = s.profiles := rfl
@[simp] theorem State.patterns_raise (s : State) (l : Fin 8) (r : EventRec) : (s.raise l r).patterns = s.patterns := rfl
@[simp] theorem State.lines_raise (s : State) (l : Fin 8) (r : EventRec) : (s.raise l r).lines = s.lines := rfl
@[simp] theorem State.reqs_raise (s : State) (l : Fin 8) (r : EventRec) : (s.raise l r).reqs = s.reqs := rfl
@[simp] theorem State.trunk_raise (s : State) (l : Fin 8) (r : EventRec) : (s.raise l r).trunk = s.trunk := rfl
@[simp] theorem State.pending_raise (s : State) (l : Fin 8) (r : EventRec) : (s.raise l r).pending = s.pending := rfl
@[simp] theorem State.line_raise (s : State) (l : Fin 8) (r : EventRec) (j : Fin 8) : (s.raise l r).line j = s.line j := rfl
@[simp] theorem State.prof_raise (s : State) (l : Fin 8) (r : EventRec) (j : Fin 8) : (s.raise l r).prof j = s.prof j := rfl

/-! ## raiseTrunk -/

@[simp] theorem State.pool_raiseTrunk (s : State) (r : EventRec) : (s.raiseTrunk r).pool = s.pool := rfl
@[simp] theorem State.profiles_raiseTrunk (s : State) (r : EventRec) : (s.raiseTrunk r).profiles = s.profiles := rfl
@[simp] theorem State.patterns_raiseTrunk (s : State) (r : EventRec) : (s.raiseTrunk r).patterns = s.patterns := rfl
@[simp] theorem State.lines_raiseTrunk (s : State) (r : EventRec) : (s.raiseTrunk r).lines = s.lines := rfl
@[simp] theorem State.reqs_raiseTrunk (s : State) (r : EventRec) : (s.raiseTrunk r).reqs = s.reqs := rfl
@[simp] theorem State.trunk_raiseTrunk (s : State) (r : EventRec) : (s.raiseTrunk r).trunk = s.trunk := rfl
@[simp] theorem State.pending_raiseTrunk (s : State) (r : EventRec) : (s.raiseTrunk r).pending = s.pending := rfl
@[simp] theorem State.line_raiseTrunk (s : State) (r : EventRec) (j : Fin 8) : (s.raiseTrunk r).line j = s.line j := rfl
@[simp] theorem State.prof_raiseTrunk (s : State) (r : EventRec) (j : Fin 8) : (s.raiseTrunk r).prof j = s.prof j := rfl

/-! ## complete -/

@[simp] theorem State.pool_complete (s : State) (n : Fin 4) (reply : Reply) : (s.complete n reply).pool = s.pool := rfl
@[simp] theorem State.profiles_complete (s : State) (n : Fin 4) (reply : Reply) : (s.complete n reply).profiles = s.profiles := rfl
@[simp] theorem State.patterns_complete (s : State) (n : Fin 4) (reply : Reply) : (s.complete n reply).patterns = s.patterns := rfl
@[simp] theorem State.lines_complete (s : State) (n : Fin 4) (reply : Reply) : (s.complete n reply).lines = s.lines := rfl
@[simp] theorem State.events_complete (s : State) (n : Fin 4) (reply : Reply) : (s.complete n reply).events = s.events := rfl
@[simp] theorem State.trunk_complete (s : State) (n : Fin 4) (reply : Reply) : (s.complete n reply).trunk = s.trunk := rfl
@[simp] theorem State.pending_complete (s : State) (n : Fin 4) (reply : Reply) : (s.complete n reply).pending = s.pending := rfl
@[simp] theorem State.line_complete (s : State) (n : Fin 4) (reply : Reply) (j : Fin 8) : (s.complete n reply).line j = s.line j := rfl
@[simp] theorem State.prof_complete (s : State) (n : Fin 4) (reply : Reply) (j : Fin 8) : (s.complete n reply).prof j = s.prof j := rfl

/-! ## holdSlot -/

@[simp] theorem State.pool_holdSlot (s : State) (n : Fin 4) (c : ReqCode) (tag : Byte) (ops : List Byte) : (s.holdSlot n c tag ops).pool = s.pool := rfl
@[simp] theorem State.profiles_holdSlot (s : State) (n : Fin 4) (c : ReqCode) (tag : Byte) (ops : List Byte) : (s.holdSlot n c tag ops).profiles = s.profiles := rfl
@[simp] theorem State.patterns_holdSlot (s : State) (n : Fin 4) (c : ReqCode) (tag : Byte) (ops : List Byte) : (s.holdSlot n c tag ops).patterns = s.patterns := rfl
@[simp] theorem State.lines_holdSlot (s : State) (n : Fin 4) (c : ReqCode) (tag : Byte) (ops : List Byte) : (s.holdSlot n c tag ops).lines = s.lines := rfl
@[simp] theorem State.events_holdSlot (s : State) (n : Fin 4) (c : ReqCode) (tag : Byte) (ops : List Byte) : (s.holdSlot n c tag ops).events = s.events := rfl
@[simp] theorem State.trunk_holdSlot (s : State) (n : Fin 4) (c : ReqCode) (tag : Byte) (ops : List Byte) : (s.holdSlot n c tag ops).trunk = s.trunk := rfl
@[simp] theorem State.pending_holdSlot (s : State) (n : Fin 4) (c : ReqCode) (tag : Byte) (ops : List Byte) : (s.holdSlot n c tag ops).pending = s.pending := rfl
@[simp] theorem State.line_holdSlot (s : State) (n : Fin 4) (c : ReqCode) (tag : Byte) (ops : List Byte) (j : Fin 8) : (s.holdSlot n c tag ops).line j = s.line j := rfl
@[simp] theorem State.prof_holdSlot (s : State) (n : Fin 4) (c : ReqCode) (tag : Byte) (ops : List Byte) (j : Fin 8) : (s.holdSlot n c tag ops).prof j = s.prof j := rfl

/-! ## mapTrunk -/

@[simp] theorem State.pool_mapTrunk (s : State) (f : Trunk → Trunk) : (s.mapTrunk f).pool = s.pool := rfl
@[simp] theorem State.profiles_mapTrunk (s : State) (f : Trunk → Trunk) : (s.mapTrunk f).profiles = s.profiles := rfl
@[simp] theorem State.patterns_mapTrunk (s : State) (f : Trunk → Trunk) : (s.mapTrunk f).patterns = s.patterns := rfl
@[simp] theorem State.lines_mapTrunk (s : State) (f : Trunk → Trunk) : (s.mapTrunk f).lines = s.lines := rfl
@[simp] theorem State.events_mapTrunk (s : State) (f : Trunk → Trunk) : (s.mapTrunk f).events = s.events := rfl
@[simp] theorem State.reqs_mapTrunk (s : State) (f : Trunk → Trunk) : (s.mapTrunk f).reqs = s.reqs := rfl
@[simp] theorem State.pending_mapTrunk (s : State) (f : Trunk → Trunk) : (s.mapTrunk f).pending = s.pending := rfl
@[simp] theorem State.line_mapTrunk (s : State) (f : Trunk → Trunk) (j : Fin 8) : (s.mapTrunk f).line j = s.line j := rfl
@[simp] theorem State.prof_mapTrunk (s : State) (f : Trunk → Trunk) (j : Fin 8) : (s.mapTrunk f).prof j = s.prof j := rfl

/-! ## setRx -/

@[simp] theorem State.pool_setRx (s : State) (r : TrunkRx) : (s.setRx r).pool = s.pool := rfl
@[simp] theorem State.profiles_setRx (s : State) (r : TrunkRx) : (s.setRx r).profiles = s.profiles := rfl
@[simp] theorem State.patterns_setRx (s : State) (r : TrunkRx) : (s.setRx r).patterns = s.patterns := rfl
@[simp] theorem State.lines_setRx (s : State) (r : TrunkRx) : (s.setRx r).lines = s.lines := rfl
@[simp] theorem State.events_setRx (s : State) (r : TrunkRx) : (s.setRx r).events = s.events := rfl
@[simp] theorem State.reqs_setRx (s : State) (r : TrunkRx) : (s.setRx r).reqs = s.reqs := rfl
@[simp] theorem State.pending_setRx (s : State) (r : TrunkRx) : (s.setRx r).pending = s.pending := rfl
@[simp] theorem State.line_setRx (s : State) (r : TrunkRx) (j : Fin 8) : (s.setRx r).line j = s.line j := rfl
@[simp] theorem State.prof_setRx (s : State) (r : TrunkRx) (j : Fin 8) : (s.setRx r).prof j = s.prof j := rfl

/-! ## accepted -/

@[simp] theorem State.pool_accepted (s : State) (seq : Byte) : (s.accepted seq).pool = s.pool := rfl
@[simp] theorem State.profiles_accepted (s : State) (seq : Byte) : (s.accepted seq).profiles = s.profiles := rfl
@[simp] theorem State.patterns_accepted (s : State) (seq : Byte) : (s.accepted seq).patterns = s.patterns := rfl
@[simp] theorem State.lines_accepted (s : State) (seq : Byte) : (s.accepted seq).lines = s.lines := rfl
@[simp] theorem State.events_accepted (s : State) (seq : Byte) : (s.accepted seq).events = s.events := rfl
@[simp] theorem State.reqs_accepted (s : State) (seq : Byte) : (s.accepted seq).reqs = s.reqs := rfl
@[simp] theorem State.pending_accepted (s : State) (seq : Byte) : (s.accepted seq).pending = s.pending := rfl
@[simp] theorem State.line_accepted (s : State) (seq : Byte) (j : Fin 8) : (s.accepted seq).line j = s.line j := rfl
@[simp] theorem State.prof_accepted (s : State) (seq : Byte) (j : Fin 8) : (s.accepted seq).prof j = s.prof j := rfl

/-! ## buildUp -/

@[simp] theorem State.pool_buildUp (s : State) (kind : FrameKind) (ch : BitVec 4) (p : List Byte) (c : Carry) : (s.buildUp kind ch p c).pool = s.pool := rfl
@[simp] theorem State.profiles_buildUp (s : State) (kind : FrameKind) (ch : BitVec 4) (p : List Byte) (c : Carry) : (s.buildUp kind ch p c).profiles = s.profiles := rfl
@[simp] theorem State.patterns_buildUp (s : State) (kind : FrameKind) (ch : BitVec 4) (p : List Byte) (c : Carry) : (s.buildUp kind ch p c).patterns = s.patterns := rfl
@[simp] theorem State.lines_buildUp (s : State) (kind : FrameKind) (ch : BitVec 4) (p : List Byte) (c : Carry) : (s.buildUp kind ch p c).lines = s.lines := rfl
@[simp] theorem State.events_buildUp (s : State) (kind : FrameKind) (ch : BitVec 4) (p : List Byte) (c : Carry) : (s.buildUp kind ch p c).events = s.events := rfl
@[simp] theorem State.reqs_buildUp (s : State) (kind : FrameKind) (ch : BitVec 4) (p : List Byte) (c : Carry) : (s.buildUp kind ch p c).reqs = s.reqs := rfl
@[simp] theorem State.pending_buildUp (s : State) (kind : FrameKind) (ch : BitVec 4) (p : List Byte) (c : Carry) : (s.buildUp kind ch p c).pending = s.pending := rfl
@[simp] theorem State.line_buildUp (s : State) (kind : FrameKind) (ch : BitVec 4) (p : List Byte) (c : Carry) (j : Fin 8) : (s.buildUp kind ch p c).line j = s.line j := rfl
@[simp] theorem State.prof_buildUp (s : State) (kind : FrameKind) (ch : BitVec 4) (p : List Byte) (c : Carry) (j : Fin 8) : (s.buildUp kind ch p c).prof j = s.prof j := rfl

theorem State.prof_setLine_ne (s : State) {l k : Fin 8} (x : Line) (h : k ≠ l) : (s.setLine l x).prof k = s.prof k := by
  simp [State.prof, s.line_setLine_ne x h]

/-- The profile a line's blocks read depends on its binding alone. -/
theorem State.prof_setLine_same (s : State) (l : Fin 8) (x : Line) (h : x.binding = (s.line l).binding) :
    (s.setLine l x).prof l = s.prof l := by
  simp [State.prof, h]

theorem State.prof_mapLine_same (s : State) (l : Fin 8) (f : Line → Line) (h : (f (s.line l)).binding = (s.line l).binding) :
    (s.mapLine l f).prof l = s.prof l := s.prof_setLine_same l _ h

end Sys2Proof.Machine
end

