-- ==== Sys2Proof/Laws/Arbiter.lean ====
section
/-!
SUPPORT. The transmit arbiter's choices: the lines due a grant, the round robin, and the cells a DATA frame marks.
-/
namespace Sys2Proof.Machine

/-- A GRANT frame is due when some line is grant-due (R19). -/
theorem dueLines_iff (s : State) : s.dueLines.isEmpty = false ↔ ∃ l, (s.line l).grantDue = true := by
  unfold State.dueLines
  rw [List.isEmpty_eq_false_iff_exists_mem]
  simp only [List.mem_filter]
  constructor
  · rintro ⟨l, _, h⟩; exact ⟨l, h⟩
  · rintro ⟨l, h⟩; exact ⟨l, by clear h; revert l; decide, h⟩

/-- The round robin takes the first line from the pointer on that offers (R175). -/
theorem find_fromPointer (P : Fin 8 → Bool) (p l : Fin 8) (hl : P l = true) (hj : ∀ j : Fin 8, j < l - p → P (p + j) = false) : (fromPointer p).find? P = some l := by
  obtain ⟨d, hd⟩ : ∃ d : Fin 8, l = p + d := ⟨l - p, by omega⟩
  subst hd
  have hsub : p + d - p = d := by omega
  rw [hsub] at hj
  unfold fromPointer
  have h0 := hj 0; have h1 := hj 1; have h2 := hj 2; have h3 := hj 3; have h4 := hj 4; have h5 := hj 5; have h6 := hj 6
  rw [Fin.add_zero] at h0
  clear hj hsub
  match d with
  | 0 => simp only [Fin.add_zero] at hl; simp [List.find?, hl]
  | 1 => simp [List.find?, h0 (by decide), hl]
  | 2 => simp [List.find?, h0 (by decide), h1 (by decide), hl]
  | 3 => simp [List.find?, h0 (by decide), h1 (by decide), h2 (by decide), hl]
  | 4 => simp [List.find?, h0 (by decide), h1 (by decide), h2 (by decide), h3 (by decide), hl]
  | 5 => simp [List.find?, h0 (by decide), h1 (by decide), h2 (by decide), h3 (by decide), h4 (by decide), hl]
  | 6 => simp [List.find?, h0 (by decide), h1 (by decide), h2 (by decide), h3 (by decide), h4 (by decide), h5 (by decide), hl]
  | 7 => simp [List.find?, h0 (by decide), h1 (by decide), h2 (by decide), h3 (by decide), h4 (by decide), h5 (by decide), h6 (by decide), hl]

/-- Marking cells in frame leaves every byte and every sealed flag (R22). -/
theorem markInFrame_contents : ∀ (q : List InCell) (n : Nat),
    (markInFrame n q).map (fun c => (c.bytes, c.isSealed)) = q.map (fun c => (c.bytes, c.isSealed)) := by
  intro q
  induction q with
  | nil => intro n; cases n <;> rfl
  | cons c q ih =>
    intro n
    cases n with
    | zero => rfl
    | succ n =>
      unfold markInFrame; split <;> simp [ih]

/-- Marking cells in frame leaves the cells that are in a frame already (R22). -/
theorem markInFrame_inFrame : ∀ (q : List InCell) (n i : Nat) (c : InCell), q[i]? = some c → c.inFrame = true →
    (markInFrame n q)[i]? = some c := by
  intro q
  induction q with
  | nil => intro n i c h; cases i <;> cases h
  | cons a q ih =>
    intro n i c h hc
    cases n with
    | zero => exact h
    | succ n =>
      unfold markInFrame
      cases i with
      | zero => cases h; rw [if_neg (by simp [hc])]; rfl
      | succ i => split <;> exact ih _ i c h hc

/-- The cells left to offer once the oldest n are marked (R22). -/
theorem markInFrame_filter : ∀ (q : List InCell) (n : Nat), (markInFrame n q).filter (fun c => c.isSealed && !c.inFrame) = (q.filter (fun c => c.isSealed && !c.inFrame)).drop n := by
  intro q
  induction q with
  | nil => intro n; cases n <;> simp [markInFrame]
  | cons c q ih =>
    intro n
    cases n with
    | zero => rfl
    | succ n =>
      unfold markInFrame
      by_cases h : (c.isSealed && !c.inFrame) = true
      · rw [if_pos h]; simp only [List.filter_cons, h, if_true]; simp [ih]
      · rw [if_neg h]; simp only [List.filter_cons, if_neg h]; exact ih _

/-- Dropping what was taken. -/
theorem drop_length_take {α} (l : List α) : l.drop (l.take 2).length = l.drop 2 := by
  match l with
  | [] => rfl
  | [a] => rfl
  | a :: b :: l => simp

/-- The first of a list that meets a test is the one with the least index (R141). -/
theorem find_of_idxOf_le {l : List (Fin 8)} {p : Fin 8 → Bool} {c : Fin 8} (hc : c ∈ l) (hp : p c = true)
    (hmin : ∀ d ∈ l, p d = true → l.idxOf c ≤ l.idxOf d) : l.find? p = some c := by
  induction l with
  | nil => simp at hc
  | cons a l ih =>
    by_cases hpa : p a = true
    · have h := hmin a (by simp) hpa
      have e : a = c := by
        refine Decidable.byContradiction fun hne => ?_
        simp only [List.idxOf_cons, beq_self_eq_true, cond_true, beq_eq_false_iff_ne.mpr hne, cond_false] at h
        omega
      subst e
      simp [hp]
    · have hne : a ≠ c := fun e => hpa (e ▸ hp)
      have hc' : c ∈ l := by simpa [Ne.symm hne] using hc
      rw [List.find?_cons_of_neg hpa]
      apply ih hc'
      intro d hd hpd
      have hda : a ≠ d := fun e => hpa (e ▸ hpd)
      have h := hmin d (by simp [hd]) hpd
      simp only [List.idxOf_cons, beq_eq_false_iff_ne.mpr hne, beq_eq_false_iff_ne.mpr hda, cond_false] at h
      omega

end Sys2Proof.Machine
end

