-- ==== Sys2Proof/Laws/Ops.lean ====
section
/-!
SUPPORT. One lemma for each shared operation over a line, its cells and its requests that says everything the operation can do.
-/
namespace Sys2Proof.Machine

/-! ## Saturating counts -/

theorem satAdd_le (top a b : Nat) : satAdd top a b ≤ top := Nat.min_le_left _ _

theorem bump_le (n : Nat) : bump n ≤ Config.counterTop := satAdd_le _ _ _

theorem bump_of_lt (n : Nat) (h : n < Config.counterTop) : bump n = n + 1 := by
  simp only [bump, satAdd]
  omega

/-! ## Grants (R17) -/

/-- The grant-due flag after the grant-due test: as it was, or set by cause (a) or (b) of R17. -/
theorem grantDue_grantTest (p : Profile) (old new : Line) :
    (grantTest p old new).grantDue = true ↔ new.grantDue = true ∨ old.becomesDue p new := by
  have h : 0 < (new.limit - new.Lsent).toNat ↔ new.limit ≠ new.Lsent := by
    constructor
    · intro h e; rw [e] at h; simp at h
    · intro h
      rcases Nat.eq_zero_or_pos (new.limit - new.Lsent).toNat with h0 | h0
      · exfalso; apply h
        have : new.limit - new.Lsent = 0#32 := BitVec.eq_of_toNat_eq (by simpa using h0)
        exact BitVec.sub_eq_iff_eq_add.mp this |>.trans (by simp)
      · exact h0
  simp only [grantTest, Line.becomesDue, Bool.or_eq_true, Bool.and_eq_true, bne_iff_ne, beq_iff_eq, decide_eq_true_eq, h, and_assoc, or_assoc]

/-- Everything the grant-due test can do (R17). -/
theorem grantTest_frame (p : Profile) (old new : Line) :
    ∃ b, grantTest p old new = { new with grantDue := b } ∧ (b = true ↔ new.grantDue = true ∨ old.becomesDue p new) :=
  ⟨_, rfl, grantDue_grantTest p old new⟩

/-- What causes (a) and (b) of R17 read of the line after the event. -/
theorem Line.becomesDue_congr (p : Profile) (x y z : Line) (h1 : y.A = z.A) (h2 : y.resOut = z.resOut) (h3 : y.outQ = z.outQ) (h4 : y.Lsent = z.Lsent) (h5 : y.Rt = z.Rt) (h6 : y.S = z.S) :
   x.becomesDue p y ↔ x.becomesDue p z := by
  simp [Line.becomesDue, Line.limit, Line.room, h1, h2, h3, h4, h5, h6]

/-! ## The wanted state and the marks (R105 to R108) -/

/-- Everything a value given to the wanted state can do (R105 to R108). -/
theorem Line.setWanted_frame (p : Profile) (w : Pace) (ln : Line) :
    ∃ b c, ln.setWanted p w = { ln with wanted := w, lastSent := b, rdyo := c }
      ∧ b = (if p.inPacing = .code ∨ w = ln.wanted then ln.lastSent else w)
      ∧ c = (if p.inPacing ≠ .line ∨ w = ln.wanted then ln.rdyo else decide (w = .go)) := by
  unfold Line.setWanted
  split
  · rename_i h; subst h; exact ⟨ln.lastSent, ln.rdyo, rfl, by simp, by simp⟩
  · rename_i h
    cases hp : p.inPacing with
    | none => exact ⟨_, ln.rdyo, rfl, by simp [h], by simp⟩
    | code => exact ⟨ln.lastSent, ln.rdyo, rfl, by simp, by simp⟩
    | line => exact ⟨_, _, rfl, by simp [h], by simp [h]; cases w <;> rfl⟩

/-- Whatever the mode, the wanted state takes the value (R105). -/
theorem Line.wanted_setWanted (p : Profile) (w : Pace) (ln : Line) : (ln.setWanted p w).wanted = w := by
  unfold Line.setWanted
  split
  · rename_i h; exact h.symm
  · split <;> rfl

/-- Everything the marks can do (R105 to R108). -/
theorem Line.applyMarks_frame (p : Profile) (ln : Line) :
    ∃ a b c, ln.applyMarks p = { ln with wanted := a, lastSent := b, rdyo := c }
      ∧ (p.highMark ≤ ln.inQ.length → a = .stop)
      ∧ (ln.inQ.length < p.highMark → ln.inQ.length ≤ p.lowMark → a = .go)
      ∧ (ln.inQ.length < p.highMark → p.lowMark < ln.inQ.length → a = ln.wanted)
      ∧ b = (if p.inPacing = .code ∨ a = ln.wanted then ln.lastSent else a)
      ∧ c = (if p.inPacing ≠ .line ∨ a = ln.wanted then ln.rdyo else decide (a = .go)) := by
  unfold Line.applyMarks
  split
  · obtain ⟨b, c, h, hb, hc⟩ := ln.setWanted_frame p .stop
    exact ⟨_, b, c, h, fun _ => rfl, fun h => by omega, fun h => by omega, hb, hc⟩
  · split
    · obtain ⟨b, c, h, hb, hc⟩ := ln.setWanted_frame p .go
      exact ⟨_, b, c, h, fun h => by omega, fun _ _ => rfl, fun _ h => by omega, hb, hc⟩
    · exact ⟨ln.wanted, ln.lastSent, ln.rdyo, rfl, fun h => by omega, fun _ h => by omega, fun _ _ => rfl, by simp, by simp⟩

/-! ## Cells (R11, R23) -/

/-- Everything a move of Rt can do (R10, R11, R17). -/
theorem State.moveRt_frame (s : State) (l : Fin 8) (rt : Pos) :
    ∃ b, s.moveRt l rt
        = (s.setLine l { s.line l with Rt := rt, outQ := (s.line l).outQ.dropWhile (OutCell.covered rt), grantDue := b }).freeCells
            ((s.line l).outQ.length - ((s.line l).outQ.dropWhile (OutCell.covered rt)).length)
      ∧ (b = true ↔ (s.line l).grantDue = true
          ∨ (s.line l).becomesDue (s.prof l) { s.line l with Rt := rt, outQ := (s.line l).outQ.dropWhile (OutCell.covered rt) }) :=
  ⟨_, rfl, grantDue_grantTest _ _ _⟩

/-- Everything the giving up of outbound data can do (R17, R50, R54). -/
theorem State.giveUpOutbound_frame (s : State) (l : Fin 8) :
    ∃ b, s.giveUpOutbound l
        = (s.setLine l { s.line l with T := (s.line l).S, Rt := (s.line l).S, outQ := [], grantDue := b }).freeCells
            (s.line l).outQ.length
      ∧ (b = true ↔ (s.line l).grantDue = true
          ∨ (s.line l).becomesDue (s.prof l) { s.line l with T := (s.line l).S, Rt := (s.line l).S, outQ := [] }) :=
  ⟨_, rfl, grantDue_grantTest _ _ _⟩

/-- Everything a discard of inbound cells can do (R22, R23, R105 to R108). -/
theorem State.dropInbound_frame (s : State) (l : Fin 8) (keep : InCell → Bool) :
    ∃ t a b c, let z : Line := { s.line l with inQ := (s.line l).inQ.filter keep, idleTimer := t, wanted := a, lastSent := b, rdyo := c }
      s.dropInbound l keep = (s.setLine l z).freeCells ((s.line l).inQ.length - ((s.line l).inQ.filter keep).length)
      ∧ (s.line l).marksApplied (s.prof l) z ∧ (s.line l).pacesPeripheral (s.prof l) z
      ∧ ((∀ c ∈ z.inQ, c.isSealed = true) → z.idleTimer = .stopped) := by
  have hc : (∀ c ∈ (s.line l).inQ.filter keep, c.isSealed = true) →
      ¬ (Line.currentCell { s.line l with inQ := (s.line l).inQ.filter keep }).isSome = true := by
    intro h
    show ¬ (match ((s.line l).inQ.filter keep).getLast? with
      | some c => if c.isSealed then none else some c
      | none => none).isSome = true
    cases hl : ((s.line l).inQ.filter keep).getLast? with
    | none => simp
    | some c => simp [h c (List.mem_of_getLast? hl)]
  unfold State.dropInbound
  simp only
  split
  · rename_i e
    exact ⟨_, (s.line l).wanted, (s.line l).lastSent, (s.line l).rdyo, rfl, ⟨fun _ => rfl, fun h => absurd e h⟩,
      by simp [Line.pacesPeripheral], fun h => if_neg (hc h)⟩
  · rename_i e
    obtain ⟨a, b, c, h, h1, h2, h3, h4, h5⟩ := Line.applyMarks_frame (s.prof l)
      { s.line l with
        inQ := (s.line l).inQ.filter keep
        idleTimer := if (Line.currentCell { s.line l with inQ := (s.line l).inQ.filter keep }).isSome then (s.line l).idleTimer
          else .stopped }
    exact ⟨_, a, b, c, congrArg (fun z => State.freeCells (s.setLine l z) _) h, ⟨fun h => absurd h e, fun _ => ⟨h1, h2, h3⟩⟩, ⟨h4, h5⟩,
      fun h => if_neg (hc h)⟩

/-- The end of a long request leaves none, and touches nothing but the line's long request and, when it has a slot, that
slot and the response order (R40, R45, R160). -/
theorem State.finishLong_frame (s : State) (l : Fin 8) (reply : Reply) :
    s.finishLong l reply = s.mapLine l (fun ln => { ln with long := none })
      ∨ ∃ g n, (s.line l).long = some g ∧ g.slot = some n
          ∧ s.finishLong l reply = (s.complete n reply).mapLine l (fun ln => { ln with long := none }) := by
  unfold State.finishLong
  split
  · rename_i g hg
    split
    · rename_i n hn
      exact Or.inr ⟨g, n, hg, hn, by simp⟩
    · exact Or.inl (by simp)
  · exact Or.inl (by simp)

theorem State.long_finishLong (s : State) (l : Fin 8) (reply : Reply) : ((s.finishLong l reply).line l).long = none := by
  rcases s.finishLong_frame l reply with h | ⟨_, n, _, _, h⟩ <;> simp [h]

/-! ## Requests refused or dropped (R156, R158) -/

/-- A refusal is listed while there is a place, else the request is dropped (R158). -/
theorem State.refuse_cases (s : State) (tag code : Byte) (result : Result) :
    s.refuse tag code result
        = { s with reqs := { s.reqs with refusals := s.reqs.refusals ++ [⟨tag, code, result⟩], order := s.reqs.order ++ [.refusal] } }
      ∧ s.reqs.refusals.length < Config.maxRefusals
    ∨ s.refuse tag code result = s.dropRequest ∧ ¬ s.reqs.refusals.length < Config.maxRefusals := by
  unfold State.refuse
  split
  · rename_i h; exact Or.inl ⟨rfl, h⟩
  · rename_i h; exact Or.inr ⟨rfl, h⟩

/-! ## Events (R139, R140) -/

/-- A merge keeps the class of the newer event (R140). -/
theorem EventRec.cls_merge (a b : EventRec) : (a.merge b).cls = b.cls := by
  cases a <;> cases b <;> rfl

/-- A raise writes its own place and no other (R139). -/
theorem EventUnit.place_setPlace_same (e : EventUnit) (c : Fin 8) (src : Fin 9) (r : Option EventRec) :
    (e.setPlace c src r).place c src = r := by
  simp [EventUnit.place, EventUnit.setPlace]

theorem EventUnit.place_setPlace_ne (e : EventUnit) {c d : Fin 8} {src srd : Fin 9} (r : Option EventRec)
    (h : d ≠ c ∨ srd ≠ src) : (e.setPlace c src r).place d srd = e.place d srd := by
  simp only [EventUnit.place, EventUnit.setPlace]
  by_cases hd : d = c
  · subst hd
    have hs : src.val ≠ srd.val := fun he => (h.resolve_left (fun hn => hn rfl)) (Fin.ext he.symm)
    simp [Vector.getElem_set_ne, hs]
  · have hc : c.val ≠ d.val := fun he => hd (Fin.ext he.symm)
    simp [Vector.getElem_set_ne, hc]

end Sys2Proof.Machine
end

