-- ==== Sys2Proof/Laws/Receiver.lean ====
section
/-!
SUPPORT. The frame receiver as one function of whole frames: what the bytes of a frame, good or bad, do to a receiver in HUNT (R168, R169).
-/
namespace Sys2Proof.Machine

@[simp] theorem State.setRx_setRx (s : State) (a b : TrunkRx) : (s.setRx a).setRx b = s.setRx b := rfl

@[simp] theorem State.rx_setRx (s : State) (a : TrunkRx) : (s.setRx a).trunk.rx = a := rfl

theorem State.received_eq (s : State) : s.received = s.setRx .hunt := rfl

theorem State.heard_eq (s : State) (seq : Byte) : s.heard seq = (s.setRx .hunt).accepted seq := rfl

theorem State.rxBytes_nil (s : State) : s.rxBytes [] = s := rfl

theorem State.rxBytes_cons (s : State) (b : Byte) (bs : List Byte) : s.rxBytes (b :: bs) = (s.rxByte b).rxBytes bs := rfl

theorem State.rxBytes_append (s : State) (a b : List Byte) : s.rxBytes (a ++ b) = (s.rxBytes a).rxBytes b := by
  simp [State.rxBytes, List.foldl_append]

/-- A start code and three header bytes leave the receiver in HEADER with the three kept (R169). -/
theorem State.rxByte_header3 (s : State) (h : s.trunk.rx = .hunt) (k q n : Byte) :
    s.rxBytes [Config.startCode, k, q, n] = s.setRx (.header [k, q, n]) := by
  simp [State.rxBytes, State.rxByte, h]

/-- The bytes of a payload, up to its last, collect it (R169). -/
theorem State.rxBytes_payload (s : State) (h : FrameHeader) (kept rest : List Byte) (hne : rest ≠ [])
    (hlen : kept.length + rest.length = h.length.toNat) :
    (s.setRx (.payload h kept)).rxBytes rest = s.setRx (.check h (kept ++ rest) []) := by
  induction rest generalizing kept with
  | nil => exact absurd rfl hne
  | cons b bs ih =>
    rw [State.rxBytes_cons]
    by_cases hb : bs = []
    · subst hb
      simp only [List.length_cons, List.length_nil] at hlen
      simp [State.rxByte, ← hlen, State.rxBytes_nil]
    · have hpos : 0 < bs.length := List.length_pos_iff.mpr hb
      simp only [List.length_cons] at hlen
      have hlt : kept.length + 1 < h.length.toNat := by omega
      have hstep : (s.setRx (.payload h kept)).rxByte b = s.setRx (.payload h (kept ++ [b])) := by
        simp [State.rxByte, hlt]
      rw [hstep, ih (kept ++ [b]) hb (by simp; omega)]
      simp

theorem toNat_byteOf (n : Nat) (h : n ≤ 255) : (byteOf n).toNat = n := by
  simp [byteOf]; omega

/-- The two CRC bytes judge the frame (R169). -/
theorem State.rxBytes_check (s : State) (h : FrameHeader) (payload : List Byte) (hi lo : Byte) :
    (s.setRx (.check h payload [])).rxBytes [hi, lo] = s.judgeFrame h payload hi lo := by
  simp [State.rxBytes, State.rxByte, State.judgeFrame]

/-- A header that passes, its payload and two more bytes: the frame is judged by its CRC (R169). -/
theorem State.rxBytes_frame (s : State) (hrx : s.trunk.rx = .hunt) (k q n : Byte) (payload : List Byte) (hi lo : Byte)
    (hn : n.toNat ≤ Config.maxPayload) (hl : payload.length = n.toNat) :
    s.rxBytes (Config.startCode :: ([k, q, n, headerCheck k q n] ++ payload ++ [hi, lo]))
      = s.judgeFrame ⟨k, q, n⟩ payload hi lo := by
  have e : Config.startCode :: ([k, q, n, headerCheck k q n] ++ payload ++ [hi, lo])
      = [Config.startCode, k, q, n] ++ ([headerCheck k q n] ++ (payload ++ [hi, lo])) := by simp
  rw [e, State.rxBytes_append, s.rxByte_header3 hrx, State.rxBytes_append]
  by_cases hz : n = 0#8
  · have hp : payload = [] := List.length_eq_zero_iff.mp (by rw [hl, hz]; rfl)
    subst hp
    have : (s.setRx (.header [k, q, n])).rxBytes [headerCheck k q n] = s.setRx (.check ⟨k, q, n⟩ [] []) := by
      simp [State.rxBytes, State.rxByte, State.judgeHeader, hz, Config.maxPayload]
    rw [this, List.nil_append, s.rxBytes_check]
  · have : (s.setRx (.header [k, q, n])).rxBytes [headerCheck k q n] = s.setRx (.payload ⟨k, q, n⟩ []) := by
      simp [State.rxBytes, State.rxByte, State.judgeHeader, hz, hn]
    have hp : payload ≠ [] := by
      intro h0
      rw [h0] at hl
      exact hz (BitVec.eq_of_toNat_eq (by simpa using hl.symm))
    rw [this, State.rxBytes_append, s.rxBytes_payload ⟨k, q, n⟩ [] payload hp (by simpa using hl), List.nil_append,
      s.rxBytes_check]

/-- A frame built by R168 with a payload of at most 64 bytes, received from HUNT, is a good frame (R168, R169). -/
theorem State.rxFrame_good (s : State) (hrx : s.trunk.rx = .hunt) (kind channel : BitVec 4) (seq : Byte) (payload : List Byte)
    (hl : payload.length ≤ Config.maxPayload) :
    s.rxFrame kind channel seq payload
      = s.received.goodFrame ⟨kindChannelByte kind channel, seq, byteOf payload.length⟩ payload := by
  have hb : (byteOf payload.length).toNat = payload.length := toNat_byteOf _ (by simp [Config.maxPayload] at hl; omega)
  have := s.rxBytes_frame hrx (kindChannelByte kind channel) seq (byteOf payload.length) payload
    ((crc16 ([kindChannelByte kind channel, seq, byteOf payload.length] ++ payload)).extractLsb' 8 8)
    ((crc16 ([kindChannelByte kind channel, seq, byteOf payload.length] ++ payload)).extractLsb' 0 8) (by omega) hb.symm
  simp only [State.rxFrame, frameBytes, frameBody, crcBytes]
  rw [this]
  simp [State.judgeFrame, crcBytes, State.received_eq]

/-! ## Requests (R156, R157, R171) -/

/-- The kind and channel of a header byte built from them (Table 10-1). -/
@[simp] theorem kind_kindChannelByte (kind channel : BitVec 4) (seq n : Byte) :
    (FrameHeader.kind ⟨kindChannelByte kind channel, seq, n⟩) = kind := by
  simp only [FrameHeader.kind, kindChannelByte]
  revert kind channel
  decide

@[simp] theorem channel_kindChannelByte (kind channel : BitVec 4) (seq n : Byte) :
    (FrameHeader.channel ⟨kindChannelByte kind channel, seq, n⟩) = channel := by
  simp only [FrameHeader.channel, kindChannelByte]
  revert kind channel
  decide

/-- A request other than START SESSION is taken by the Request Unit once its frame is heard (R156, R171). -/
theorem State.rxRequest_heard (s : State) (code : Byte) (r : Req) (hh : s.hears r.seq)
    (hc : code ≠ ReqCode.startSession.byte) (hl : r.operands.length + 2 ≤ Config.maxPayload) :
    s.rxRequest code r = (s.heard r.seq).admitRequest code r.tag r.operands := by
  obtain ⟨hrx, hup, hseq⟩ := hh
  rw [State.rxRequest, s.rxFrame_good hrx _ _ _ _ (by simpa only [List.length_cons] using hl)]
  have hs : startsSession ⟨kindChannelByte 2#4 15#4, r.seq, byteOf (code :: r.tag :: r.operands).length⟩
      (code :: r.tag :: r.operands) = false := by simp [startsSession, hc]
  simp only [State.goodFrame, hs]
  simp [State.received, hup, hseq, State.dispatch, State.takeRequest, State.heard, State.accepted, State.mapTrunk]

theorem ReqCode.ofByte_byte (c : ReqCode) : ReqCode.ofByte c.byte = some c := by
  cases c <;> decide

theorem ReqCode.byte_ne_startSession (c : ReqCode) (h : c ≠ .startSession) : c.byte ≠ ReqCode.startSession.byte := by
  cases c <;> first | exact absurd rfl h | decide

theorem ReqCode.operandBytes_fit (c : ReqCode) : c.operandBytes + 2 ≤ Config.maxPayload := by
  cases c <;> decide

/-- A known request that passes checks 1 to 5 takes its slot and is handed to its owner (R157). -/
theorem State.rxRequest_takes (s : State) (c : ReqCode) (r : Req) (n : Fin 4) (h : s.takes c r n) (hc : c ≠ .startSession) :
    s.rxRequest c.byte r = (s.inSlot c r n).toOwner n c r.operands := by
  obtain ⟨hh, hlen, htag, hpr, hfree⟩ := h
  have hfit := c.operandBytes_fit
  rw [s.rxRequest_heard _ r hh (c.byte_ne_startSession hc) (by omega)]
  have hup : (s.heard r.seq).trunk.link = .up := hh.2.1
  have hreqs : (s.heard r.seq).reqs = s.reqs := rfl
  simp only [State.admitRequest, hup, ne_eq, not_true, if_false, ReqCode.ofByte_byte, State.admitKnown, hlen, hreqs, htag, hpr, hfree,
    Option.isSome_none, Bool.false_eq_true]
  rfl

/-- Completing the slot a request has just taken is answering it (R159, R160). -/
theorem State.complete_inSlot (s : State) (c : ReqCode) (r : Req) (n : Fin 4) (reply : Reply)
    (hfree : s.reqs.freeSlot = some n) : (s.inSlot c r n).complete n reply = s.answered c r n reply := by
  have hall : s.reqs.slots.all (fun k => k.num != n) = true := by
    have := List.find?_some hfree
    exact this
  have hmap : s.reqs.slots.map (fun k => if k.num = n then { k with phase := Phase.completed reply } else k) = s.reqs.slots := by
    conv => rhs; rw [← List.map_id s.reqs.slots]
    apply List.map_congr_left
    intro k hk
    have := List.all_eq_true.mp hall k hk
    simp at this
    simp [this]
  simp only [State.complete, RequestUnit.complete, State.inSlot, State.answered, List.map_append, hmap]
  simp [slotFor, State.heard]

end Sys2Proof.Machine
end

