-- ==== Sys2Proof/Laws/Requests.lean ====
section
/-!
SUPPORT. Requests at their owners: how an operand byte is read as an index, how the answer of a request reads, and what a taken request's command does.
-/
namespace Sys2Proof.Machine

/-! ## Operand bytes -/

/-- The first operand byte as a number. -/
theorem u8_head (a : Byte) (l : List Byte) : u8 (a::l) 0 = a.toNat := rfl

/-- A first operand byte that is an index names it. -/
theorem indexOperand_head (k : Nat) (a : Byte) (l : List Byte) (i : Fin k) (h : a.toNat = i.val) : indexOperand k (a::l) 0 = some i := by
  simp [indexOperand, u8_head, h]

/-- A first operand byte beyond the range names nothing. -/
theorem indexOperand_head_none (k : Nat) (a : Byte) (l : List Byte) (h : k ≤ a.toNat) : indexOperand k (a::l) 0 = none := by
  rw [indexOperand, dif_neg]; simp [u8_head]; omega

/-- A second operand byte that is an index names it. -/
theorem indexOperand_second (k : Nat) (a b : Byte) (l : List Byte) (i : Fin k) (h : b.toNat = i.val) : indexOperand k (a::b::l) 1 = some i := by
  simp [indexOperand, u8, h]

/-- A second operand byte beyond the range names nothing. -/
theorem indexOperand_second_none (k : Nat) (a b : Byte) (l : List Byte) (h : k ≤ b.toNat) : indexOperand k (a::b::l) 1 = none := by
  rw [indexOperand, dif_neg]; simp [u8]; omega

/-- A byte has a value exactly when it is that byte. -/
theorem toNat_eq_iff {b : Byte} {k : Nat} (hk : k < 256) : b.toNat = k ↔ b = BitVec.ofNat 8 k := by
  constructor
  · intro h; apply BitVec.eq_of_toNat_eq; simp [h]; omega
  · intro h; subst h; simp; omega

/-! ## Answers (R159 to R161) -/

/-- The Request Unit once the slot just taken is completed. -/
theorem reqs_complete_inSlot (s : State) (c : ReqCode) (r : Req) (n : Fin 4) (h : s.takes c r n) (reply : Reply) :
   (s.inSlot c r n).reqs.complete n reply = (s.answered c r n reply).reqs := by
  have := s.complete_inSlot c r n reply h.2.2.2.2
  exact congrArg State.reqs this

/-- A short request whose owner leaves the Request Unit alone is answered in its slot. -/
theorem short_inSlot (s : State) (c : ReqCode) (r : Req) (n : Fin 4) (h : s.takes c r n) (own : State → List Byte → State × Reply)
    (t : State) (reply : Reply) (ho : own (s.inSlot c r n) r.operands = (t, reply)) (ht : t.reqs = (s.inSlot c r n).reqs) :
    (s.inSlot c r n).short n own r.operands = { t with reqs := (s.answered c r n reply).reqs } := by
  simp only [State.short, ho, State.complete, ht, reqs_complete_inSlot s c r n h]

/-- The command of a short request that takes a slot: the owner's effect, with the answer. -/
theorem rxRequest_short {s : State} {c : ReqCode} {r : Req} {n : Fin 4} (h : s.takes c r n) (hc : c ≠ .startSession)
    (own : State → List Byte → State × Reply) (t u : State) (reply : Reply)
    (hto : ∀ x ops, State.toOwner x n c ops = x.short n own ops)
    (ho : own (s.inSlot c r n) r.operands = (t, reply)) (ht : t.reqs = (s.inSlot c r n).reqs)
    (hu : u = { t with reqs := (s.answered c r n reply).reqs }) :
    (Host.Outcome.next (s.rxRequest c.byte r) : Host.Outcome State Fault Refusal) = .next u := by
  rw [s.rxRequest_takes c r n h hc, hto, short_inSlot s c r n h own t reply ho ht, hu]

/-- A plain result is a turning away. -/
theorem complete_inSlot_turnedAway {s : State} {c : ReqCode} {r : Req} {n : Fin 4} (h : s.takes c r n) (res : Result) :
   (s.inSlot c r n).complete n (.plain res) = s.turnedAway c r n res := by
  rw [s.complete_inSlot c r n _ h.2.2.2.2]; rfl

/-- Answering a long request leaves a PART RESET in progress as it is. -/
theorem partReset_answerLong (q : RequestUnit) (g : LongReq) (r : Reply) : (q.answerLong g r).partReset = q.partReset := by
  unfold RequestUnit.answerLong; split <;> rfl

/-! ## Tests over the lines -/

/-- A profile is in use when a line bound to it is not CLOSED (R28). -/
theorem profileInUse_iff (s : State) (i : Fin 8) : s.profileInUse i = true ↔ ∃ l, (s.line l).binding = i ∧ (s.line l).state ≠ .closed := by
  simp only [State.profileInUse, List.any_eq_true, Bool.and_eq_true, beq_iff_eq, bne_iff_ne]
  constructor
  · rintro ⟨ln, hm, h⟩
    rw [Vector.mem_toList_iff, Vector.mem_iff_getElem] at hm
    obtain ⟨k, hk, rfl⟩ := hm
    exact ⟨⟨k, hk⟩, h⟩
  · rintro ⟨l, h⟩
    exact ⟨s.line l, by simp [State.line], h⟩

/-- Every line is CLOSED (R164). -/
theorem allClosed_iff (s : State) : s.allClosed = true ↔ ∀ l, (s.line l).state = .closed := by
  simp only [State.allClosed, List.all_eq_true, beq_iff_eq]
  constructor
  · intro h l
    exact h (s.line l) (by simp [State.line])
  · intro h ln hm
    rw [Vector.mem_toList_iff, Vector.mem_iff_getElem] at hm
    obtain ⟨k, hk, rfl⟩ := hm
    exact h ⟨k, hk⟩

/-! ## Frames in either link state (R170, R171) -/

/-- A frame taken in either link state is handed on. -/
theorem rxFrame_takesFrame (s u : State) (kind channel : BitVec 4) (seq : Byte) (payload : List Byte) (h : s.takesFrame seq u) (hl : payload.length ≤ 64)
   (hn : startsSession ⟨kindChannelByte kind channel, seq, byteOf payload.length⟩ payload = false) :
   s.rxFrame kind channel seq payload = u.dispatch ⟨kindChannelByte kind channel, seq, byteOf payload.length⟩ payload := by
  obtain ⟨hrx, h | h⟩ := h
  · obtain ⟨hup, hseq, rfl⟩ := h
    rw [s.rxFrame_good hrx kind channel seq payload hl, State.goodFrame, hn, if_neg Bool.false_ne_true, show s.received.trunk.link = s.trunk.link from rfl, show s.received.trunk.lastAccepted = s.trunk.lastAccepted from rfl, if_pos hup, if_pos hseq]; rfl
  · obtain ⟨hup, rfl⟩ := h
    rw [s.rxFrame_good hrx kind channel seq payload hl, State.goodFrame, hn, if_neg Bool.false_ne_true, show s.received.trunk.link = s.trunk.link from rfl, show s.received.trunk.lastAccepted = s.trunk.lastAccepted from rfl,
      if_neg (by rw [hup]; simp)]

/-- Taking a frame changes nothing but the Trunk Port. -/
theorem takesFrame_same (s u : State) (seq : Byte) (h : s.takesFrame seq u) : u.lines = s.lines ∧ u.profiles = s.profiles ∧ u.patterns = s.patterns ∧ u.pool = s.pool ∧ u.events = s.events ∧ u.reqs = s.reqs ∧ u.pending = s.pending := by
  obtain ⟨_, h | h⟩ := h
  · rw [h.2.2]; exact ⟨rfl, rfl, rfl, rfl, rfl, rfl, rfl⟩
  · rw [h.2]; exact ⟨rfl, rfl, rfl, rfl, rfl, rfl, rfl⟩

/-- A DATA frame taken is handed to the pool. -/
theorem exec_data_takesFrame (s u : State) (l : Fin 8) (seq : Byte) (payload : List Byte) (h : s.takesFrame seq u) (hl : payload.length ≤ 64) :
    exec (.data l seq payload) s = .next (u.takeData l payload) := by
  show Host.Outcome.next (s.rxFrame 1#4 (BitVec.ofNat 4 l.val) seq payload) = _
  rw [rxFrame_takesFrame s u _ _ seq payload h hl (by simp [startsSession])]
  simp only [State.dispatch, kind_kindChannelByte, channel_kindChannelByte]
  have h8 : (BitVec.ofNat 4 l.val).toNat = l.val := by simp; omega
  rw [if_pos (show True ∧ (BitVec.ofNat 4 l.val).toNat < 8 from ⟨trivial, by rw [h8]; exact l.isLt⟩)]
  congr 2
  apply Fin.ext
  simp only [Fin.ofNat, h8]
  omega

end Sys2Proof.Machine
end

