-- ==== Sys2Proof/Laws/Settle.lean ====
section
/-!
SUPPORT. What follows within an event: the standing updates change only an end waiting, the linger timer and the pause episode, and on an open line with no FLUSH ready to complete they are all that follows.
-/
namespace Sys2Proof.Machine

/-- Everything the standing updates can do (R69, R74, R75). -/
theorem Line.standing_frame (p : Profile) (ln : Line) :
    ∃ e t q u, ln.standing p = { ln with endWaiting := e, lingerTimer := t, pause := q, pauseTimer := u } := by
  simp only [Line.standing]
  have h1 : ∃ e, ln.drainEnd = { ln with endWaiting := e } := by
    unfold Line.drainEnd
    split
    · exact ⟨_, rfl⟩
    · exact ⟨ln.endWaiting, rfl⟩
  obtain ⟨e, h1⟩ := h1
  have h2 : ∀ x : Line, ∃ t, x.lingerUpdate p = { x with lingerTimer := t } := by
    intro x
    unfold Line.lingerUpdate
    split
    · split
      · exact ⟨_, rfl⟩
      · exact ⟨x.lingerTimer, rfl⟩
    · exact ⟨_, rfl⟩
  have h3 : ∀ x : Line, ∃ q u, x.pauseUpdate p = { x with pause := q, pauseTimer := u } := by
    intro x
    unfold Line.pauseUpdate
    split
    · split
      · exact ⟨_, _, rfl⟩
      · exact ⟨x.pause, x.pauseTimer, rfl⟩
    · exact ⟨_, _, rfl⟩
  obtain ⟨t, h2⟩ := h2 ln.drainEnd
  obtain ⟨q, u, h3⟩ := h3 (ln.drainEnd.lingerUpdate p)
  rw [h3, h2, h1]
  exact ⟨e, t, q, u, rfl⟩

@[simp] theorem Line.binding_standing (p : Profile) (ln : Line) : (ln.standing p).binding = ln.binding := by
  obtain ⟨e, t, q, u, h⟩ := ln.standing_frame p
  rw [h]
@[simp] theorem Line.state_standing (p : Profile) (ln : Line) : (ln.standing p).state = ln.state := by
  obtain ⟨e, t, q, u, h⟩ := ln.standing_frame p
  rw [h]
@[simp] theorem Line.long_standing (p : Profile) (ln : Line) : (ln.standing p).long = ln.long := by
  obtain ⟨e, t, q, u, h⟩ := ln.standing_frame p
  rw [h]
@[simp] theorem Line.counters_standing (p : Profile) (ln : Line) : (ln.standing p).counters = ln.counters := by
  obtain ⟨e, t, q, u, h⟩ := ln.standing_frame p
  rw [h]
@[simp] theorem Line.A_standing (p : Profile) (ln : Line) : (ln.standing p).A = ln.A := by
  obtain ⟨e, t, q, u, h⟩ := ln.standing_frame p
  rw [h]
@[simp] theorem Line.S_standing (p : Profile) (ln : Line) : (ln.standing p).S = ln.S := by
  obtain ⟨e, t, q, u, h⟩ := ln.standing_frame p
  rw [h]
@[simp] theorem Line.T_standing (p : Profile) (ln : Line) : (ln.standing p).T = ln.T := by
  obtain ⟨e, t, q, u, h⟩ := ln.standing_frame p
  rw [h]
@[simp] theorem Line.Rt_standing (p : Profile) (ln : Line) : (ln.standing p).Rt = ln.Rt := by
  obtain ⟨e, t, q, u, h⟩ := ln.standing_frame p
  rw [h]
@[simp] theorem Line.Lsent_standing (p : Profile) (ln : Line) : (ln.standing p).Lsent = ln.Lsent := by
  obtain ⟨e, t, q, u, h⟩ := ln.standing_frame p
  rw [h]
@[simp] theorem Line.grantDue_standing (p : Profile) (ln : Line) : (ln.standing p).grantDue = ln.grantDue := by
  obtain ⟨e, t, q, u, h⟩ := ln.standing_frame p
  rw [h]
@[simp] theorem Line.recentGrant_standing (p : Profile) (ln : Line) : (ln.standing p).recentGrant = ln.recentGrant := by
  obtain ⟨e, t, q, u, h⟩ := ln.standing_frame p
  rw [h]
@[simp] theorem Line.resOut_standing (p : Profile) (ln : Line) : (ln.standing p).resOut = ln.resOut := by
  obtain ⟨e, t, q, u, h⟩ := ln.standing_frame p
  rw [h]
@[simp] theorem Line.resIn_standing (p : Profile) (ln : Line) : (ln.standing p).resIn = ln.resIn := by
  obtain ⟨e, t, q, u, h⟩ := ln.standing_frame p
  rw [h]
@[simp] theorem Line.outQ_standing (p : Profile) (ln : Line) : (ln.standing p).outQ = ln.outQ := by
  obtain ⟨e, t, q, u, h⟩ := ln.standing_frame p
  rw [h]
@[simp] theorem Line.inQ_standing (p : Profile) (ln : Line) : (ln.standing p).inQ = ln.inQ := by
  obtain ⟨e, t, q, u, h⟩ := ln.standing_frame p
  rw [h]
@[simp] theorem Line.tx_standing (p : Profile) (ln : Line) : (ln.standing p).tx = ln.tx := by
  obtain ⟨e, t, q, u, h⟩ := ln.standing_frame p
  rw [h]
@[simp] theorem Line.openBlock_standing (p : Profile) (ln : Line) : (ln.standing p).openBlock = ln.openBlock := by
  obtain ⟨e, t, q, u, h⟩ := ln.standing_frame p
  rw [h]
@[simp] theorem Line.blocks_standing (p : Profile) (ln : Line) : (ln.standing p).blocks = ln.blocks := by
  obtain ⟨e, t, q, u, h⟩ := ln.standing_frame p
  rw [h]
@[simp] theorem Line.resend_standing (p : Profile) (ln : Line) : (ln.standing p).resend = ln.resend := by
  obtain ⟨e, t, q, u, h⟩ := ln.standing_frame p
  rw [h]
@[simp] theorem Line.retry_standing (p : Profile) (ln : Line) : (ln.standing p).retry = ln.retry := by
  obtain ⟨e, t, q, u, h⟩ := ln.standing_frame p
  rw [h]
@[simp] theorem Line.stopped_standing (p : Profile) (ln : Line) : (ln.standing p).stopped = ln.stopped := by
  obtain ⟨e, t, q, u, h⟩ := ln.standing_frame p
  rw [h]
@[simp] theorem Line.brk_standing (p : Profile) (ln : Line) : (ln.standing p).brk = ln.brk := by
  obtain ⟨e, t, q, u, h⟩ := ln.standing_frame p
  rw [h]
@[simp] theorem Line.gapTimer_standing (p : Profile) (ln : Line) : (ln.standing p).gapTimer = ln.gapTimer := by
  obtain ⟨e, t, q, u, h⟩ := ln.standing_frame p
  rw [h]
@[simp] theorem Line.ackTimer_standing (p : Profile) (ln : Line) : (ln.standing p).ackTimer = ln.ackTimer := by
  obtain ⟨e, t, q, u, h⟩ := ln.standing_frame p
  rw [h]
@[simp] theorem Line.breakTimer_standing (p : Profile) (ln : Line) : (ln.standing p).breakTimer = ln.breakTimer := by
  obtain ⟨e, t, q, u, h⟩ := ln.standing_frame p
  rw [h]
@[simp] theorem Line.rx_standing (p : Profile) (ln : Line) : (ln.standing p).rx = ln.rx := by
  obtain ⟨e, t, q, u, h⟩ := ln.standing_frame p
  rw [h]
@[simp] theorem Line.armed_standing (p : Profile) (ln : Line) : (ln.standing p).armed = ln.armed := by
  obtain ⟨e, t, q, u, h⟩ := ln.standing_frame p
  rw [h]
@[simp] theorem Line.idleTimer_standing (p : Profile) (ln : Line) : (ln.standing p).idleTimer = ln.idleTimer := by
  obtain ⟨e, t, q, u, h⟩ := ln.standing_frame p
  rw [h]
@[simp] theorem Line.wanted_standing (p : Profile) (ln : Line) : (ln.standing p).wanted = ln.wanted := by
  obtain ⟨e, t, q, u, h⟩ := ln.standing_frame p
  rw [h]
@[simp] theorem Line.lastSent_standing (p : Profile) (ln : Line) : (ln.standing p).lastSent = ln.lastSent := by
  obtain ⟨e, t, q, u, h⟩ := ln.standing_frame p
  rw [h]
@[simp] theorem Line.paused_standing (p : Profile) (ln : Line) : (ln.standing p).paused = ln.paused := by
  obtain ⟨e, t, q, u, h⟩ := ln.standing_frame p
  rw [h]
@[simp] theorem Line.rdyo_standing (p : Profile) (ln : Line) : (ln.standing p).rdyo = ln.rdyo := by
  obtain ⟨e, t, q, u, h⟩ := ln.standing_frame p
  rw [h]
@[simp] theorem Line.settled_standing (p : Profile) (ln : Line) : (ln.standing p).settled = ln.settled := by
  obtain ⟨e, t, q, u, h⟩ := ln.standing_frame p
  rw [h]
@[simp] theorem Line.candidate_standing (p : Profile) (ln : Line) : (ln.standing p).candidate = ln.candidate := by
  obtain ⟨e, t, q, u, h⟩ := ln.standing_frame p
  rw [h]
@[simp] theorem Line.debounceTimer_standing (p : Profile) (ln : Line) : (ln.standing p).debounceTimer = ln.debounceTimer := by
  obtain ⟨e, t, q, u, h⟩ := ln.standing_frame p
  rw [h]
@[simp] theorem Line.cond_standing (p : Profile) (ln : Line) : (ln.standing p).cond = ln.cond := by
  obtain ⟨e, t, q, u, h⟩ := ln.standing_frame p
  rw [h]
@[simp] theorem Line.lastReported_standing (p : Profile) (ln : Line) : (ln.standing p).lastReported = ln.lastReported := by
  obtain ⟨e, t, q, u, h⟩ := ln.standing_frame p
  rw [h]
@[simp] theorem Line.unreported_standing (p : Profile) (ln : Line) : (ln.standing p).unreported = ln.unreported := by
  obtain ⟨e, t, q, u, h⟩ := ln.standing_frame p
  rw [h]
@[simp] theorem Line.markers_standing (p : Profile) (ln : Line) : (ln.standing p).markers = ln.markers := by
  obtain ⟨e, t, q, u, h⟩ := ln.standing_frame p
  rw [h]
@[simp] theorem Line.rxd_standing (p : Profile) (ln : Line) : (ln.standing p).rxd = ln.rxd := by
  obtain ⟨e, t, q, u, h⟩ := ln.standing_frame p
  rw [h]
@[simp] theorem Line.rdyi_standing (p : Profile) (ln : Line) : (ln.standing p).rdyi = ln.rdyi := by
  obtain ⟨e, t, q, u, h⟩ := ln.standing_frame p
  rw [h]
@[simp] theorem Line.st_standing (p : Profile) (ln : Line) : (ln.standing p).st = ln.st := by
  obtain ⟨e, t, q, u, h⟩ := ln.standing_frame p
  rw [h]
@[simp] theorem Line.auxo_standing (p : Profile) (ln : Line) : (ln.standing p).auxo = ln.auxo := by
  obtain ⟨e, t, q, u, h⟩ := ln.standing_frame p
  rw [h]

theorem Line.inCharacter_standing (p : Profile) (ln : Line) : (ln.standing p).inCharacter = ln.inCharacter := by
  simp [Line.inCharacter]

theorem Line.longIs_standing (p : Profile) (ln : Line) (k : LongKind) : (ln.standing p).longIs k = ln.longIs k := by
  simp [Line.longIs]

theorem Line.drainTaken_standing (p : Profile) (ln : Line) : (ln.standing p).drainTaken = ln.drainTaken := by
  simp [Line.drainTaken]

theorem Line.underDrain_standing (p : Profile) (ln : Line) : (ln.standing p).underDrain = ln.underDrain := by
  simp [Line.underDrain, Line.longIs_standing, Line.drainTaken_standing]

theorem Line.flushDone_standing (p : Profile) (ln : Line) : (ln.standing p).flushDone = ln.flushDone := by
  simp [Line.flushDone, Line.longIs_standing, Line.inCharacter_standing]

theorem Line.closesNow_standing (p : Profile) (ln : Line) : (ln.standing p).closesNow = ln.closesNow := by
  simp [Line.closesNow, Line.drainTaken_standing, Line.longIs_standing, Line.noneInFrame, Line.abortDone, Line.inCharacter_standing]

/-- While some line is not CLOSED, PART RESET does not complete (R164). -/
theorem State.testPartReset_open (s : State) (l : Fin 8) (h : (s.line l).state ≠ .closed) : s.testPartReset = s := by
  unfold State.testPartReset
  have hall : s.allClosed = false := by
    simp only [State.allClosed, List.all_eq_false]
    refine ⟨s.line l, ?_, by simpa using h⟩
    simp [State.line]
  split <;> simp [hall]

/-- With no PART RESET in progress there is nothing to complete (R164). -/
theorem State.testPartReset_none (s : State) (h : s.reqs.partReset = none) : s.testPartReset = s := by
  simp [State.testPartReset, h]

/-- What follows an event on a line that is open, not DRAINING, with no FLUSH ready to complete: the standing updates alone. -/
theorem State.settle_open (s : State) (l : Fin 8) (hc : (s.line l).state ≠ .closed) (hd : (s.line l).state ≠ .draining)
    (hf : (s.line l).flushDone = false) : s.settle l = s.mapLine l (Line.standing (s.prof l)) := by
  have hu : (s.line l).underDrain = false := by simp [Line.underDrain, hd]
  have hcl : (s.line l).closesNow = false := by simp [Line.closesNow, hd]
  have h1 : (s.mapLine l (Line.standing (s.prof l))).testFlush l = s.mapLine l (Line.standing (s.prof l)) := by
    simp [State.testFlush, Line.flushDone_standing, hf]
  have h2 : (s.mapLine l (Line.standing (s.prof l))).testDrain l = s.mapLine l (Line.standing (s.prof l)) := by
    simp [State.testDrain, Line.underDrain_standing, hu]
  have h3 : (s.mapLine l (Line.standing (s.prof l))).testClose l = s.mapLine l (Line.standing (s.prof l)) := by
    simp [State.testClose, Line.closesNow_standing, hcl]
  simp only [State.settle, h1, h2, h3]
  exact State.testPartReset_open _ l (by simpa using hc)

/-- What follows an event on a line that is DRAINING under a drain not yet complete: the standing updates alone (R47, R48). -/
theorem State.settle_draining (s : State) (l : Fin 8) (hd : (s.line l).underDrain = true)
    (hn : ((s.line l).standing (s.prof l)).drainDone = false) : s.settle l = s.mapLine l (Line.standing (s.prof l)) := by
  have hst : (s.line l).state = .draining := by
    simp only [Line.underDrain, Bool.and_eq_true, beq_iff_eq] at hd
    exact hd.1.1
  have hk : (s.line l).longIs .closeDrain = true := by
    simp only [Line.underDrain, Bool.and_eq_true] at hd
    exact hd.1.2
  have ht : (s.line l).drainTaken = false := by
    simp only [Line.underDrain, Bool.and_eq_true, Bool.not_eq_true'] at hd
    exact hd.2
  have hother : ∀ k, k ≠ LongKind.closeDrain → (s.line l).longIs k = false := by
    intro k hne
    unfold Line.longIs at hk ⊢
    split at hk
    · simp only [beq_iff_eq] at hk
      simp only [hk, beq_eq_false_iff_ne, ne_eq]
      exact fun e => hne e.symm
    · exact absurd hk (by simp)
  have hf : (s.line l).flushDone = false := by simp [Line.flushDone, hother]
  have hcl : (s.line l).closesNow = false := by simp [Line.closesNow, ht, hother]
  have h1 : (s.mapLine l (Line.standing (s.prof l))).testFlush l = s.mapLine l (Line.standing (s.prof l)) := by
    simp [State.testFlush, Line.flushDone_standing, hf]
  have h2 : (s.mapLine l (Line.standing (s.prof l))).testDrain l = s.mapLine l (Line.standing (s.prof l)) := by
    simp [State.testDrain, hn]
  have h3 : (s.mapLine l (Line.standing (s.prof l))).testClose l = s.mapLine l (Line.standing (s.prof l)) := by
    simp [State.testClose, Line.closesNow_standing, hcl]
  simp only [State.settle, h1, h2, h3]
  exact State.testPartReset_open _ l (by simp [hst])

end Sys2Proof.Machine
end

