-- ==== Sys2Proof/Laws/Within.lean ====
section
/-!
SUPPORT. What follows within an event, by the state of the line: on an open line, on one DRAINING under a drain, with a FLUSH that completes, and on one under an abort.
-/
namespace Sys2Proof.Machine

/-! ## States in which a line works -/

/-- An open line is neither CLOSED nor DRAINING (R14). -/
theorem isOpen_iff (x : Line) : x.isOpen ↔ x.state ≠ .closed ∧ x.state ≠ .draining := by
  unfold Line.isOpen; cases x.state <;> simp

/-- The receiver works on an open line and under a drain (R111). -/
theorem working_iff (x : Line) : x.working = true ↔ x.isOpen ∨ x.underDrain = true := by
  unfold Line.working Line.sendsData Line.isOpen
  cases hs : x.state <;> simp [hs, Line.underDrain]

/-- The states in which data may go (R66). -/
theorem sendsData_iff (x : Line) : x.sendsData = true ↔ x.state = .running ∨ x.state = .held ∨ x.underDrain = true := by
  unfold Line.sendsData
  simp [or_assoc]

/-- The receiver works on a calm line. -/
theorem working_of_calm (x : Line) (h : x.calm) : x.working = true := by
  rw [working_iff]; rcases h with h | h
  · exact Or.inl h.1
  · exact Or.inr h.1

/-- Whether a line is calm depends on its state, its long request, its shift register and its drain conditions. -/
theorem calm_congr (x y : Line) (h : x.calm) (h1 : y.state = x.state) (h2 : y.long = x.long) (h3 : y.inCharacter = x.inCharacter) (h4 : y.drainDone = x.drainDone) : y.calm := by
  rcases h with ⟨h, hf⟩ | ⟨h, hd⟩
  · left; refine ⟨by unfold Line.isOpen; rw [h1]; exact h, ?_⟩
    unfold Line.flushDone Line.longIs at *; rw [h2, h3]; exact hf
  · right; refine ⟨?_, by rw [h4]; exact hd⟩
    unfold Line.underDrain Line.longIs Line.drainTaken at *; rw [h1, h2]; exact h

/-- Whether a FLUSH completes depends on the long request and the shift register (R53). -/
theorem flushDone_congr (x y : Line) (h1 : y.long = x.long) (h2 : y.inCharacter = x.inCharacter) : y.flushDone = x.flushDone := by
  unfold Line.flushDone Line.longIs; rw [h1, h2]

/-- No FLUSH completes while a character is in the shift register (R53). -/
theorem flushDone_of_character (x : Line) (c : ShiftChar) (h : x.tx = .character c) : x.flushDone = false := by
  simp [Line.flushDone, Line.inCharacter, h]

/-- No drain is complete while a character is in the shift register (R48). -/
theorem drainDone_of_character (x : Line) (c : ShiftChar) (h : x.tx = .character c) : x.drainDone = false := by
  simp [Line.drainDone, h]

/-- The four conditions of a complete drain (R48). -/
theorem drainDone_iff (x : Line) : x.drainDone = true ↔ x.S = x.Rt ∧ x.openBlock = none ∧ x.endWaiting = false ∧ x.blocks = [] ∧ (x.tx = .idle ∨ x.tx = .gap) := by
  simp [Line.drainDone, and_assoc]

/-! ## The standing updates -/

/-- The standing updates complete no drain. -/
theorem drainDone_standing (p : Profile) (x : Line) (h : x.drainDone = false) : (x.standing p).drainDone = false := by
  have hw : x.endWaiting = true → (x.standing p).endWaiting = true := by
    intro hx
    simp only [Line.standing]
    have h3 : ∀ y : Line, (y.pauseUpdate p).endWaiting = y.endWaiting := by
      intro y; unfold Line.pauseUpdate; split <;> (try split) <;> rfl
    have h2 : ∀ y : Line, (y.lingerUpdate p).endWaiting = y.endWaiting := by
      intro y; unfold Line.lingerUpdate; split <;> (try split) <;> rfl
    rw [h3, h2]
    unfold Line.drainEnd; split <;> simp [hx]
  cases hc : (x.standing p).drainDone
  · rfl
  have hc' := hc
  simp only [Line.drainDone, Bool.and_eq_true, Bool.not_eq_true', Line.S_standing, Line.Rt_standing, Line.openBlock_standing, Line.blocks_standing, Line.tx_standing] at hc'
  obtain ⟨⟨⟨⟨h1, h2⟩, h3⟩, h4⟩, h5⟩ := hc'
  have : x.endWaiting = false := by
    cases hx : x.endWaiting
    · rfl
    · rw [hw hx] at h3; cases h3
  have : x.drainDone = true := by
    simp only [Line.drainDone, h1, h2, this, h4, h5]; rfl
  rw [this] at h; cases h

/-- The standing updates leave a complete drain complete. -/
theorem drainDone_standing_true (p : Profile) (x : Line) (h : x.drainDone = true) : (x.standing p).drainDone = true ∧ (x.standing p).discardableBytes = x.discardableBytes
   ∧ (x.standing p).closedFrom = x.closedFrom := by
  rw [drainDone_iff] at h ⊢
  have he : x.drainEnd = x := by unfold Line.drainEnd; rw [if_neg]; simp [Line.lingers, h.2.1]
  refine ⟨⟨by simpa using h.1, by simpa using h.2.1, ?_, by simpa using h.2.2.2.1, by simpa using h.2.2.2.2⟩, by simp [Line.discardableBytes], by simp [Line.closedFrom]⟩
  have : (x.standing p).endWaiting = x.drainEnd.endWaiting := by
    simp only [Line.standing]
    have h3 : ∀ y : Line, (y.pauseUpdate p).endWaiting = y.endWaiting := by
      intro y; unfold Line.pauseUpdate; split <;> (try split) <;> rfl
    have h2 : ∀ y : Line, (y.lingerUpdate p).endWaiting = y.endWaiting := by
      intro y; unfold Line.lingerUpdate; split <;> (try split) <;> rfl
    rw [h3, h2]
  rw [this, he]; exact h.2.2.1

/-- The linger timer makes no end waiting here. -/
theorem endWaiting_lingerUpdate (p : Profile) (y : Line) : (y.lingerUpdate p).endWaiting = y.endWaiting := by
  unfold Line.lingerUpdate; split <;> (try split) <;> rfl

/-- The pause episode makes no end waiting. -/
theorem endWaiting_pauseUpdate (p : Profile) (y : Line) : (y.pauseUpdate p).endWaiting = y.endWaiting := by
  unfold Line.pauseUpdate; split <;> (try split) <;> rfl

/-- On an open line the standing updates make no end waiting. -/
theorem endWaiting_standing_open (p : Profile) (z : Line) (ho : z.isOpen) : (z.standing p).endWaiting = z.endWaiting := by
  have hud : z.underDrain = false := by
    have := (isOpen_iff z).mp ho
    simp [Line.underDrain, this.2]
  have hde : z.drainEnd = z := by unfold Line.drainEnd; rw [hud]; rfl
  simp only [Line.standing, hde]; rw [endWaiting_pauseUpdate, endWaiting_lingerUpdate]

/-- The standing updates leave the barrier. -/
theorem barrier_standing (p : Profile) (x : Line) : (x.standing p).barrier = x.barrier := by simp [Line.barrier]

/-- The standing updates leave whether the barrier is reached. -/
theorem barrierReached_standing (p : Profile) (x : Line) : (x.standing p).barrierReached = x.barrierReached := by simp [Line.barrierReached, barrier_standing]

/-! ## What follows -/

/-- On an open line with no FLUSH ready to complete: the standing updates alone. -/
theorem settle_isOpen (s : State) (l : Fin 8) (h : (s.line l).isOpen) (hf : (s.line l).flushDone = false) : s.settle l = s.setLine l (Line.standing (s.prof l) (s.line l)) := by
  rw [isOpen_iff] at h
  exact s.settle_open l h.1 h.2 hf

/-- Under a drain not yet complete: the standing updates alone. -/
theorem settle_underDrain (s : State) (l : Fin 8) (h : (s.line l).underDrain = true) (hf : (s.line l).drainDone = false) : s.settle l = s.setLine l (Line.standing (s.prof l) (s.line l)) :=
  s.settle_draining l h (drainDone_standing _ _ hf)

/-- On a calm line: the standing updates alone. -/
theorem settle_calm (s : State) (l : Fin 8) (h : (s.line l).calm) : s.settle l = s.setLine l (Line.standing (s.prof l) (s.line l)) := by
  rcases h with ⟨h, hf⟩ | ⟨h, hf⟩
  · exact settle_isOpen s l h hf
  · exact settle_underDrain s l h hf

/-- The same after the line has been replaced by an open one. -/
theorem settle_setLine_isOpen (s1 : State) (l : Fin 8) (z : Line) (hb : z.binding = (s1.line l).binding) (ho : z.isOpen) (hf : z.flushDone = false) :
   (s1.setLine l z).settle l = s1.setLine l (Line.standing (s1.prof l) z) := by
  rw [settle_isOpen _ l (by simpa using ho) (by simpa using hf), State.line_setLine_same, State.setLine_setLine, State.prof_setLine_same _ _ _ hb]

/-- The same after the line has been replaced by a calm one. -/
theorem settle_setLine_calm {s : State} {l : Fin 8} {y : Line} (hc : y.calm) (hb : y.binding = (s.line l).binding) : (s.setLine l y).settle l = s.setLine l (Line.standing (s.prof l) y) := by
  rw [settle_calm _ l (by rw [s.line_setLine_same]; exact hc), s.line_setLine_same, State.setLine_setLine, s.prof_setLine_same l y hb]

/-- The same with the Event Unit and the Request Unit replaced too. -/
theorem settle_setLine_with (s : State) (l : Fin 8) (y : Line) (ev : EventUnit) (rq : RequestUnit) (hb : y.binding = (s.line l).binding) (ho : y.isOpen) (hf : y.flushDone = false) :
    ({ s.setLine l y with events := ev, reqs := rq } : State).settle l = { s.setLine l (Line.standing (s.prof l) y) with events := ev, reqs := rq } := by
  have hl : ({ s.setLine l y with events := ev, reqs := rq } : State).line l = y := s.line_setLine_same l y
  have hp : ({ s.setLine l y with events := ev, reqs := rq } : State).prof l = s.prof l := s.prof_setLine_same l y hb
  rw [settle_isOpen _ l (by rw [hl]; exact ho) (by rw [hl]; exact hf), hl, hp]
  simp [State.setLine]

/-- The same with an event raised. -/
theorem settle_raise_calm {s : State} {l : Fin 8} {z : Line} {ev} (hc : z.calm) (hb : z.binding = (s.line l).binding) :
   ((s.setLine l z).raise l ev).settle l = (s.setLine l (Line.standing (s.prof l) z)).raise l ev := by
  have hzl : ((s.setLine l z).raise l ev).line l = z := s.line_setLine_same l z
  have hzp : ((s.setLine l z).raise l ev).prof l = s.prof l := s.prof_setLine_same l z hb
  rw [settle_calm _ l (by rw [hzl]; exact hc), hzl, hzp]
  show (State.raise ((s.setLine l z).setLine l (Line.standing (s.prof l) z)) l _) = _
  rw [State.setLine_setLine]

/-- What follows, spelled out with the line after the standing updates. -/
theorem settle_unfold (s : State) (l : Fin 8) (y : Line) (hy : Line.standing (s.prof l) (s.line l) = y) :
  s.settle l = ((((s.setLine l y).testFlush l).testDrain l).testClose l).testPartReset := by
  unfold State.settle State.mapLine; rw [hy]

end Sys2Proof.Machine
end

