-- ==== Sys2Proof/Laws/Close.lean ====
section
/-!
SUPPORT. The ends of a line: a long request answered, the entry to CLOSED, the completion of a drain, an abort with what follows, and a FLUSH that completes.
-/
namespace Sys2Proof.Machine

/-! ## Long requests and CLOSED (R40, R52) -/

/-- The end of a long request (R40, R45). -/
theorem finishLong_eq (s : State) (l : Fin 8) (rep : Reply) : s.finishLong l rep = { s.setLine l { s.line l with long := none } with
    reqs := match (s.line l).long with | some g => s.reqs.answerLong g rep | none => s.reqs } := by
  unfold State.finishLong
  cases hl : (s.line l).long with
  | none => rfl
  | some g =>
    simp only
    cases hs : g.slot with
    | none => simp only [RequestUnit.answerLong, hs]; rfl
    | some n => simp only [RequestUnit.answerLong, hs]; rfl

/-- The entry to CLOSED (R7, R52). -/
theorem enterClosed_eq (s : State) (l : Fin 8) (x : Line) (h : s.line l = x) : s.enterClosed l = { s.setLine l x.closedFrom with
    pool := { s.pool with free := s.pool.free + (x.outQ.length + x.inQ.length), unreserved := s.pool.unreserved + (x.resOut + x.resIn) } } := by
  subst h; rfl

/-- The entry to CLOSED with the close answered (R51, R52). -/
theorem closeLine_eq (s : State) (l : Fin 8) (x : Line) (g : LongReq) (h : s.line l = x) (hg : x.long = some g) :
   s.closeLine l = { s.setLine l x.closedFrom with
     pool := { s.pool with free := s.pool.free + (x.outQ.length + x.inQ.length), unreserved := s.pool.unreserved + (x.resOut + x.resIn) }
     reqs := s.reqs.answerLong g ⟨.ok, g.counts⟩ } := by
  subst h
  unfold State.closeLine
  rw [hg]
  simp only
  unfold State.finishLong
  rw [hg]; simp only
  cases hs : g.slot with
  | none =>
    simp only [RequestUnit.answerLong, hs]
    rw [enterClosed_eq _ l { s.line l with long := none } (by simp)]
    simp [State.mapLine, Line.closedFrom]
  | some n =>
    simp only [RequestUnit.answerLong, hs]
    rw [enterClosed_eq _ l { s.line l with long := none } (by simp)]
    simp [State.mapLine, Line.closedFrom, State.complete]
    simp [State.setLine, State.line, Reply.okWith]

/-! ## The completion of PART RESET (R164) -/

/-- Everything the completion of PART RESET does (R164). -/
theorem completePartReset_resetCompleted (s : State) (p : PartReset) : s.resetCompleted p (s.completePartReset p) := by
  obtain ⟨slot, clear⟩ := p
  cases slot <;> cases clear <;>
  exact ⟨rfl, rfl, rfl, rfl, rfl,
    fun h => (by first
      | exact absurd h Bool.false_ne_true
      | exact ⟨fun i => by simp [State.completePartReset, State.complete], fun i => by simp [State.completePartReset, State.complete]⟩),
    fun h => (by first | exact ⟨rfl, rfl⟩ | cases h),
    fun l => by simp [State.line, State.completePartReset, State.complete, Counters.zero]⟩

/-- PART RESET completes at the first moment every line is CLOSED, and not before (R164). -/
theorem testPartReset_thenCompletesReset (v : State) : v.thenCompletesReset v.testPartReset := by
  refine ⟨fun h => ?_, fun p hp hc => ?_⟩
  · rcases h with h | ⟨k, hk⟩
    · exact v.testPartReset_none h
    · exact v.testPartReset_open k hk
  · unfold State.testPartReset
    rw [hp]; simp only
    rw [if_pos ((allClosed_iff v).mpr hc)]
    exact completePartReset_resetCompleted v p

/-- A line whose close has nothing left to wait for is CLOSED and answered, and PART RESET may complete (R7, R48, R51, R164). -/
theorem testClose_closedBy (s : State) (l : Fin 8) (g : LongReq) (hg : (s.line l).long = some g) (hc : (s.line l).closesNow = true) :
   s.testClose l = s.closedBy l g g.inBytes g.outBytes := by
  rw [State.testClose, if_pos hc, closeLine_eq s l _ g rfl hg]
  rfl

/-! ## Inbound cells discarded (R23, R105) -/

/-- No cell is left when none is in a frame. -/
theorem filter_inFrame_eq_nil (q : List InCell) : (q.filter (fun c => c.inFrame)) = [] ↔ ∀ c ∈ q, c.inFrame = false := by
  simp [List.filter_eq_nil_iff]

/-- Everything a discard of inbound cells can do, with the line named. -/
theorem dropInbound_of_line (s : State) (l : Fin 8) (x : Line) (hx : s.line l = x) (keep : InCell → Bool) :
    ∃ t a b c, let z : Line := { x with inQ := x.inQ.filter keep, idleTimer := t, wanted := a, lastSent := b, rdyo := c }
      s.dropInbound l keep = (s.setLine l z).freeCells (x.inQ.length - (x.inQ.filter keep).length)
      ∧ x.marksApplied (s.prof l) z ∧ x.pacesPeripheral (s.prof l) z
      ∧ ((∀ c ∈ z.inQ, c.isSealed = true) → z.idleTimer = .stopped) := by
  subst hx; exact s.dropInbound_frame l keep

/-! ## A drain complete (R48) -/

/-- The completion of a drain: CLOSED at once, or waiting for the frame that carries its cells. -/
theorem testDrain_complete (s : State) (l : Fin 8) (x : Line) (g : LongReq) (hx : s.line l = x) (hst : x.state = .draining) (hg : x.long = some g)
   (hk : g.kind = .closeDrain) (hnc : g.completing = false) (hd : x.drainDone = true) :
   s.drainCompletes l g x (((s.testDrain l).testClose l).testPartReset) := by
  have hu : x.underDrain = true := by simp [Line.underDrain, hst, Line.longIs, Line.drainTaken, hg, hk, hnc]
  have ht : s.testDrain l = s.takeDrain l := by
    unfold State.testDrain; rw [hx, hu, hd]; rfl
  obtain ⟨t, a, b, c, hdrop, hm, hp, hi⟩ := dropInbound_of_line s l x hx (fun c => c.inFrame)
  let y : Line := { x with inQ := x.inQ.filter (fun c => c.inFrame), idleTimer := t, wanted := a, lastSent := b, rdyo := c, gapTimer := .stopped, rx := .idle, candidate := none, debounceTimer := .stopped, long := some { g with completing := true, inBytes := x.discardableBytes, outBytes := 0 } }
  have htk : s.takeDrain l = (s.setLine l y).freeCells (x.inQ.length - (x.inQ.filter (fun c => c.inFrame)).length) := by
    unfold State.takeDrain
    rw [hx, hdrop]
    simp only [State.mapLine, State.line_freeCells, State.line_setLine_same]
    show ((s.setLine l _).setLine l _).freeCells _ = _
    rw [State.setLine_setLine]
    simp only [hg, Option.map_some]; rfl
  have hy : (s.takeDrain l).line l = y := by rw [htk]; simp
  constructor
  · intro hnone
    have hnil := (filter_inFrame_eq_nil x.inQ).mpr hnone
    have hcl : y.closesNow = true := by
      simp [Line.closesNow, Line.drainTaken, hk, Line.noneInFrame, y, hst, hnil]
    have : (s.testDrain l).testClose l = s.closedBy l g x.discardableBytes 0 := by
      rw [ht, testClose_closedBy _ l _ (by rw [hy]) (by rw [hy]; exact hcl), State.closedBy, hy, htk]
      simp only [y, hnil]
      simp [State.closedBy, State.freeCells, State.setLine, Line.closedFrom, RequestUnit.answerLong, ← hx]; omega
    rw [this]; exact testPartReset_thenCompletesReset _
  · rintro ⟨c0, hc0, hc1⟩
    have hcl : y.closesNow = false := by
      have hni : y.noneInFrame = false := by
        simp only [Line.noneInFrame, List.all_eq_false]
        exact ⟨c0, by simp only [y, List.mem_filter]; exact ⟨hc0, hc1⟩, by simp [hc1]⟩
      simp [Line.closesNow, hni, Line.abortDone]
    refine ⟨y, ⟨rfl, hi, hm, hp⟩, ?_⟩
    have : (s.testDrain l).testClose l = s.takeDrain l := by rw [ht, State.testClose, hy, hcl]; rfl
    rw [this, State.testPartReset_open _ l (by rw [hy]; show x.state ≠ _; simp [hst]), htk]
    rfl

/-- The same at the end of an event. -/
theorem settle_drainDone (s : State) (l : Fin 8) (x : Line) (g : LongReq) (hx : s.line l = x) (hst : x.state = .draining) (hg : x.long = some g)
   (hk : g.kind = .closeDrain) (hnc : g.completing = false) (hd : x.drainDone = true) :
   s.drainCompletes l g (x.standing (s.prof l)) (s.settle l) := by
  subst hx
  let y := (s.line l).standing (s.prof l)
  obtain ⟨h1, _, h3⟩ := drainDone_standing_true (s.prof l) (s.line l) hd
  have hf : ((s.setLine l y).testFlush l) = s.setLine l y := by
    unfold State.testFlush
    rw [if_neg]; simp [y, Line.flushDone, Line.longIs, hg, hk]
  rw [settle_unfold s l y rfl, hf]
  obtain ⟨ha, hb⟩ := testDrain_complete (s.setLine l y) l y g (by simp) (by simp [y, hst]) (by simp [y, hg]) hk hnc h1
  refine ⟨fun hn => ?_, fun hn => ?_⟩
  · have e : (s.setLine l y).closedBy l g y.discardableBytes 0 = s.closedBy l g y.discardableBytes 0 := by
      have e3 : y.closedFrom = (s.line l).closedFrom := h3
      simp only [State.closedBy, State.line_setLine_same, State.setLine_setLine, e3]
      simp [State.setLine, y]
    rw [← e]; exact ha hn
  · obtain ⟨z, hz, he⟩ := hb hn
    rw [State.prof_setLine_same s l y (by simp [y])] at hz
    exact ⟨z, hz, he.trans (by rw [State.setLine_setLine]; rfl)⟩

/-! ## An abort (R50, R51) -/

/-- The line as an abort leaves it, the idle timer, the inbound pacing states, RDYOn and the grant-due flag given. -/
def abortedLine (x : Line) (slot : Option (Fin 4)) (t : Timer) (a b : Pace) (c gd : Bool) : Line :=
  { x with
    T := x.S
    Rt := x.S
    outQ := []
    grantDue := gd
    inQ := x.inQ.filter (fun c => c.inFrame)
    idleTimer := t
    wanted := a
    lastSent := b
    rdyo := c
    long := some ⟨.closeAbort, slot, false, x.discardableBytes, (x.S - x.Rt).toNat⟩
    state := .draining
    tx := if x.tx = .brk then .idle else x.tx.abandon
    brk := .none
    openBlock := none
    endWaiting := false
    blocks := []
    resend := false
    markers := []
    pause := .none
    gapTimer := .stopped
    ackTimer := .stopped
    pauseTimer := .stopped
    lingerTimer := .stopped
    breakTimer := .stopped
    rx := .idle
    candidate := none
    debounceTimer := .stopped }

/-- Everything the taking of an abort does (R50, R153). -/
theorem abortLine_frame (s : State) (l : Fin 8) (slot : Option (Fin 4)) (x : Line) (hx : s.line l = x) :
   ∃ t a b c gd, s.abortLine l slot = { s.setLine l (abortedLine x slot t a b c gd) with
       pool := { s.pool with free := s.pool.free + x.outQ.length + (x.inQ.length - (x.inQ.filter (fun c => c.inFrame)).length) }
       events := s.events.removeLine l }
     ∧ x.abortTaken (s.prof l) slot (abortedLine x slot t a b c gd) := by
  obtain ⟨gd, hg, hgd⟩ := s.giveUpOutbound_frame l
  rw [hx] at hg hgd
  unfold State.abortLine
  rw [hx, hg]
  obtain ⟨t, a, b, c, hd, hm, hp, hi⟩ := dropInbound_of_line ((s.setLine l { x with T := x.S, Rt := x.S, outQ := [], grantDue := gd }).freeCells x.outQ.length) l _ (by simp; rfl) (fun c => c.inFrame)
  rw [hd]
  have hpr : State.prof ((s.setLine l { x with T := x.S, Rt := x.S, outQ := [], grantDue := gd }).freeCells x.outQ.length) l
      = s.prof l := by
    simp [State.prof, ← hx]
  rw [hpr] at hm hp
  refine ⟨t, a, b, c, gd, ?_, rfl, ?_, hi, hm, hp⟩
  rotate_left
  · exact hgd.trans (or_congr Iff.rfl (Line.becomesDue_congr _ _ _ _ rfl rfl rfl rfl rfl rfl))
  simp only [State.mapLine, State.line_freeCells, State.line_setLine_same]
  show ({ ((s.setLine l _).setLine l _).setLine l _ with pool := _, events := _ } : State) = _
  rw [State.setLine_setLine, State.setLine_setLine]
  rfl

/-- The standing updates leave a line alone that sends no data, has no open block and no timer of theirs running. -/
theorem standing_eq_self (p : Profile) (z : Line) (h1 : z.sendsData = false) (h2 : z.openBlock = none) (hl : z.lingerTimer = .stopped) (hp : z.pause = .none) (hpt : z.pauseTimer = .stopped) :
   z.standing p = z := by
  have he : z.drainEnd = z := by unfold Line.drainEnd; rw [if_neg]; simp [Line.lingers, h2]
  have hli : z.lingerUpdate p = z := by
    unfold Line.lingerUpdate; rw [if_neg (by simp [Line.lingers, h2])]
    rw [← hl]
  have hpu : z.pauseUpdate p = z := by
    unfold Line.pauseUpdate; rw [if_neg (by simp [Line.workWaits, h1])]
    rw [← hp, ← hpt]
  simp only [Line.standing]
  rw [he, hli, hpu]

/-- An abort leaves a character in the shift register there. -/
theorem inCharacter_abandoned (x : Line) : (match (if x.tx = .brk then .idle else x.tx.abandon) with | TxState.character _ => true | _ => false) = x.inCharacter := by
  unfold Line.inCharacter; cases x.tx <;> simp [TxState.abandon]

/-- The same of the whole line. -/
theorem inCharacter_abortedLine (x : Line) (slot t a b c gd) : (abortedLine x slot t a b c gd).inCharacter = x.inCharacter := inCharacter_abandoned x

/-- An aborted line is not in BREAK. -/
theorem tx_abortedLine_ne (x : Line) (slot t a b c gd) : (abortedLine x slot t a b c gd).tx ≠ .brk := by
  show (if x.tx = .brk then TxState.idle else x.tx.abandon) ≠ .brk
  cases x.tx <;> simp [TxState.abandon]

/-- What follows on a line under an abort is its entry to CLOSED, if it is ready. -/
theorem settle_underAbort (u : State) (l : Fin 8) (z : Line) (g : LongReq) (hz : u.line l = z) (_hst : z.state = .draining) (hg : z.long = some g) (hk : g.kind = .closeAbort)
   (hs : z.standing (u.prof l) = z) :
   u.settle l = (u.testClose l).testPartReset := by
  rw [settle_unfold u l z (by rw [hz, hs])]
  have e : u.setLine l z = u := by rw [← hz]; exact u.setLine_line l
  rw [e]
  have hf : u.testFlush l = u := by unfold State.testFlush; rw [hz, if_neg]; simp [Line.flushDone, Line.longIs, hg, hk]
  have hd : u.testDrain l = u := by unfold State.testDrain; rw [hz, if_neg]; simp [Line.underDrain, Line.longIs, hg, hk]
  rw [hf, hd]

/-- The standing updates leave an aborted line alone. -/
theorem standing_abortedLine (x : Line) (slot t a b c gd) (p : Profile) : (abortedLine x slot t a b c gd).standing p = abortedLine x slot t a b c gd := by
  apply standing_eq_self
  · simp [Line.sendsData, Line.underDrain, abortedLine, Line.longIs]
  all_goals rfl

/-- An abort with what follows: CLOSED at once, or DRAINING under the abort (R50, R51). -/
theorem settle_abortLine (s : State) (l : Fin 8) (slot : Option (Fin 4)) (x : Line) (hx : s.line l = x) :
   let closes := x.inCharacter = false ∧ ∀ c ∈ x.inQ, c.inFrame = false
   (closes → (s.abortLine l slot).settle l = State.testPartReset { s.setLine l x.closedFrom with
        pool := { s.pool with free := s.pool.free + (x.outQ.length + x.inQ.length), unreserved := s.pool.unreserved + (x.resOut + x.resIn) }
        events := s.events.removeLine l
        reqs := s.reqs.answerLong ⟨.closeAbort, slot, false, x.discardableBytes, (x.S - x.Rt).toNat⟩ ⟨.ok, be16 x.discardableBytes ++ be16 (x.S - x.Rt).toNat⟩ })
   ∧ (¬ closes → ∃ y, x.abortTaken (s.prof l) slot y ∧ (s.abortLine l slot).settle l = { s.setLine l y with
        pool := { s.pool with
          free := s.pool.free + x.outQ.length + (x.inQ.length - (x.inQ.filter (fun c => c.inFrame)).length) }
        events := s.events.removeLine l }) := by
  intro closes
  obtain ⟨t, a, b, c, gd, h, hat⟩ := abortLine_frame s l slot x hx
  let z := abortedLine x slot t a b c gd
  let u : State := { s.setLine l z with
       pool := { s.pool with free := s.pool.free + x.outQ.length + (x.inQ.length - (x.inQ.filter (fun c => c.inFrame)).length) }
       events := s.events.removeLine l }
  have hu : s.abortLine l slot = u := h
  have hul : u.line l = z := s.line_setLine_same l z
  have hset : u.settle l = (u.testClose l).testPartReset := settle_underAbort u l z _ hul rfl rfl rfl (standing_abortedLine x slot t a b c gd _)
  have hni : z.noneInFrame = true ↔ ∀ c ∈ x.inQ, c.inFrame = false := by
    show (x.inQ.filter (fun c => c.inFrame)).all (fun c => !c.inFrame) = true ↔ _
    simp only [List.all_eq_true, List.mem_filter, Bool.not_eq_true', and_imp]
    constructor
    · intro h c hc
      cases e : c.inFrame
      · rfl
      · exact absurd (h c hc e) (by simp [e])
    · intro h c hc _; exact h c hc
  have hcn : z.closesNow = true ↔ closes := by
    have h1 : z.closesNow = (!z.inCharacter && z.tx != .brk && z.noneInFrame) := by
      show (true && ((false && z.noneInFrame) || (true && z.abortDone))) = _
      simp [Line.abortDone]
    rw [h1, show z.inCharacter = x.inCharacter from inCharacter_abortedLine ..]
    have := tx_abortedLine_ne x slot t a b c gd
    simp only [Bool.and_eq_true, Bool.not_eq_true', bne_iff_ne, hni]
    exact ⟨fun h => ⟨h.1.1, h.2⟩, fun h => ⟨⟨h.1, this⟩, h.2⟩⟩
  refine ⟨fun hc => ?_, fun hc => ?_⟩
  · rw [hu, hset]
    congr 1
    rw [State.testClose, hul, if_pos (hcn.mpr hc), closeLine_eq u l z _ hul rfl]
    have hnil := (filter_inFrame_eq_nil x.inQ).mpr hc.2
    have hzq : z.inQ = [] := hnil
    have hzo : z.outQ = [] := rfl
    have hr : z.resOut = x.resOut ∧ z.resIn = x.resIn := ⟨rfl, rfl⟩
    have hcf : z.closedFrom = x.closedFrom := rfl
    rw [hzq, hzo, hr.1, hr.2, hcf]
    simp only [u, hnil]
    simp [State.setLine, LongReq.counts, Nat.add_assoc]
  · refine ⟨z, hat, ?_⟩
    rw [hu, hset, State.testClose, hul, if_neg (by rw [hcn]; exact hc), State.testPartReset_open u l (by rw [hul]; exact fun e => by cases e)]

/-- The event records of a line removed (R153). -/
theorem place_removeLine (e : EventUnit) (l : Fin 8) (c : Fin 8) (src : Fin 9) : (e.removeLine l).place c src = if src = l.castSucc then none else e.place c src := by
  simp only [EventUnit.removeLine, EventUnit.place]
  by_cases h : src = l.castSucc
  · subst h; simp
  · rw [if_neg h]
    have : l.val ≠ src.val := fun e => h (Fin.ext e.symm)
    simp [Vector.getElem_set_ne, this]

/-! ## A FLUSH (R53) -/

/-- What follows on an open line with a FLUSH in progress (R53). -/
theorem settle_flush (u : State) (l : Fin 8) (z : Line) (g : LongReq) (hz : u.line l = z) (ho : z.isOpen) (hg : z.long = some g) (hk : g.kind = .flush) :
   (z.inCharacter = false → u.settle l = { u.setLine l { Line.standing (u.prof l) z with long := none } with reqs := u.reqs.answerLong g ⟨.ok, g.counts⟩ })
   ∧ (z.inCharacter = true → u.settle l = u.setLine l (Line.standing (u.prof l) z)) := by
  let y := Line.standing (u.prof l) z
  have hy : y.long = some g := by simp [y, hg]
  constructor
  · intro hch
    rw [settle_unfold u l y (by rw [hz])]
    have hfd : y.flushDone = true := by simp only [y, Line.flushDone_standing]; simp [Line.flushDone, Line.longIs, hg, hk, hch]
    have h1 : (u.setLine l y).testFlush l = { u.setLine l { y with long := none } with reqs := u.reqs.answerLong g ⟨.ok, g.counts⟩ } := by
      unfold State.testFlush State.completeFlush
      rw [State.line_setLine_same, if_pos hfd, hy]; simp only
      rw [finishLong_eq, State.line_setLine_same, hy, State.setLine_setLine]; rfl
    rw [h1]
    let v : State := { u.setLine l { y with long := none } with reqs := u.reqs.answerLong g ⟨.ok, g.counts⟩ }
    have hv : v.line l = { y with long := none } := u.line_setLine_same l _
    have hyo : ({ y with long := none } : Line).isOpen := by
      have : ({ y with long := none } : Line).state = z.state := by show (Line.standing _ z).state = _; simp
      unfold Line.isOpen; rw [this]; exact ho
    rw [isOpen_iff] at hyo
    have h2 : v.testDrain l = v := by unfold State.testDrain; rw [hv, show ({ y with long := none } : Line).underDrain = false by simp [Line.underDrain, Line.longIs]]; rfl
    have h3 : v.testClose l = v := by unfold State.testClose; rw [hv, if_neg]; simp [Line.closesNow, Line.longIs, Line.drainTaken]
    change ((v.testDrain l).testClose l).testPartReset = v
    rw [h2, h3, State.testPartReset_open v l (by rw [hv]; exact hyo.1)]
  · intro hch
    rw [settle_isOpen u l (by rw [hz]; exact ho) (by rw [hz]; simp [Line.flushDone, hch]), hz]

/-! ## All that follows within an event (log 1) -/

/-- What settle does, by the state of the line. -/
theorem settle_thenSettles (w : State) (l : Fin 8) : w.thenSettles l (w.settle l) := by
  unfold State.thenSettles
  intro x y
  refine ⟨fun h => settle_calm w l h, ?_, ?_⟩
  · intro g ho hg hf
    have hk : g.kind = .flush := by
      simp only [Line.flushDone, Line.longIs, hg, Bool.and_eq_true, beq_iff_eq] at hf; exact hf.1
    have hc : x.inCharacter = false := by
      simp only [Line.flushDone, Bool.and_eq_true, Bool.not_eq_true'] at hf; exact hf.2
    exact (settle_flush w l x g rfl ho hg hk).1 hc
  · intro g hst hg
    have hnf : y.flushDone = x.flushDone := Line.flushDone_standing _ _
    have hlong : y.long = x.long := by simp [y]
    have htf : ∀ k, g.kind = k → k ≠ .flush → (w.setLine l y).testFlush l = w.setLine l y := by
      intro k hk hne
      unfold State.testFlush
      rw [if_neg]
      rw [State.line_setLine_same]
      simp [Line.flushDone, Line.longIs, hlong, hg, hk, hne]
    refine ⟨?_, ?_, ?_⟩
    · intro hk hnc hd
      exact settle_drainDone w l x g rfl hst hg hk hnc hd
    · intro hh hni
      have hne : g.kind ≠ .flush := by rcases hh with h | h <;> simp [h.1]
      rw [settle_unfold w l y rfl, htf _ rfl hne]
      have htd : (w.setLine l y).testDrain l = w.setLine l y := by
        unfold State.testDrain
        rw [if_neg]
        rw [State.line_setLine_same]
        rcases hh with h | h <;> simp [Line.underDrain, Line.longIs, Line.drainTaken, hlong, hg, h]
      have hcl : ((w.setLine l y).line l).closesNow = true := by
        rw [State.line_setLine_same]
        have hn : x.noneInFrame = true := by simpa [Line.noneInFrame] using hni
        rw [Line.closesNow_standing]
        rcases hh with h | h <;> simp [Line.closesNow, Line.drainTaken, Line.longIs, Line.abortDone, hg, h, hst, hn]
      have e : (w.setLine l y).closedBy l g g.inBytes g.outBytes = w.closedBy l g g.inBytes g.outBytes := by
        have : y.closedFrom = x.closedFrom := by
          obtain ⟨e, t, q, u, he⟩ := Line.standing_frame (w.prof l) x
          show (x.standing _).closedFrom = _
          rw [he]; rfl
        simp only [State.closedBy, State.line_setLine_same, State.setLine_setLine, this]
        simp [y, State.setLine, x]
      rw [htd, testClose_closedBy _ l g (by rw [State.line_setLine_same, hlong, hg]) hcl, e]
      exact testPartReset_thenCompletesReset _
    · intro hh
      have hne : g.kind ≠ .flush := by rcases hh with h | h <;> simp [h.1]
      rw [settle_unfold w l y rfl, htf _ rfl hne]
      have htd : (w.setLine l y).testDrain l = w.setLine l y := by
        unfold State.testDrain
        rw [if_neg]
        rw [State.line_setLine_same]
        rcases hh with h | h <;> simp [Line.underDrain, Line.longIs, Line.drainTaken, hlong, hg, h]
      have hcl : ((w.setLine l y).line l).closesNow = false := by
        rw [State.line_setLine_same]
        rw [Line.closesNow_standing]
        have hni : (∃ c ∈ x.inQ, c.inFrame = true) → x.noneInFrame = false := by
          rintro ⟨c, h1, h2⟩
          simp only [Line.noneInFrame, List.all_eq_false]
          exact ⟨c, h1, by simp [h2]⟩
        rcases hh with ⟨h, h', h''⟩ | ⟨h, h' | h' | h'⟩
        · simp [Line.closesNow, hst, Line.drainTaken, Line.longIs, hg, h, h', hni h'']
        · simp [Line.closesNow, hst, Line.drainTaken, Line.longIs, hg, h, h', Line.abortDone]
        · simp [Line.closesNow, hst, Line.drainTaken, Line.longIs, hg, h, h', Line.abortDone]
        · simp [Line.closesNow, hst, Line.drainTaken, Line.longIs, hg, h, hni h', Line.abortDone]
      have htc : (w.setLine l y).testClose l = w.setLine l y := by
        unfold State.testClose; rw [hcl]; rfl
      rw [htd, htc, State.testPartReset_open _ l (by rw [State.line_setLine_same]; show (x.standing _).state ≠ _; rw [Line.state_standing, hst]; simp)]

end Sys2Proof.Machine
end

