-- ==== Sys2Proof/Laws/Frame.lean ====
section
/-!
SUPPORT. What an event on one line can touch: every shared operation of a line, and what follows it, leaves the other lines, the tables, the Trunk Port and the queue as they are.
-/
namespace Sys2Proof.Machine

/-- One state differs from another in one line's record, the pool, the Event Unit, the slots and the response order alone. -/
structure OnlyLine (l : Fin 8) (s t : State) : Prop where
  lines : ∀ k, k ≠ l → t.line k = s.line k
  profiles : t.profiles = s.profiles
  patterns : t.patterns = s.patterns
  trunk : t.trunk = s.trunk
  partReset : t.reqs.partReset = s.reqs.partReset
  pending : t.pending = s.pending

/-- Such a change, and then the completion of PART RESET where every line is CLOSED (R164). -/
def LineThenReset (l : Fin 8) (s t : State) : Prop := ∃ v, OnlyLine l s v ∧ (t = v ∨ t = v.testPartReset)

namespace OnlyLine
variable {l : Fin 8} {s t u : State}

/-- Nothing changed. -/
theorem refl : OnlyLine l s s := ⟨fun _ _ => rfl, rfl, rfl, rfl, rfl, rfl⟩

/-- One change after another. -/
theorem trans (h : OnlyLine l s t) (h' : OnlyLine l t u) : OnlyLine l s u :=
  ⟨fun k hk => (h'.lines k hk).trans (h.lines k hk), h'.profiles.trans h.profiles, h'.patterns.trans h.patterns, h'.trunk.trans h.trunk, h'.partReset.trans h.partReset, h'.pending.trans h.pending⟩

/-- The line replaced. -/
theorem setLine (h : OnlyLine l s t) (x) : OnlyLine l s (t.setLine l x) := h.trans ⟨fun _ hk => State.line_setLine_ne _ _ hk, rfl, rfl, rfl, rfl, rfl⟩

/-- The line changed. -/
theorem mapLine (h : OnlyLine l s t) (f) : OnlyLine l s (t.mapLine l f) := h.setLine _

/-- An event raised. -/
theorem raise (h : OnlyLine l s t) (j r) : OnlyLine l s (t.raise j r) := h.trans ⟨fun _ _ => rfl, rfl, rfl, rfl, rfl, rfl⟩

/-- Cells freed. -/
theorem freeCells (h : OnlyLine l s t) (n) : OnlyLine l s (t.freeCells n) := h.trans ⟨fun _ _ => rfl, rfl, rfl, rfl, rfl, rfl⟩

/-- Cells taken. -/
theorem takeCells (h : OnlyLine l s t) (n) : OnlyLine l s (t.takeCells n) := h.trans ⟨fun _ _ => rfl, rfl, rfl, rfl, rfl, rfl⟩

/-- A slot completed. -/
theorem complete (h : OnlyLine l s t) (n r) : OnlyLine l s (t.complete n r) := h.trans ⟨fun _ _ => rfl, rfl, rfl, rfl, rfl, rfl⟩

/-- Either of two changes. -/
theorem ite {c : Prop} [Decidable c] {a b : State} (ha : OnlyLine l s a) (hb : OnlyLine l s b) : OnlyLine l s (if c then a else b) := by split <;> assumption

/-- The long request ended (R40). -/
theorem finishLong (h : OnlyLine l s t) (r) : OnlyLine l s (t.finishLong l r) := by
  rcases t.finishLong_frame l r with e | ⟨_, n, _, _, e⟩ <;> rw [e]
  · exact h.mapLine _
  · exact (h.complete _ _).mapLine _

/-- Inbound cells discarded (R23). -/
theorem dropInbound (h : OnlyLine l s t) (k) : OnlyLine l s (t.dropInbound l k) := (h.setLine _).freeCells _

/-- Rt moved (R10). -/
theorem moveRt (h : OnlyLine l s t) (k) : OnlyLine l s (t.moveRt l k) := (h.setLine _).freeCells _

/-- Outbound data given up (R50). -/
theorem giveUpOutbound (h : OnlyLine l s t) : OnlyLine l s (t.giveUpOutbound l) := (h.setLine _).freeCells _

/-- The line enters CLOSED (R52). -/
theorem enterClosed (h : OnlyLine l s t) : OnlyLine l s (t.enterClosed l) := h.trans ⟨fun _ hk => State.line_setLine_ne _ _ hk, rfl, rfl, rfl, rfl, rfl⟩

/-- The FLUSH test (R53). -/
theorem testFlush (h : OnlyLine l s t) : OnlyLine l s (t.testFlush l) := by
  unfold State.testFlush State.completeFlush
  split
  · split
    · exact h.finishLong _
    · exact h
  · exact h

/-- The drain test (R48). -/
theorem testDrain (h : OnlyLine l s t) : OnlyLine l s (t.testDrain l) := by
  unfold State.testDrain State.takeDrain
  exact ite ((h.dropInbound _).mapLine _) h

/-- The close test (R51). -/
theorem testClose (h : OnlyLine l s t) : OnlyLine l s (t.testClose l) := by
  unfold State.testClose State.closeLine
  refine ite ?_ h
  split
  · exact (h.finishLong _).enterClosed
  · exact h.enterClosed

/-- What follows within an event. -/
theorem settle (h : OnlyLine l s t) : LineThenReset l s (t.settle l) :=
  ⟨_, (((h.mapLine _).testFlush).testDrain).testClose, Or.inr rfl⟩

/-- MARK events raised. -/
theorem foldl_raise (h : OnlyLine l s t) (f : Marker → EventRec) : ∀ (g : List Marker), OnlyLine l s (g.foldl (fun u m => u.raise l (f m)) t) := by
  intro g
  induction g generalizing t with
  | nil => exact h
  | cons a g ih => exact ih (h.raise _ _)

/-- Marks reached (R132). -/
theorem reachMarks (h : OnlyLine l s t) : OnlyLine l s (t.reachMarks l) := (h.setLine _).foldl_raise _ _

/-- A barrier reached (R134). -/
theorem reachBarrier (h : OnlyLine l s t) (p) : OnlyLine l s (t.reachBarrier l p) := by
  unfold State.reachBarrier
  split
  · exact h
  · split
    · split
      · exact h.mapLine _
      · exact (h.mapLine _).raise _ _
    · exact h

/-- A stall (R86). -/
theorem stall (h : OnlyLine l s t) : OnlyLine l s (t.stall l) := by
  unfold State.stall State.failDrain
  exact ((ite (h.finishLong _) h).mapLine _).raise _ _

/-- A resend or a stall (R83). -/
theorem retryOrStall (h : OnlyLine l s t) : OnlyLine l s (t.retryOrStall l) := by
  unfold State.retryOrStall
  exact ite (h.mapLine _) h.stall

/-- The oldest block retired (R79). -/
theorem retireOldest (h : OnlyLine l s t) (b) : OnlyLine l s (t.retireOldest l b) := by
  unfold State.retireOldest
  exact (((((h.mapLine _).moveRt _).reachMarks).mapLine _).mapLine _)

/-- A stray ack (R80). -/
theorem strayAck (h : OnlyLine l s t) : OnlyLine l s (t.strayAck l) := (h.mapLine _).raise _ _

/-- A late ack (R80). -/
theorem lateAck (h : OnlyLine l s t) : OnlyLine l s (t.lateAck l) := (h.mapLine _).raise _ _

/-- An ack taken (R79). -/
theorem takeAck (h : OnlyLine l s t) : OnlyLine l s (t.takeAck l) := by
  unfold State.takeAck
  simp only
  split
  · exact h.strayAck
  · exact ite (h.retireOldest _) h.lateAck

/-- A nak taken (R81). -/
theorem takeNak (h : OnlyLine l s t) : OnlyLine l s (t.takeNak l) := by
  unfold State.takeNak
  simp only
  split
  · exact h.strayAck
  · exact ite h.retryOrStall h.strayAck

/-- A block end completes (R76). -/
theorem endCompletes (h : OnlyLine l s t) (c) : OnlyLine l s (t.endCompletes l c) := by
  unfold State.endCompletes
  simp only
  split
  · exact h
  · split
    · exact (h.mapLine _).reachBarrier _
    · exact h
  · split
    · exact (h.mapLine _).reachBarrier _
    · exact h

/-- A data byte completes (R88). -/
theorem byteCompletes (h : OnlyLine l s t) (c) : OnlyLine l s (t.byteCompletes l c) := by
  unfold State.byteCompletes
  exact ite (((h.moveRt _).reachMarks).reachBarrier _) h

/-- The pacer's part of a completion (R63). -/
theorem pacerCompletes (h : OnlyLine l s t) (c) : OnlyLine l s (t.pacerCompletes l c) := by
  unfold State.pacerCompletes
  split
  · exact h
  · exact h.endCompletes _
  · exact ite (h.endCompletes _) (h.byteCompletes _)

/-- A combination adopted (R116). -/
theorem adopt (h : OnlyLine l s t) (c) : OnlyLine l s (t.adopt l c) := by
  unfold State.adopt State.reportCondition
  simp only
  split
  · exact h.mapLine _
  · split
    · exact (((h.mapLine _).mapLine _).mapLine _).raise _ _
    · exact (h.mapLine _).mapLine _

/-- A character stored or lost (R101). -/
theorem storeIn (h : OnlyLine l s t) (b) : OnlyLine l s (t.storeIn l b) := by
  unfold State.storeIn
  simp only
  split
  · exact h.setLine _
  · split
    · exact (h.setLine _).takeCells _
    · exact (h.mapLine _).raise _ _

/-- A good character (R100). -/
theorem goodCharacter (h : OnlyLine l s t) (b) : OnlyLine l s (t.goodCharacter l b) := by
  unfold State.goodCharacter State.goodUnderCode
  simp only
  split
  · exact (h.mapLine _).storeIn _
  · split
    · exact (h.mapLine _).mapLine _
    · split
      · exact (h.mapLine _).mapLine _
      · exact ((h.mapLine _).mapLine _).storeIn _
  · split
    · exact (h.mapLine _).takeAck
    · split
      · exact (h.mapLine _).takeNak
      · exact (h.mapLine _).storeIn _

/-- A completed character sorted (R95). -/
theorem sortCharacter (h : OnlyLine l s t) (a b c) : OnlyLine l s (t.sortCharacter l a b c) := by
  unfold State.sortCharacter State.breakDetected State.framingError State.parityError
  simp only
  split
  · exact ite (((h.mapLine _).raise _ _).dropInbound _) ((h.mapLine _).raise _ _)
  · split
    · exact (h.mapLine _).raise _ _
    · split
      · exact (h.mapLine _).raise _ _
      · exact h.goodCharacter _

/-- A DATA frame refused (R15). -/
theorem refuseData (h : OnlyLine l s t) (r n) : OnlyLine l s (t.refuseData l r n) := (h.mapLine _).raise _ _

/-- A DATA frame taken (R14). -/
theorem takeData (h : OnlyLine l s t) (p) : LineThenReset l s (t.takeData l p) := by
  unfold State.takeData State.acceptData
  simp only
  split
  · exact ⟨_, h.refuseData _ _, Or.inl rfl⟩
  · split
    · exact ⟨_, h.refuseData _ _, Or.inl rfl⟩
    · split
      · exact ⟨_, h.refuseData _ _, Or.inl rfl⟩
      · exact ((h.setLine _).takeCells _).settle
end OnlyLine

end Sys2Proof.Machine
end

