-- ==== Sys2Proof/Laws/Outbound.lean ====
section
/-!
SUPPORT. The outbound pacer's shared operations: marks and barriers reached, the tail of a completion, the ack timer, a choice that starts a character, and the storing of a frame's bytes.
-/
namespace Sys2Proof.Machine

/-! ## Marks and barriers (R132 to R135) -/

/-- Events raised one after another change the Event Unit alone. -/
theorem foldl_raise (l : Fin 8) (f : Marker → EventRec) : ∀ (g : List Marker) (u : State),
   g.foldl (fun t m => t.raise l (f m)) u = { u with events := g.foldl (fun e m => e.raise l.castSucc (f m)) u.events } := by
  intro g
  induction g with
  | nil => intro u; rfl
  | cons a g ih => intro u; rw [List.foldl_cons, ih]; rfl

/-- Everything the reaching of marks does (R132). -/
theorem reachMarks_eq (s : State) (l : Fin 8) : s.reachMarks l = { s.setLine l { s.line l with markers := (s.line l).markers.filter (fun m => !(m.kind == .mark && posLt m.pos (s.line l).Rt)) } with
   events := ((s.line l).markers.filter (fun m => m.kind == .mark && posLt m.pos (s.line l).Rt)).foldl (fun e m => e.raise l.castSucc (.mark 1 m.tag m.accepted)) s.events } := by
  unfold State.reachMarks
  simp only
  rw [foldl_raise]
  rfl

/-- Removing MARK markers leaves the barrier. -/
theorem barrier_filter (x : Line) (rt : Pos) : ({ x with markers := x.markers.filter (fun m => !(m.kind == .mark && posLt m.pos rt)) } : Line).barrier = x.barrier := by
  unfold Line.barrier
  simp only
  rw [List.find?_filter]
  congr 1
  funext m
  cases m.kind <;> simp

/-- Everything the reaching of a barrier does (R134, R135). -/
theorem reachBarrier_cases (s : State) (l : Fin 8) (pos : Pos) :
   ((∀ m, (s.line l).barrier = some m → m.pos ≠ pos) → s.reachBarrier l pos = s)
   ∧ ∀ m, (s.line l).barrier = some m → m.pos = pos →
       (m.reached = true → s.reachBarrier l pos = s.mapLine l Line.enterHeld)
       ∧ (m.reached = false → s.reachBarrier l pos = (s.mapLine l (fun ln => Line.enterHeld { ln with markers := setReached ln.markers })).raise l (.hold m.tag m.accepted)) := by
  refine ⟨fun h => ?_, fun m hm hp => ⟨fun hr => ?_, fun hr => ?_⟩⟩
  · unfold State.reachBarrier
    split
    · rfl
    · rename_i m hm; rw [if_neg (h m hm)]
  · unfold State.reachBarrier; rw [hm]; simp only; rw [if_pos hp, if_pos hr]
  · unfold State.reachBarrier; rw [hm]; simp only; rw [if_pos hp, if_neg (by simp [hr])]

/-- The oldest HOLD marker once it is reached. -/
theorem find_setReached : ∀ (l : List Marker) (m : Marker), l.find? (fun m => m.kind == .hold) = some m → (setReached l).find? (fun m => m.kind == .hold) = some { m with reached := true } := by
  intro l
  induction l with
  | nil => intro m h; simp at h
  | cons a l ih =>
    intro m h
    unfold setReached
    by_cases hk : a.kind = .hold
    · rw [List.find?_cons_of_pos (by simp [hk])] at h
      cases h
      rw [if_pos hk, List.find?_cons_of_pos (by simp [hk])]
    · rw [List.find?_cons_of_neg (by simp [hk])] at h
      rw [if_neg hk, List.find?_cons_of_neg (by simp [hk])]
      exact ih m h

/-- Setting the reached flag changes the oldest HOLD marker alone. -/
theorem setReached_split : ∀ (l : List Marker) (m : Marker), l.find? (fun m => m.kind == .hold) = some m →
    ∃ older newer, l = older ++ m :: newer ∧ (∀ k ∈ older, k.kind ≠ .hold)
      ∧ setReached l = older ++ { m with reached := true } :: newer := by
  intro l
  induction l with
  | nil => intro m h; simp at h
  | cons a l ih =>
    intro m h
    unfold setReached
    by_cases hk : a.kind = .hold
    · rw [List.find?_cons_of_pos (by simp [hk])] at h
      cases h
      exact ⟨[], l, rfl, by simp, by rw [if_pos hk]; rfl⟩
    · rw [List.find?_cons_of_neg (by simp [hk])] at h
      obtain ⟨o, w, h1, h2, h3⟩ := ih m h
      refine ⟨a :: o, w, by rw [h1]; rfl, ?_, by rw [if_neg hk, h3]; rfl⟩
      intro k hm
      rcases List.mem_cons.mp hm with e | e
      · rw [e]; exact hk
      · exact h2 k e

/-- A RUNNING line becomes HELD. -/
theorem enterHeld_eq (x : Line) : x.enterHeld = { x with state := if x.state = .running then .held else x.state } := by
  unfold Line.enterHeld; split <;> simp_all

/-- Freeing leaves no more cells than there were. -/
theorem length_dropWhile_le {α} (p : α → Bool) (l : List α) : (l.dropWhile p).length ≤ l.length := (List.dropWhile_sublist p).length_le

/-! ## Completions (R63) -/

/-- What follows a character: the break that is pending, else the gap or IDLE (R63, R90). -/
theorem afterCharacter_frame (p : Profile) (x : Line) : ∃ t b g k, Line.afterCharacter p x = { x with tx := t, brk := b, gapTimer := g, breakTimer := k }
    ∧ (x.brk = .pending → t = .brk ∧ b = .inProgress ∧ g = .stopped ∧ k = .running p.breakTime)
    ∧ (x.brk ≠ .pending → b = x.brk ∧ k = x.breakTimer ∧ (p.gap = 0 → t = .idle ∧ g = x.gapTimer)
      ∧ (p.gap ≠ 0 → t = .gap ∧ g = .running p.gap)) := by
  unfold Line.afterCharacter
  split
  · rename_i h; exact ⟨_, _, _, _, rfl, fun _ => ⟨rfl, rfl, rfl, rfl⟩, fun h' => absurd h h'⟩
  · rename_i h
    unfold Line.enterGap
    split
    · rename_i hg
      exact ⟨.idle, x.brk, x.gapTimer, x.breakTimer, rfl, fun h' => absurd h' h, fun _ => ⟨rfl, rfl, fun _ => ⟨rfl, rfl⟩, fun h => absurd hg h⟩⟩
    · rename_i hg
      exact ⟨.gap, x.brk, _, x.breakTimer, rfl, fun h' => absurd h' h, fun _ => ⟨rfl, rfl, fun h => absurd h hg, fun _ => ⟨rfl, rfl⟩⟩⟩

/-- A start of the ack timer (R77). -/
theorem ackStart_eq (p : Profile) (x : Line) : x.ackStart p = { x with ackTimer := if x.ackTimer = .stopped ∧ x.state ≠ .stalled then (if x.cond.suspends then AckTimer.suspended else .running p.ackTimeout) else x.ackTimer } := by
  unfold Line.ackStart Line.fullAck; split <;> rfl

/-- Everything the completion of the last part of a position can do at a barrier (R134, R135). -/
theorem reachBarrier_frame (s : State) (l : Fin 8) (pos : Pos) :
   ∃ st ms ev, s.reachBarrier l pos = { s.setLine l { s.line l with state := st, markers := ms } with events := ev }
    ∧ (s.line l).reachesBarrier pos l.castSucc (s.line l).markers s.events { s.line l with state := st, markers := ms } ev := by
  obtain ⟨hno, hyes⟩ := reachBarrier_cases s l pos
  by_cases hbar : ∃ m, (s.line l).barrier = some m ∧ m.pos = pos
  · obtain ⟨m, hm, hmp⟩ := hbar
    obtain ⟨hr1, hr0⟩ := hyes m hm hmp
    cases hr : m.reached with
    | true =>
      refine ⟨if (s.line l).state = .running then .held else (s.line l).state, (s.line l).markers, s.events, ?_, fun h => absurd hmp (h m hm), ?_⟩
      · rw [hr1 hr, State.mapLine, enterHeld_eq]; rfl
      · intro m' hm' _
        rw [hm] at hm'; cases hm'
        refine ⟨rfl, ?_, fun _ => ⟨rfl, rfl⟩, fun h => absurd h (by simp [hr])⟩
        show (match (s.line l).barrier with | some m => m.reached | none => false) = true
        rw [hm]; exact hr
    | false =>
      refine ⟨if (s.line l).state = .running then .held else (s.line l).state, setReached (s.line l).markers, s.events.raise l.castSucc (.hold m.tag m.accepted), ?_, fun h => absurd hmp (h m hm), ?_⟩
      · rw [hr0 hr, State.mapLine, enterHeld_eq]; rfl
      · intro m' hm' _
        rw [hm] at hm'; cases hm'
        refine ⟨rfl, ?_, fun h => absurd h (by simp [hr]), fun _ => ⟨rfl, setReached_split _ _ hm⟩⟩
        have : (setReached (s.line l).markers).find? (fun m => m.kind == .hold) = some { m with reached := true } := find_setReached _ m hm
        show (match (setReached (s.line l).markers).find? (fun m => m.kind == .hold) with | some m => m.reached | none => false) = true
        rw [this]
  · have hno' : ∀ m, (s.line l).barrier = some m → m.pos ≠ pos := fun m hm hp => hbar ⟨m, hm, hp⟩
    refine ⟨(s.line l).state, (s.line l).markers, s.events, ?_, fun _ => ⟨rfl, rfl, rfl⟩, fun m hm hp => absurd hp (hno' m hm)⟩
    rw [hno hno']
    show s = s.setLine l (s.line l)
    simp [State.setLine, State.line]

/-! ## Choices (R64) -/

/-- A choice that starts a character is that and the standing updates. -/
theorem exec_choice_idle (s : State) (l : Fin 8) (y : Line) (h : (s.line l).tx = .idle) (hy : Line.choose (s.prof l) (s.line l) = y)
    (hb : y.binding = (s.line l).binding) (ch : ShiftChar) (hc : y.tx = .character ch) (hw : y.isOpen ∨ y.underDrain = true) :
    exec (.transmitterChoice l) s = .next (s.setLine l (Line.standing (s.prof l) y)) := by
  show Host.Outcome.next (s.transmitterChoice l) = _
  rw [State.transmitterChoice, if_pos h]
  have e : s.mapLine l (Line.choose (s.prof l)) = s.setLine l y := by rw [State.mapLine, hy]
  rw [e]
  have hp : (s.setLine l y).prof l = s.prof l := s.prof_setLine_same l y hb
  have hl : (s.setLine l y).line l = y := s.line_setLine_same l y
  rcases hw with hw | hw
  · rw [settle_isOpen _ l (by rw [hl]; exact hw) (by rw [hl]; exact flushDone_of_character y ch hc), hl, hp, State.setLine_setLine]
  · rw [settle_underDrain _ l (by rw [hl]; exact hw) (by rw [hl]; exact drainDone_of_character y ch hc), hl, hp, State.setLine_setLine]

/-- No inbound-pacing code is due (R65). -/
theorem codeMayGo_false {p : Profile} {x : Line} (h : p.inPacing ≠ .code ∨ x.wanted = x.lastSent) : ¬ x.codeMayGo p = true := by
  simp only [Line.codeMayGo, Bool.and_eq_true, beq_iff_eq, bne_iff_ne]
  rintro ⟨⟨⟨h1, h2⟩, _⟩, _⟩
  rcases h with h | h
  · exact h h1
  · exact h2 h

/-! ## Conditions (R78, R119) -/

/-- The conditions that suspend the ack timer (R78). -/
theorem suspends_iff (c : Condition) : c.suspends = true ↔ (c = .offline ∨ c = .mediaOut ∨ c = .detached) := by
  cases c <;> simp [Condition.suspends]

/-- The ack timer at a change of condition (R78, R119). -/
theorem ackOnCondition_eq (p : Profile) (x : Line) : x.ackOnCondition p = { x with ackTimer := match x.ackTimer with
        | .stopped => AckTimer.stopped
        | .running ms => if x.cond = .offline ∨ x.cond = .mediaOut ∨ x.cond = .detached then .suspended else .running ms
        | .suspended => if x.cond = .offline ∨ x.cond = .mediaOut ∨ x.cond = .detached then .suspended
            else .running p.ackTimeout } := by
  have hs := suspends_iff x.cond
  have self : ∀ a, x.ackTimer = a → x = { x with ackTimer := a } := by intro a h; rw [← h]
  unfold Line.ackOnCondition
  cases hq : x.ackTimer with
  | stopped => exact self _ hq
  | running ms =>
    simp only
    by_cases hh : x.cond.suspends = true
    · rw [if_pos hh, if_pos (hs.mp hh)]
    · rw [if_neg hh, if_neg (fun e => hh (hs.mpr e))]; exact self _ hq
  | suspended =>
    simp only
    by_cases hh : x.cond.suspends = true
    · rw [if_pos hh, if_pos (hs.mp hh)]; exact self _ hq
    · rw [if_neg hh, if_neg (fun e => hh (hs.mpr e))]

/-! ## Storing (R9) -/

/-- Storing a byte appends it and raises S (R9). -/
theorem storeByte_frame (x : Line) (b : Byte) : ∃ q, x.storeByte b = { x with outQ := q, S := x.S + 1 } ∧ q.flatMap OutCell.bytes = x.outQ.flatMap OutCell.bytes ++ [b] := by
  unfold Line.storeByte Line.newCell
  split
  · rename_i c hc
    split
    · refine ⟨_, rfl, ?_⟩
      obtain ⟨q, hq⟩ := List.getLast?_eq_some_iff.mp hc
      rw [hq]
      simp
    · refine ⟨_, rfl, ?_⟩
      simp
  · refine ⟨_, rfl, ?_⟩
    simp

/-- Storing bytes appends them and raises S by their number (R9). -/
theorem storeBytes_frame : ∀ (bs : List Byte) (x : Line), ∃ q, x.storeBytes bs = { x with outQ := q, S := x.S + BitVec.ofNat 32 bs.length } ∧ q.flatMap OutCell.bytes = x.outQ.flatMap OutCell.bytes ++ bs := by
  intro bs
  induction bs with
  | nil => intro x; exact ⟨x.outQ, by simp [Line.storeBytes], by simp⟩
  | cons b bs ih =>
    intro x
    obtain ⟨q, h1, h2⟩ := storeByte_frame x b
    obtain ⟨q', h3, h4⟩ := ih (x.storeByte b)
    refine ⟨q', ?_, ?_⟩
    · show (x.storeByte b).storeBytes bs = _
      rw [h3, h1]
      have : x.S + 1 + BitVec.ofNat 32 bs.length = x.S + BitVec.ofNat 32 (b :: bs).length := by
        rw [BitVec.add_assoc]; congr 1
        simp [BitVec.ofNat_add, BitVec.add_comm]
      simp only [this]
    · rw [h4, h1]; simp [h2]

/-- Everything the acceptance of a frame does to its line (R9, R14, R129). -/
theorem accept_frame (p : Profile) (o : Scan) (n : Nat) (x : Line) : ∃ q g, x.accept p o n = { x with outQ := q, S := x.S + BitVec.ofNat 32 o.stored.length, A := x.A + BitVec.ofNat 32 n, markers := x.markers ++ o.marks.map (fun m => m.marker x.A x.S), grantDue := g }
     ∧ q.flatMap OutCell.bytes = x.outQ.flatMap OutCell.bytes ++ o.stored ∧ (g = true ↔ x.grantDue = true ∨ n = 0 ∨ x.becomesDue p { x with outQ := q, S := x.S + BitVec.ofNat 32 o.stored.length, A := x.A + BitVec.ofNat 32 n }) ∧ (o.stored = [] → q = x.outQ) := by
  obtain ⟨q, h1, h2⟩ := storeBytes_frame o.stored x
  let y : Line := { x with outQ := q, S := x.S + BitVec.ofNat 32 o.stored.length, A := x.A + BitVec.ofNat 32 n }
  have hg : ((grantTest p x y).grantDue || n == 0) = true ↔ x.grantDue = true ∨ n = 0 ∨ x.becomesDue p y := by
    rw [Bool.or_eq_true, grantDue_grantTest, beq_iff_eq, or_assoc, or_comm (a := x.becomesDue p y)]
  refine ⟨q, _, ?_, h2, hg, fun h => ?_⟩
  · unfold Line.accept
    simp only [h1]
    rfl
  · rw [h] at h1
    exact (congrArg Line.outQ h1).symm

/-! ## Entering STALLED (R86, R49) -/

/-- The line enters STALLED with blocks outstanding: its record, the answer to a drain in progress and the STALL event. -/
theorem State.stall_eq (s : State) (l : Fin 8) (first last : Block) (hf : (s.line l).blocks.head? = some first)
    (hl : (s.line l).blocks.getLast? = some last) :
    s.stall l = { s.setLine l
        { s.line l with
          state := .stalled
          ackTimer := .stopped
          pauseTimer := .stopped
          pause := .none
          T := if posLt (s.line l).T last.fin then last.fin else (s.line l).T
          long := if (s.line l).longIs .closeDrain then none else (s.line l).long } with
      events := s.events.raise l.castSucc (.stall (s.line l).blocks.length (s.line l).retry first.start)
      reqs := if (s.line l).longIs .closeDrain then
          (match (s.line l).long with
          | some g => s.reqs.answerLong g ⟨.drainFailed, []⟩
          | none => s.reqs)
        else s.reqs } := by
  have hT : ∀ lg, ({ s.line l with long := lg } : Line).stallCursor
      = if posLt (s.line l).T last.fin then last.fin else (s.line l).T := by
    intro lg; simp [Line.stallCursor, Line.newestEnd, hl]
  have hS : (s.line l).oldestStart = first.start := by simp [Line.oldestStart, hf]
  have hnone : ∀ u : State, u.line l = s.line l → (u.mapLine l (fun ln => { ln with long := none })).mapLine l Line.enterStalled
      = u.setLine l { s.line l with
          state := .stalled
          ackTimer := .stopped
          pauseTimer := .stopped
          pause := .none
          T := if posLt (s.line l).T last.fin then last.fin else (s.line l).T
          long := none } := by
    intro u hu
    rw [show u.mapLine l (fun ln => { ln with long := none }) = u.setLine l { u.line l with long := none } from rfl,
      State.setLine_mapLine, hu, Line.enterStalled, hT]
  rw [← hS]
  unfold State.stall State.failDrain
  by_cases h : (s.line l).longIs .closeDrain = true
  · rw [if_pos h, if_pos h, if_pos h]
    unfold State.finishLong
    cases hg : (s.line l).long with
    | none => rw [Line.longIs, hg] at h; cases h
    | some g =>
      dsimp only [RequestUnit.answerLong]
      cases g.slot with
      | none => exact congrArg (fun t : State => t.raise l _) (hnone s rfl)
      | some n => exact congrArg (fun t : State => t.raise l _) (hnone (s.complete n ⟨.drainFailed, []⟩) rfl)
  · rw [if_neg h, if_neg h, if_neg h, State.mapLine, Line.enterStalled, show (s.line l).stallCursor = _ from hT (s.line l).long]
    rfl

end Sys2Proof.Machine
end

