-- ==== Sys2Proof/Laws/PartReset.lean ====
section
/-!
SUPPORT. PART RESET: one line aborted or left alone, the eight lines one after another with the completion that may follow, and the completion itself (R163, R164).
-/
namespace Sys2Proof.Machine

/-! ## One line (R163) -/

/-- PART RESET aborts a line that is not CLOSED, under no abort, and whose drain's completion has not been taken. -/
def Line.resetAborts (x : Line) : Prop := x.state ≠ .closed ∧ x.drainTaken = false ∧ x.underAbort = false

/-- An aborted line waits for the character in its shift register and for an inbound frame that carries its cells (R51). -/
def Line.resetWaits (x : Line) : Prop := x.inCharacter = true ∨ ∃ c ∈ x.inQ, c.inFrame = true

/-- What the taking of PART RESET makes of a line, y after x. -/
def Line.resetTo (p : Profile) (x y : Line) : Prop :=
  ((x.state = .closed ∨ x.drainTaken = true) → y = x)
  ∧ (x.state ≠ .closed → x.drainTaken = false → x.underAbort = true →
      y = { x with long := x.long.map (fun g => { g with slot := none }) })
  ∧ (x.resetAborts → ¬ x.resetWaits → y = x.closedFrom)
  ∧ (x.resetAborts → x.resetWaits → x.abortTaken p none y ∧ y.inCharacter = x.inCharacter)

/-- A line is CLOSED after the taking of PART RESET exactly when it was, or is aborted and waits for nothing. -/
theorem Line.resetTo_closed {p : Profile} {x y : Line} (h : x.resetTo p y) :
    y.state = .closed ↔ x.state = .closed ∨ (x.resetAborts ∧ ¬ x.resetWaits) := by
  obtain ⟨h1, h2, h3, h4⟩ := h
  by_cases hc : x.state = .closed
  · simp [h1 (Or.inl hc), hc]
  cases hd : x.drainTaken with
  | true => rw [h1 (Or.inr hd)]; simp [hc, Line.resetAborts, hd]
  | false =>
    cases ha : x.underAbort with
    | true => rw [h2 hc hd ha]; simp [hc, Line.resetAborts, ha]
    | false =>
      have hab : x.resetAborts := ⟨hc, hd, ha⟩
      by_cases hw : x.resetWaits
      · obtain ⟨⟨he, _⟩, _⟩ := h4 hab hw
        have : y.state = .draining := by rw [he]
        simp [this, hc, hw]
      · rw [h3 hab hw]; simp [Line.closedFrom, hab, hw]

/-! ## The lines one after another (R163) -/

/-- The states u and v differ in the lines of a list and in what their aborts give back. -/
structure ResetLines (u v : State) (ls : List (Fin 8)) : Prop where
  line : ∀ l ∈ ls, (u.line l).resetTo (u.prof l) (v.line l)
  other : ∀ l, l ∉ ls → v.line l = u.line l
  reqs : v.reqs = u.reqs
  trunk : v.trunk = u.trunk
  profiles : v.profiles = u.profiles
  patterns : v.patterns = u.patterns
  queue : v.pending = u.pending
  refresh : v.pool.refresh = u.pool.refresh ∧ v.pool.refreshTimer = u.pool.refreshTimer
  free : v.pool.free + v.sumLines (fun x => x.outQ.length + x.inQ.length)
    = u.pool.free + u.sumLines (fun x => x.outQ.length + x.inQ.length)
  unreserved : v.pool.unreserved + v.sumLines (fun x => x.resOut + x.resIn)
    = u.pool.unreserved + u.sumLines (fun x => x.resOut + x.resIn)
  events : v.events = { u.events with pending := v.events.pending }
  place : ∀ c src, (∃ l ∈ ls, src = l.castSucc ∧ (u.line l).resetAborts) ∧ v.events.place c src = none
    ∨ (¬ ∃ l ∈ ls, src = l.castSucc ∧ (u.line l).resetAborts) ∧ v.events.place c src = u.events.place c src

/-- A sum over a list with one element replaced. -/
theorem sum_map_set {α : Type} (f : α → Nat) (y : α) :
    ∀ (q : List α) (n : Nat) (h : n < q.length), ((q.set n y).map f).sum + f q[n] = (q.map f).sum + f y := by
  intro q
  induction q with
  | nil => intro n h; exact absurd h (Nat.not_lt_zero n)
  | cons a q ih =>
    intro n h
    cases n with
    | zero => simp only [List.set_cons_zero, List.map_cons, List.sum_cons, List.getElem_cons_zero]; omega
    | succ k =>
      have := ih k (Nat.lt_of_succ_lt_succ h)
      simp only [List.set_cons_succ, List.map_cons, List.sum_cons, List.getElem_cons_succ]; omega

/-- A sum over the lines with one line replaced. -/
theorem sumLines_setLine (s : State) (l : Fin 8) (y : Line) (f : Line → Nat) :
    (s.setLine l y).sumLines f + f (s.line l) = s.sumLines f + f y := by
  have h := sum_map_set f y s.lines.toList l.val (by simp)
  rw [Vector.getElem_toList] at h
  show ((s.lines.set l.val y l.isLt).toList.map f).sum + f s.lines[l.val] = _
  rw [Vector.toList_set]; exact h

/-- A line replaced, with what it gives back and its event records removed, is such a step. -/
theorem ResetLines.one (u : State) (l : Fin 8) (y : Line) (f g : Nat) (ev : EventUnit) (hy : (u.line l).resetTo (u.prof l) y)
    (hf : f + (y.outQ.length + y.inQ.length) = u.pool.free + ((u.line l).outQ.length + (u.line l).inQ.length))
    (hg : g + (y.resOut + y.resIn) = u.pool.unreserved + ((u.line l).resOut + (u.line l).resIn))
    (hev : (u.line l).resetAborts ∧ ev = u.events.removeLine l ∨ ¬ (u.line l).resetAborts ∧ ev = u.events) :
    ResetLines u { u.setLine l y with pool := { u.pool with free := f, unreserved := g }, events := ev } [l] where
  line := by
    intro k hk; simp only [List.mem_singleton] at hk; subst hk
    show Line.resetTo _ _ ((u.setLine k y).line k)
    rw [State.line_setLine_same]; exact hy
  other := fun k hk => State.line_setLine_ne _ _ (by simpa using hk)
  reqs := rfl
  trunk := rfl
  profiles := rfl
  patterns := rfl
  queue := rfl
  refresh := ⟨rfl, rfl⟩
  free := by
    have := sumLines_setLine u l y (fun x => x.outQ.length + x.inQ.length)
    show f + (u.setLine l y).sumLines _ = _
    omega
  unreserved := by
    have := sumLines_setLine u l y (fun x => x.resOut + x.resIn)
    show g + (u.setLine l y).sumLines _ = _
    omega
  events := by rcases hev with ⟨_, h⟩ | ⟨_, h⟩ <;> rw [h]; rfl
  place := by
    intro c src
    show _ ∧ ev.place c src = _ ∨ _ ∧ ev.place c src = _
    simp only [List.mem_singleton, exists_eq_left]
    rcases hev with ⟨ha, h⟩ | ⟨ha, h⟩
    · rw [h, place_removeLine]
      by_cases hs : src = l.castSucc
      · exact Or.inl ⟨⟨hs, ha⟩, by rw [if_pos hs]⟩
      · exact Or.inr ⟨fun e => hs e.1, by rw [if_neg hs]⟩
    · rw [h]; exact Or.inr ⟨fun e => ha e.2, rfl⟩


/-- A discard leaves as many cells as it does not give back. -/
theorem length_filter_le_inQ (q : List InCell) (f : InCell → Bool) : (q.filter f).length ≤ q.length := List.length_filter_le _ _

/-- One line under PART RESET, with the completion that may follow. -/
theorem resetLine_frame (u : State) (l : Fin 8) :
    ∃ v, ResetLines u v [l] ∧ (u.resetLine l = v ∨ u.resetLine l = v.testPartReset) := by
  have same : (u.line l).resetTo (u.prof l) (u.line l) → ¬ (u.line l).resetAborts → ResetLines u u [l] := by
    intro h hn
    have := ResetLines.one u l (u.line l) u.pool.free u.pool.unreserved u.events h rfl rfl (Or.inr ⟨hn, rfl⟩)
    rwa [State.setLine_line] at this
  unfold State.resetLine
  simp only
  by_cases hc : (u.line l).state = .closed
  · rw [if_pos hc]
    exact ⟨u, same ⟨fun _ => rfl, fun h => absurd hc h, fun h => absurd hc h.1, fun h => absurd hc h.1⟩ (fun h => h.1 hc), Or.inl rfl⟩
  rw [if_neg hc]
  cases hd : (u.line l).drainTaken with
  | true =>
    simp only [if_true]
    have hn : ¬ (u.line l).resetAborts := fun h => absurd h.2.1 (by rw [hd]; simp)
    exact ⟨u, same ⟨fun _ => rfl, fun _ h => absurd h (by rw [hd]; simp), fun h => absurd h hn, fun h => absurd h hn⟩ hn, Or.inl rfl⟩
  | false =>
    rw [if_neg Bool.false_ne_true]
    cases ha : (u.line l).underAbort with
    | true =>
      simp only [if_true]
      have hn : ¬ (u.line l).resetAborts := fun h => absurd h.2.2 (by rw [ha]; simp)
      refine ⟨_, ResetLines.one u l { u.line l with long := (u.line l).long.map (fun g => { g with slot := none }) } u.pool.free
        u.pool.unreserved u.events ⟨fun h => ?_, fun _ _ _ => rfl, fun h => absurd h hn, fun h => absurd h hn⟩ rfl rfl
        (Or.inr ⟨hn, rfl⟩), Or.inl rfl⟩
      rcases h with h | h
      · exact absurd h hc
      · exact absurd h (by rw [hd]; simp)
    | false =>
      rw [if_neg Bool.false_ne_true]
      have hab : (u.line l).resetAborts := ⟨hc, hd, ha⟩
      have h0 : ∀ {P : Prop}, (u.line l).state = .closed ∨ (u.line l).drainTaken = true → P := fun h => by
        rcases h with h | h
        · exact absurd h hc
        · exact absurd h (by rw [hd]; simp)
      obtain ⟨h1, h2⟩ := settle_abortLine u l none (u.line l) rfl
      have hw : ¬ (u.line l).resetWaits ↔ ((u.line l).inCharacter = false ∧ ∀ c ∈ (u.line l).inQ, c.inFrame = false) := by
        simp [Line.resetWaits]
      by_cases hcl : (u.line l).inCharacter = false ∧ ∀ c ∈ (u.line l).inQ, c.inFrame = false
      · refine ⟨_, ResetLines.one u l (u.line l).closedFrom _ _ _ ⟨h0, fun _ _ h => absurd h (by rw [ha]; simp), fun _ _ => rfl,
          fun _ h => absurd hcl (fun e => (hw.mpr e) h)⟩ ?_ ?_ (Or.inl ⟨hab, rfl⟩), Or.inr (h1 hcl)⟩
        · simp [Line.closedFrom]
        · simp [Line.closedFrom]
      · obtain ⟨y, hy, he⟩ := h2 hcl
        have hyq : y.inQ = (u.line l).inQ.filter (fun c => c.inFrame) := by rw [hy.1]
        have hyo : y.outQ = [] := by rw [hy.1]
        have hyr : y.resOut = (u.line l).resOut ∧ y.resIn = (u.line l).resIn := by rw [hy.1]; exact ⟨rfl, rfl⟩
        have hyc : y.inCharacter = (u.line l).inCharacter := by
          have := inCharacter_abortedLine (u.line l) none y.idleTimer y.wanted y.lastSent y.rdyo y.grantDue
          rw [← this]; conv => lhs; rw [hy.1]
          rfl
        refine ⟨_, ResetLines.one u l y (u.pool.free + (u.line l).outQ.length
            + ((u.line l).inQ.length - ((u.line l).inQ.filter (fun c => c.inFrame)).length)) u.pool.unreserved _
          ⟨h0, fun _ _ h => absurd h (by rw [ha]; simp), fun _ h => absurd (hw.mp h) hcl, fun _ _ => ⟨hy, hyc⟩⟩ ?_ ?_
          (Or.inl ⟨hab, rfl⟩), Or.inl he⟩
        · rw [hyq, hyo]
          have := length_filter_le_inQ (u.line l).inQ (fun c => c.inFrame)
          simp only [List.length_nil]; omega
        · rw [hyr.1, hyr.2]

/-- The test for the completion of PART RESET fires or does nothing. -/
theorem testPartReset_cases (v : State) : v.testPartReset = v
    ∨ (∀ l, (v.line l).state = .closed) ∧ v.testPartReset.reqs.partReset = none
      ∧ ∀ l, (v.testPartReset.line l).state = .closed := by
  unfold State.testPartReset
  split
  · rename_i pr hp
    split
    · rename_i hc
      rw [allClosed_iff] at hc
      refine Or.inr ⟨hc, ?_, fun l => ?_⟩
      · rw [(completePartReset_resetCompleted v pr).1]; cases pr.slot <;> rfl
      · rw [(completePartReset_resetCompleted v pr).2.2.2.2.2.2.2 l]; exact hc l
    · exact Or.inl rfl
  · exact Or.inl rfl

/-- A CLOSED line is left alone. -/
theorem resetLine_closed (u : State) (l : Fin 8) (h : (u.line l).state = .closed) : u.resetLine l = u := by
  unfold State.resetLine; simp only; rw [if_pos h]

/-- Lines that are CLOSED are left alone. -/
theorem foldl_resetLine_closed (u : State) (h : ∀ l, (u.line l).state = .closed) : ∀ ls : List (Fin 8), ls.foldl State.resetLine u = u
  | [] => rfl
  | l :: ls => by rw [List.foldl_cons, resetLine_closed u l (h l)]; exact foldl_resetLine_closed u h ls

/-- A step on one line followed by steps on others. -/
theorem ResetLines.cons {u w v : State} {l : Fin 8} {ls : List (Fin 8)} (hl : l ∉ ls) (h1 : ResetLines u w [l]) (h2 : ResetLines w v ls) :
    ResetLines u v (l :: ls) := by
  have hk : ∀ k, k ≠ l → w.line k = u.line k := fun k hk => h1.other k (by simpa using hk)
  have hp : ∀ k, k ≠ l → w.prof k = u.prof k := fun k h => by simp only [State.prof, h1.profiles, hk k h]
  refine ⟨?_, ?_, h2.reqs.trans h1.reqs, h2.trunk.trans h1.trunk, h2.profiles.trans h1.profiles, h2.patterns.trans h1.patterns,
    h2.queue.trans h1.queue, ⟨h2.refresh.1.trans h1.refresh.1, h2.refresh.2.trans h1.refresh.2⟩, h2.free.trans h1.free,
    h2.unreserved.trans h1.unreserved, by rw [h2.events, h1.events], ?_⟩
  · intro k hm
    by_cases e : k = l
    · subst e; rw [h2.other k hl]; exact h1.line k (by simp)
    · have := h2.line k (by simpa [e] using hm)
      rwa [hk k e, hp k e] at this
  · intro k hm
    simp only [List.mem_cons, not_or] at hm
    rw [h2.other k hm.2, hk k hm.1]
  · intro c src
    have e2 := h2.place c src
    have e1 := h1.place c src
    have hconv : (∃ k ∈ ls, src = k.castSucc ∧ (w.line k).resetAborts) ↔ ∃ k ∈ ls, src = k.castSucc ∧ (u.line k).resetAborts := by
      constructor
      · rintro ⟨k, hm, a, b⟩; exact ⟨k, hm, a, by rwa [hk k (fun e => hl (e ▸ hm))] at b⟩
      · rintro ⟨k, hm, a, b⟩; exact ⟨k, hm, a, by rwa [hk k (fun e => hl (e ▸ hm))]⟩
    rw [hconv] at e2
    simp only [List.mem_cons, exists_eq_or_imp]
    simp only [List.mem_singleton, exists_eq_left] at e1
    rcases e2 with ⟨a, b⟩ | ⟨a, b⟩
    · exact Or.inl ⟨Or.inr a, b⟩
    · rw [b]
      rcases e1 with ⟨a', b'⟩ | ⟨a', b'⟩
      · exact Or.inl ⟨Or.inl a', b'⟩
      · exact Or.inr ⟨fun e => e.elim a' a, b'⟩

/-- Nothing happens to lines that are CLOSED. -/
theorem ResetLines.refl_closed (u : State) (ls : List (Fin 8)) (h : ∀ l ∈ ls, (u.line l).state = .closed) : ResetLines u u ls where
  line := fun l hm => ⟨fun _ => rfl, fun e => absurd (h l hm) e, fun e => absurd (h l hm) e.1, fun e => absurd (h l hm) e.1⟩
  other := fun _ _ => rfl
  reqs := rfl
  trunk := rfl
  profiles := rfl
  patterns := rfl
  queue := rfl
  refresh := ⟨rfl, rfl⟩
  free := rfl
  unreserved := rfl
  events := rfl
  place := fun _ _ => Or.inr ⟨fun ⟨l, hm, _, ha⟩ => ha.1 (h l hm), rfl⟩

/-- The lines taken one after another, with the completion that may follow: one step on all of them, then the completion if every
line is CLOSED. -/
theorem resetLines_frame : ∀ (ls : List (Fin 8)) (u : State), ls.Nodup →
    ∃ v, ResetLines u v ls ∧ (ls.foldl State.resetLine u).testPartReset = v.testPartReset
  | [], u, _ => ⟨u, ResetLines.refl_closed u [] (by simp), rfl⟩
  | l :: ls, u, hn => by
    obtain ⟨hl, hn'⟩ := List.nodup_cons.mp hn
    obtain ⟨w, hw, he⟩ := resetLine_frame u l
    rw [List.foldl_cons]
    have next : u.resetLine l = w → ∃ v, ResetLines u v (l :: ls) ∧ (ls.foldl State.resetLine (u.resetLine l)).testPartReset = v.testPartReset := by
      intro e
      rw [e]
      obtain ⟨v, hv, h⟩ := resetLines_frame ls w hn'
      exact ⟨v, hw.cons hl hv, h⟩
    rcases he with he | he
    · exact next he
    · rcases testPartReset_cases w with hs | ⟨hc, hp, hc'⟩
      · exact next (he.trans hs)
      · refine ⟨w, hw.cons hl (ResetLines.refl_closed w ls (fun k _ => hc k)), ?_⟩
        rw [he, foldl_resetLine_closed _ hc']
        exact State.testPartReset_none _ hp

end Sys2Proof.Machine
end

