-- ==== Sys2Proof/Laws/Restart.lean ====
section
/-!
SUPPORT. The Event Unit at a link restart: each report's records back in their places, class by class.
-/
namespace Sys2Proof.Machine

/-- One place with a record returned to it, the pending record there counting as the newer (R154). -/
abbrev restorePlace (f : Fin 9 → Option EventRec) (sr : Fin 9 × EventRec) : Fin 9 → Option EventRec :=
  fun src => if src = sr.1 then some (match f sr.1 with | none => sr.2 | some p => sr.2.merge p) else f src

/-- A class's places with its report's records returned. -/
def restoredRow (rep : Option Report) (f : Fin 9 → Option EventRec) : Fin 9 → Option EventRec :=
  match rep with | none => f | some r => r.records.foldl restorePlace f

/-- A place that no returned record names is unchanged. -/
theorem foldl_restore_other : ∀ (l : List (Fin 9 × EventRec)) (f : Fin 9 → Option EventRec) (src), src ∉ l.map Prod.fst → l.foldl restorePlace f src = f src := by
  intro l
  induction l with
  | nil => intros; rfl
  | cons a l ih =>
    intro f src h
    simp only [List.map_cons, List.mem_cons, not_or] at h
    rw [List.foldl_cons, ih _ _ h.2]
    exact if_neg h.1

/-- A place that a returned record names. -/
theorem foldl_restore_mem : ∀ (l : List (Fin 9 × EventRec)) (f : Fin 9 → Option EventRec) (src rec), (l.map Prod.fst).Nodup → (src, rec) ∈ l → l.foldl restorePlace f src = some (match f src with | none => rec | some p => rec.merge p) := by
  intro l
  induction l with
  | nil => intro f src rec _ h; simp at h
  | cons a l ih =>
    intro f src rec hn h
    rw [List.map_cons, List.nodup_cons] at hn
    rw [List.foldl_cons]
    rcases List.mem_cons.mp h with h | h
    · subst h
      rw [foldl_restore_other _ _ _ hn.1]
      simp [restorePlace]
    · have : src ≠ a.1 := by rintro rfl; exact hn.1 (List.mem_map.mpr ⟨_, h, rfl⟩)
      rw [ih _ _ _ hn.2 h]
      simp [restorePlace, this]

/-- One record returned writes its own place alone. -/
theorem place_returnRecord (e : EventUnit) (c d : Fin 8) (sr) (src) : (e.returnRecord c sr).place d src = if d = c then restorePlace (e.place c) sr src else e.place d src := by
  simp only [EventUnit.returnRecord]
  by_cases h : d = c
  · subst h
    simp only [if_true, restorePlace]
    by_cases hs : src = sr.1
    · subst hs; rw [if_pos rfl, EventUnit.place_setPlace_same] <;> (cases e.place d sr.1 <;> rfl)
    · rw [if_neg hs, EventUnit.place_setPlace_ne _ _ (Or.inr hs)]
  · rw [if_neg h, EventUnit.place_setPlace_ne _ _ (Or.inl h)]

/-- One record returned changes no entry and no setting. -/
theorem returnRecord_frame (e : EventUnit) (c : Fin 8) (sr) : (e.returnRecord c sr).classes = e.classes ∧ (e.returnRecord c sr).order = e.order ∧ (e.returnRecord c sr).mode = e.mode ∧ (e.returnRecord c sr).interval = e.interval := ⟨rfl, rfl, rfl, rfl⟩

/-- The records of a report returned. -/
theorem foldl_returnRecord (c : Fin 8) : ∀ (l : List (Fin 9 × EventRec)) (e : EventUnit),
    (l.foldl (fun (u : EventUnit) sr => u.returnRecord c sr) e).classes = e.classes ∧ (l.foldl (fun (u : EventUnit) sr => u.returnRecord c sr) e).order = e.order
    ∧ (l.foldl (fun (u : EventUnit) sr => u.returnRecord c sr) e).mode = e.mode ∧ (l.foldl (fun (u : EventUnit) sr => u.returnRecord c sr) e).interval = e.interval
    ∧ ∀ d src, (l.foldl (fun (u : EventUnit) sr => u.returnRecord c sr) e).place d src = if d = c then l.foldl restorePlace (e.place c) src else e.place d src := by
  intro l
  induction l with
  | nil => intro e; refine ⟨rfl, rfl, rfl, rfl, ?_⟩; intro d src; simp only [List.foldl_nil]; split <;> simp_all
  | cons a l ih =>
    intro e
    obtain ⟨h1, h2, h3, h4, h5⟩ := ih (e.returnRecord c a)
    simp only [List.foldl_cons]
    refine ⟨h1, h2, h3, h4, ?_⟩
    intro d src
    rw [h5]
    have : (e.returnRecord c a).place c = restorePlace (e.place c) a := by funext x; rw [place_returnRecord, if_pos rfl]
    rw [this]
    split
    · rfl
    · rw [place_returnRecord, if_neg ‹_›]

/-- The entry of a class replaced. -/
theorem cls_setCls (e : EventUnit) (c d : Fin 8) (x) : (e.setCls c x).cls d = if d = c then x else e.cls d := by
  simp only [EventUnit.setCls, EventUnit.cls]
  by_cases h : d = c
  · subst h; simp
  · have : c.val ≠ d.val := fun e => h (Fin.ext e.symm)
    simp [h, Vector.getElem_set_ne, this]

/-- The report of a class returned (R154). -/
theorem returnClass_frame (e : EventUnit) (c : Fin 8) :
    (e.returnClass c).order = e.order ∧ (e.returnClass c).mode = e.mode ∧ (e.returnClass c).interval = e.interval
    ∧ (∀ d, (e.returnClass c).cls d = if d = c then { e.cls c with report := none, timer := .stopped, due := false } else e.cls d)
    ∧ ∀ d src, (e.returnClass c).place d src = if d = c then restoredRow (e.cls c).report (e.place c) src else e.place d src := by
  unfold EventUnit.returnClass
  cases hr : (e.cls c).report with
  | none =>
    simp only [hr]
    refine ⟨rfl, rfl, rfl, fun d => cls_setCls _ _ _ _, fun d src => ?_⟩
    show e.place d src = _
    split
    · rename_i h; subst h; rfl
    · rfl
  | some r =>
    simp only [hr]
    obtain ⟨h1, h2, h3, h4, h5⟩ := foldl_returnRecord c r.records e
    refine ⟨h2, h3, h4, fun d => ?_, fun d src => ?_⟩
    · rw [cls_setCls]
      split
      · rfl
      · simp only [EventUnit.cls, h1]
    · exact h5 d src

/-- The reports of several classes returned (R154). -/
theorem foldl_returnClass : ∀ (l : List (Fin 8)) (e : EventUnit), l.Nodup →
    (l.foldl EventUnit.returnClass e).order = e.order ∧ (l.foldl EventUnit.returnClass e).mode = e.mode ∧ (l.foldl EventUnit.returnClass e).interval = e.interval
    ∧ (∀ d, (l.foldl EventUnit.returnClass e).cls d = if d ∈ l then { e.cls d with report := none, timer := .stopped, due := false } else e.cls d)
    ∧ ∀ d src, (l.foldl EventUnit.returnClass e).place d src = if d ∈ l then restoredRow (e.cls d).report (e.place d) src else e.place d src := by
  intro l
  induction l with
  | nil => intro e _; refine ⟨rfl, rfl, rfl, fun d => by simp, fun d src => by simp⟩
  | cons a l ih =>
    intro e hn
    rw [List.nodup_cons] at hn
    obtain ⟨h1, h2, h3, h4, h5⟩ := ih (e.returnClass a) hn.2
    obtain ⟨g1, g2, g3, g4, g5⟩ := returnClass_frame e a
    simp only [List.foldl_cons]
    refine ⟨h1.trans g1, h2.trans g2, h3.trans g3, fun d => ?_, fun d src => ?_⟩
    · rw [h4]
      by_cases hd : d = a
      · subst hd; rw [if_neg hn.1, g4]; simp
      · simp only [g4, hd, List.mem_cons, false_or, if_false]
    · rw [h5]
      by_cases hd : d = a
      · subst hd; rw [if_neg hn.1, g5]; simp
      · have : (e.returnClass a).place d = e.place d := by funext x; rw [g5, if_neg hd]
        simp only [g4, this, hd, List.mem_cons, false_or, if_false]

end Sys2Proof.Machine
end

