-- ==== Sys2Proof/Laws/Scan.lean ====
section
/-!
SUPPORT. The scan of a DATA frame (R128, R129): what it takes at the head of the bytes left, and how it goes on after a match.
-/
namespace Sys2Proof.Machine

/-- The bytes that still belong to a match are passed over, as the position in the payload is. -/
theorem scanFrom_skip (pats : Vector Pattern 16) (l : Fin 8) : ∀ (skip i n : Nat) (rest : List Byte),
    scanFrom pats l skip i n rest = scanFrom pats l 0 (i + skip) n (rest.drop skip) := by
  intro skip
  induction skip with
  | zero => intros; rfl
  | succ k ih =>
    intro i n rest
    cases rest with
    | nil => simp [scanFrom]
    | cons b bs => rw [scanFrom, ih]; simp only [List.drop_succ_cons]; rw [show i + 1 + k = i + (k + 1) by omega]

/-- No candidate is taken exactly where no entry matches (R128). -/
theorem matchAt_eq_none (pats : Vector Pattern 16) (l : Fin 8) (rest : List Byte) :
    matchAt pats l rest = none ↔ ∀ e : Fin 16, ¬ (pats[e]).matchesAt l rest = true := by
  simp only [matchAt, List.find?_eq_none]
  constructor
  · intro h e; exact h e (by revert e; decide)
  · intro h e _; exact h e

/-- The candidate with the lowest entry index is taken (R128). -/
theorem matchAt_eq_some (pats : Vector Pattern 16) (l : Fin 8) (rest : List Byte) (e : Fin 16)
    (h : (pats[e]).matchesAt l rest = true) (hd : ∀ d : Fin 16, d < e → ¬ (pats[d]).matchesAt l rest = true) :
    matchAt pats l rest = some e := by
  rw [matchAt, List.find?_eq_some_iff_append]
  refine ⟨h, ?_⟩
  have : ∀ e : Fin 16, allEntries = allEntries.take e.val ++ e :: allEntries.drop (e.val + 1)
      ∧ ∀ d ∈ allEntries.take e.val, d < e := by decide
  obtain ⟨h1, h2⟩ := this e
  exact ⟨_, _, h1, fun d hd' => by simpa using hd d (h2 d hd')⟩

/-- With no pattern in use every byte is stored and no marker is made (R128). -/
theorem scanFrom_noneInUse (pats : Vector Pattern 16) (l : Fin 8) (h : ∀ i : Fin 16, (pats[i]).inUse = false) :
    ∀ (payload : List Byte) (i n : Nat), scanFrom pats l 0 i n payload = ⟨payload, []⟩ := by
  intro payload
  induction payload with
  | nil => intros; rfl
  | cons b bs ih =>
    intro i n
    have : matchAt pats l (b :: bs) = none := (matchAt_eq_none _ _ _).mpr fun e => by
      unfold Pattern.matchesAt; rw [h e]; simp
    rw [scanFrom, this]
    simp only [ih]

end Sys2Proof.Machine
end

