-- ==== Sys2Proof/Tests/Slice0.lean ====
section
/-!
SUPPORT. Tests: an ill-formed command for each check of well-formedness, the check values the spec works out, single steps from reset, and for every statement with hypotheses a concrete state and operands that meet the hypotheses of each of its clauses.
-/
namespace Sys2Proof.Tests
open Sys2Proof.Machine

/-! ## Small states -/

/-- State.reset with the link UP. -/
def up : State := { State.reset with trunk := { State.reset.trunk with link := .up, announceDue := false } }

/-- A line as OPEN leaves it under the default profile. -/
def base : Line := Line.opened Profile.default (Line.powerOn .mark false 0)

/-- The link UP, every profile the given one, and line 0 the given one. -/
def at0 (p : Profile) (x : Line) : State := { up.setLine 0 x with profiles := Vector.replicate 8 p }

/-- Line 0 the given one under the default profile. -/
def on (x : Line) : State := at0 Profile.default x

/-- A request with the expected sequence and tag 7. -/
def rq (ops : List Byte) : Req := ⟨1#8, 7#8, ops⟩

/-- A default profile with BLOCK pacing, retry limit 0, a nak code and a linger time. -/
def blocky : Profile :=
  { Profile.default with outPacing := .block, retryLimit := 0, nakCode := some 0x15#8, blockLinger := 1, pauseTimeout := 10 }

/-- A default profile with CODE pacing in both directions, a flush code and go-on-any. -/
def coded : Profile :=
  { Profile.default with outPacing := .code, inPacing := .code, flushCode := some 0x0D#8, goOnAny := true }

/-- A default profile with status decoding on: combination 0 is READY, 1 OFFLINE, 2 BUSY and reported, 3 INVALID. -/
def decoder : Profile :=
  { Profile.default with
    decoding := true
    map := #v[⟨.ready, false⟩, ⟨.offline, false⟩, ⟨.busy, true⟩, ⟨.invalid, false⟩, ⟨.ready, false⟩, ⟨.ready, false⟩,
      ⟨.ready, false⟩, ⟨.ready, false⟩] }

/-- A byte of data in the shift register. -/
def shifting (pos : Pos) (role : EndRole) : TxState := .character ⟨.data pos, 0x41#8, role, frameChar Profile.default 0x41#8⟩

def holdAt (pos : Pos) (reached : Bool) : Marker := ⟨.hold, 9#8, 0, pos, pos + 1, reached⟩
def markAt (pos : Pos) : Marker := ⟨.mark, 8#8, 1, pos, pos + 1, false⟩

theorem takes_at0 (p : Profile) (x : Line) (c : ReqCode) (ops : List Byte) (h : ops.length = c.operandBytes) :
    (at0 p x).takes c (rq ops) 0 := ⟨⟨rfl, rfl, rfl⟩, h, rfl, rfl, rfl⟩

theorem takes_up (c : ReqCode) (ops : List Byte) (h : ops.length = c.operandBytes) : up.takes c (rq ops) 0 :=
  ⟨⟨rfl, rfl, rfl⟩, h, rfl, rfl, rfl⟩

theorem hears_up : up.takesFrame 1#8 (up.heard 1#8) := ⟨rfl, Or.inl ⟨rfl, rfl, rfl⟩⟩

theorem hears_reset : State.reset.takesFrame 9#8 State.reset.received := ⟨rfl, Or.inr ⟨rfl, rfl⟩⟩

theorem hears_at0 (p : Profile) (x : Line) : (at0 p x).takesFrame 1#8 ((at0 p x).heard 1#8) := ⟨rfl, Or.inl ⟨rfl, rfl, rfl⟩⟩

/-! ## Well-formedness -/

theorem test_wf_huntByte : (Instr.huntByte (.byte 0xC3#8)).wf = false ∧ (Instr.huntByte (.byte 0xC2#8)).wf = true := by decide

theorem test_wf_headerError :
    (Instr.headerError 0x10#8 1#8 0#8 (headerCheck 0x10#8 1#8 0#8)).wf = false
    ∧ (Instr.headerError 0x10#8 1#8 65#8 (headerCheck 0x10#8 1#8 65#8)).wf = true := by decide +kernel

theorem test_wf_crcError_badCrc :
    (Instr.crcError (.badCrc (frameBytes 1#4 0#4 1#8 [5#8]))).wf = false
    ∧ (Instr.crcError (.badCrc ((frameBytes 1#4 0#4 1#8 [5#8]).dropLast ++ [0#8]))).wf = true := by decide +kernel

theorem test_wf_crcError_abandoned :
    (Instr.crcError (.abandoned [])).wf = false ∧ (Instr.crcError (.abandoned (frameBytes 1#4 0#4 1#8 []))).wf = false
    ∧ (Instr.crcError (.abandoned [0xC3#8])).wf = true := by decide +kernel

theorem test_wf_unknownFrame :
    (Instr.unknownFrame 1#4 7#4 1#8 []).wf = false ∧ (Instr.unknownFrame 2#4 15#4 1#8 []).wf = false
    ∧ (Instr.unknownFrame 1#4 8#4 1#8 (List.replicate 65 0#8)).wf = false ∧ (Instr.unknownFrame 1#4 8#4 1#8 []).wf = true := by
  decide

theorem test_wf_data :
    (Instr.data 0 1#8 (List.replicate 65 0#8)).wf = false ∧ (Instr.data 0 1#8 (List.replicate 64 0#8)).wf = true := by decide

theorem test_wf_requestDropped : (Instr.requestDropped 1#8 [0#8, 0#8]).wf = false ∧ (Instr.requestDropped 1#8 [1#8]).wf = true := by
  decide

theorem test_wf_unknownRequest :
    (Instr.unknownRequest 0x44#8 (rq [])).wf = false ∧ (Instr.unknownRequest 0x45#8 (rq [])).wf = true := by decide

theorem test_wf_request :
    (Instr.loadProfile (rq (List.replicate 63 0#8))).wf = false ∧ (Instr.loadProfile (rq (List.replicate 62 0#8))).wf = true := by
  decide

theorem test_wf_forms :
    (Instr.closeLineDrain (rq [0#8, 1#8])).wf = false ∧ (Instr.closeLineAbort (rq [0#8, 0#8])).wf = false
    ∧ (Instr.ackEventSpecific (rq [1#8, 0#8, 0#8])).wf = false ∧ (Instr.ackEventNonSpecific (rq [0#8, 0#8, 0#8])).wf = false := by
  decide

/-! ## Values the spec works out -/

/-- The CRC of the nine digits (R168). -/
theorem test_crc_digits :
    crc16 [0x31#8, 0x32#8, 0x33#8, 0x34#8, 0x35#8, 0x36#8, 0x37#8, 0x38#8, 0x39#8] = 0x29B1#16 := by decide +kernel

theorem test_step_empty_queue : step State.reset = .next State.reset := rfl

theorem test_no_word_spells_a_command : decodeTableWord 8 0 = none ∧ State.reset.withFetchWord 8 0 = State.reset := ⟨rfl, rfl⟩

/-! ## Single steps -/

/-- What an outcome is, when it is a next state, under a reading of it. -/
def after {α : Type} (o : Host.Outcome State Fault Refusal) (f : State → α) : Option α :=
  match o with
  | .next t => some (f t)
  | _ => none

/-- The first frame after reset is an ANNOUNCE frame (R172, Tables 10-1 and 10-12). -/
theorem test_step_announce :
    after (exec .arbiterChoice State.reset) (fun t => t.trunk.tx.map TxFrame.bytes)
      = some (some (frameBytes 6#4 15#4 0#8 [0x5A#8, 0x21#8, 0x01#8, 0x01#8, 0x80#8, 8#8, 0#8, 0#8, 0#8])) := by decide +kernel

/-- START SESSION from reset brings the link UP (R173). -/
theorem test_step_startSession :
    after (exec (.startSession ⟨5#8, 1#8, []⟩) State.reset) (fun t => (t.trunk.link, t.trunk.lastAccepted, t.trunk.txSeq))
      = some (.up, 5#8, 0#8) := by decide +kernel

/-- A byte sent to a running line is stored at position 0 (R9, R14). -/
theorem test_step_data :
    after (exec (.data 0 1#8 [0x41#8]) (on base)) (fun t => ((t.line 0).A, (t.line 0).S, (t.line 0).outQ, t.pool.free))
      = some (1, 1, [⟨0, [0x41#8]⟩], 383) := by decide +kernel

/-- The byte at T goes to the shift register and T rises (R64, R67). -/
theorem test_step_choice :
    after (exec (.transmitterChoice 0) (on { base with S := 1, outQ := [⟨0, [0x41#8]⟩] }))
        (fun t => ((t.line 0).T, (t.line 0).inCharacter)) = some (1, true) := by decide +kernel

/-- 41h under 8 data bits, no parity and one stop bit (R27), in half bits. -/
theorem test_levels :
    (frameChar Profile.default 0x41#8).levels
      = [.space, .space, .mark, .mark, .space, .space, .space, .space, .space, .space, .space, .space, .space, .space,
        .mark, .mark, .space, .space, .mark, .mark] := by decide

/-- The trunk character of C3h (R167), in half bits, and the same character sampled at the middles of its bits. -/
theorem test_trunk_character :
    (trunkChar 0xC3#8).levels
      = [.space, .space, .mark, .mark, .mark, .mark, .space, .space, .space, .space, .space, .space, .space, .space,
        .mark, .mark, .mark, .mark, .mark, .mark]
    ∧ trunkCharOf [.space, .mark, .mark, .space, .space, .space, .space, .mark, .mark, .mark] = some (.byte 0xC3#8)
    ∧ trunkCharOf [.space, .mark, .mark, .space, .space, .space, .space, .mark, .mark, .space] = some .spaceStop
    ∧ State.reset.trunk.ttx = [.mark] := by decide +kernel

/-- A START SESSION frame with no tag, while UP and out of sequence: dropped and counted, last accepted as it was (R171; log 11). -/
theorem test_step_startSession_noTag :
    after (exec (.requestDropped 9#8 [0x01#8]) up)
        (fun t => (t.trunk.link, t.trunk.lastAccepted, t.trunk.counters.gaps, t.reqs.dropped)) = some (.up, 0#8, 0, 1) := by
  decide +kernel

/-- A line opens with its quotas reserved and its first credit (R6, R43). -/
theorem test_step_open :
    after (exec (.openLine (rq [0#8])) up) (fun t => ((t.line 0).state, (t.line 0).Lsent, t.pool.unreserved, t.reqs.order))
      = some (.running, 512, 360, [.slot 0]) := by decide +kernel

theorem test_header_check : headerCheck 0x2F#8 0x05#8 0x03#8 = 0xC8#8 := by decide

/-- The example of 9.5 with line 0 in the place of line 1: the character of an aborted line completes, the line is CLOSED with no
answer of its own, and PART RESET, the last to be waited for, completes with it (R51, R163, R164). -/
theorem test_step_partReset_example :
    after (exec (.characterCompletion 0) { on { base with
        state := .draining, tx := shifting 0 .noEnd, T := 1, Rt := 1, S := 1, auxo := true
        long := some ⟨.closeAbort, none, false, 0, 1⟩ } with
          reqs := ⟨[⟨3, 0x03#8, 13#8, .requestUnit, none, .inProgress⟩], [], [], 2, some ⟨some 3, false⟩⟩ })
        (fun t => ((t.line 0).state, (t.line 0).auxo, t.reqs))
      = some (.closed, false, ⟨[⟨3, 0x03#8, 13#8, .requestUnit, none, .completed ⟨.ok, []⟩⟩], [], [.slot 3], 0, none⟩) := by
  decide +kernel

/-! ## Hypotheses met: the trunk -/

theorem test_met_StepRunsFrontCommand :
    ({ up with pending := [.arbiterChoice, .frameEnd] } : State).pending = .arbiterChoice :: [.frameEnd]
    ∧ State.reset.pending = [] := ⟨rfl, rfl⟩

theorem test_met_LineEventsTouchOneLine :
    (Instr.startEdge 7).eventLine = some 7 ∧ (Instr.data 7 1#8 (List.replicate 64 0#8)).eventLine = some 7
    ∧ (Instr.characterCompletion 0).eventLine = some 0
    ∧ up.reqs.partReset = none ∧ up.trunk.rx = .hunt ∧ (List.replicate 64 0#8 : List Byte).length ≤ 64 := by decide

theorem test_met_BadFramesCounted_header :
    up.trunk.rx = .hunt ∧ up.trunk.counters.hunt ≤ 65535 ∧ (0xC2#8 : Byte) ≠ 0xC3#8
    ∧ 64 < (65#8 : Byte).toNat ∧ 0xC3#8 ∉ [0x10#8, 1#8, 65#8, headerCheck 0x10#8 1#8 65#8]
    ∧ 0#8 ≠ headerCheck 0x10#8 1#8 0#8 ∧ 0xC3#8 ≠ headerCheck 1#8 2#8 3#8
    ∧ ([1#8, 2#8, 3#8, 0xC3#8] : List Byte) = [1#8, 2#8, 3#8] ++ 0xC3#8 :: [] ∧ 0xC3#8 ∉ ([1#8, 2#8, 3#8] : List Byte) := by
  decide

theorem test_met_BadFramesCounted_crc :
    up.trunk.rx = .hunt ∧ (BadFrame.badCrc ((frameBytes 1#4 0#4 1#8 []).dropLast ++ [0#8])).wf = true
    ∧ (BadFrame.abandoned [0xC3#8, 0x10#8]).wf = true := by decide +kernel

theorem test_met_FramesReceivedWhole :
    up.trunk.rx = .hunt ∧ (List.replicate 64 0#8 : List Byte).length ≤ 64
    ∧ [0#8, 0#8] ≠ crcBytes ([kindChannelByte 1#4 0#4, 1#8, byteOf 0] ++ []) := by decide +kernel

theorem test_met_SequencesCompared :
    up.trunk.rx = .hunt ∧ up.trunk.link = .up ∧ State.reset.trunk.rx = .hunt ∧ State.reset.trunk.link = .announcing
    ∧ 1#8 = up.trunk.lastAccepted + 1 ∧ 0#8 = up.trunk.lastAccepted
    ∧ 0xFF#8 ≠ up.trunk.lastAccepted + 1 ∧ 0xFF#8 ≠ up.trunk.lastAccepted
    ∧ ((1#4 : BitVec 4) ≠ 2#4 ∨ (0#4 : BitVec 4) ≠ 15#4 ∨ ([] : List Byte).head? ≠ some 0x01#8)
    ∧ ([0x01#8, 7#8, 2#8] : List Byte) = 0x01#8 :: 7#8 :: [2#8] ∧ ([0x01#8] : List Byte).length ≤ 64 := by decide

theorem test_met_UnknownFramesAndRequests :
    (up.takesFrame 1#8 (up.heard 1#8) ∧ State.reset.takesFrame 9#8 State.reset.received)
    ∧ ¬ ((1#4 : BitVec 4) = 1#4 ∧ (8#4 : BitVec 4).toNat < 8) ∧ ¬ ((1#4 : BitVec 4) = 2#4 ∧ (8#4 : BitVec 4) = 15#4)
    ∧ ¬ ((2#4 : BitVec 4) = 2#4 ∧ (14#4 : BitVec 4) = 15#4)
    ∧ ([2#8] : List Byte).length < 2 ∧ ([2#8] : List Byte) ≠ [0x01#8] ∧ ReqCode.ofByte 0x45#8 = none ∧ (List.replicate 62 0#8 : List Byte).length + 2 ≤ 64
    ∧ up.trunk.link = .up ∧ State.reset.trunk.link = .announcing
    ∧ up.reqs.refusals.length < 4 ∧ 4 ≤ (List.replicate 4 (⟨1#8, 2#8, .busy⟩ : RefusalEntry)).length :=
  ⟨⟨hears_up, hears_reset⟩, by decide⟩

theorem test_met_SessionsStart :
    State.reset.trunk.rx = .hunt ∧ State.reset.trunk.link = .announcing ∧ up.trunk.rx = .hunt ∧ up.trunk.link = .up
    ∧ (rq (List.replicate 62 0#8)).operands.length + 2 ≤ 64 := by decide

/-- An Event Unit with a report of MARK from line 7 in service, and a pending record of line 0. -/
def inService : EventUnit :=
  { EventUnit.powerOn.raise 0 (.mark 1 2#8 3) with
    classes := EventUnit.powerOn.classes.set 6 ⟨false, 5#8, some ⟨6, 5#8, [(0, .mark 1 1#8 1), (7, .mark 2 2#8 2)]⟩, .running 500, true⟩ }

theorem test_met_TrunkBreaksRestartTheLink :
    up.trunk.rx ≠ .afterBreak ∧ up.trunk.rx ≠ .abandoned ∧ (inService.cls 5).report = none
    ∧ ∃ rep, (inService.cls 6).report = some rep ∧ (rep.records.map Prod.fst).Nodup ∧ 8 ∉ rep.records.map Prod.fst
        ∧ (7, .mark 2 2#8 2) ∈ rep.records ∧ inService.place 6 7 = none
        ∧ (0, .mark 1 1#8 1) ∈ rep.records ∧ inService.place 6 0 = some (.mark 1 2#8 3) := by
  refine ⟨by decide, by decide, by decide, _, rfl, ?_⟩
  decide

/-! ## Hypotheses met: DATA frames -/

/-- The table with entry 0 a MARK pattern of one byte on every line. -/
def marked : State := { on { base with markers := List.replicate 16 (markAt 0) } with
  patterns := (Vector.replicate 16 Pattern.cleared).set 0 ⟨true, 1, #v[0x41#8, 0#8, 0#8, 0#8], .mark, 1#8, 0xFF#8⟩ }

theorem test_met_DataFramesRefused :
    (up.takesFrame 1#8 (up.heard 1#8) ∧ (up.line 0).state = .closed
      ∧ ((on { base with state := .draining }).line 0).state = .draining)
    ∧ ((on { base with Lsent := 63 }).takesFrame 1#8 ((on { base with Lsent := 63 }).heard 1#8)
      ∧ ((on { base with Lsent := 63 }).line 0).isOpen
      ∧ (((on { base with Lsent := 63 }).line 0).Lsent - ((on { base with Lsent := 63 }).line 0).A).toNat < 64)
    ∧ (marked.takesFrame 1#8 (marked.heard 1#8) ∧ (marked.line 0).isOpen
      ∧ 1 ≤ ((marked.line 0).Lsent - (marked.line 0).A).toNat
      ∧ 16 < (marked.line 0).markers.length + (scan marked.patterns 0 [0x41#8]).marks.length) :=
  ⟨⟨hears_up, by decide, by decide⟩, ⟨hears_at0 _ _, Or.inl rfl, by decide⟩,
    ⟨⟨rfl, Or.inl ⟨rfl, rfl, rfl⟩⟩, Or.inl rfl, by decide, by decide⟩⟩

theorem test_met_DataFramesAccepted :
    (on { base with Lsent := 64 }).takesFrame 1#8 ((on { base with Lsent := 64 }).heard 1#8)
    ∧ ((on { base with Lsent := 64 }).line 0).isOpen
    ∧ 64 ≤ (((on { base with Lsent := 64 }).line 0).Lsent - ((on { base with Lsent := 64 }).line 0).A).toNat
    ∧ (∀ i : Fin 16, ((on { base with Lsent := 64 }).patterns[i]).inUse = false)
    ∧ (marked.line 0).markers.length + (scan marked.patterns 0 [0x42#8]).marks.length ≤ 16 ∧ base.flushDone = false :=
  ⟨hears_at0 _ _, Or.inl rfl, by decide, by decide +kernel, by decide, by decide⟩

theorem test_met_GrantPrompts :
    (on base).takesFrame 1#8 ((on base).heard 1#8) ∧ ((on base).line 0).markers.length ≤ 16 ∧ ((on base).line 0).isOpen
    ∧ (marked.line 0).markers.length ≤ 16 ∧ up.takesFrame 1#8 (up.heard 1#8) ∧ (up.line 0).markers.length ≤ 16
    ∧ (up.line 0).state = .closed :=
  ⟨hears_at0 _ _, by decide, Or.inl rfl, by decide, hears_up, by decide, by decide⟩

/-- A table in which 41h is marked, 42h held and 43h stripped, and a second entry would strip 41h 42h. -/
def table : Vector Pattern 16 :=
  let one := fun (b : Byte) (a : PatternAction) => (⟨true, 1, #v[b, 0#8, 0#8, 0#8], a, 5#8, 0xFF#8⟩ : Pattern)
  ((((Vector.replicate 16 Pattern.cleared).set 0 (one 0x41#8 .mark)).set 1 (one 0x42#8 .hold)).set 2 (one 0x43#8 .strip)).set 3
    ⟨true, 2, #v[0x41#8, 0x42#8, 0#8, 0#8], .strip, 6#8, 0xFF#8⟩

theorem test_scan :
    scan table 0 [0x40#8, 0x41#8, 0x42#8, 0x43#8, 0x44#8]
      = ⟨[0x40#8, 0x41#8, 0x42#8, 0x44#8], [⟨.mark, 5#8, 0, 1, 2⟩, ⟨.hold, 5#8, 1, 2, 3⟩]⟩ := by decide +kernel

theorem test_met_ScanFindsPatterns :
    let stands := fun (e : Fin 16) (rest : List Byte) => (table[e]).inUse = true ∧ (table[e]).lineSet.getLsbD 0 = true
      ∧ (table[e]).length ≤ rest.length ∧ rest.take (table[e]).length = (table[e]).bytes.toList.take (table[e]).length
    (∀ i : Fin 16, 1 ≤ (table[i]).length ∧ (table[i]).length ≤ 4) ∧ (∀ e, ¬ stands e [0x40#8])
    ∧ (stands 0 [0x41#8, 0x42#8] ∧ stands 3 [0x41#8, 0x42#8] ∧ (table[(0 : Fin 16)]).action = .mark)
    ∧ (stands 1 [0x42#8] ∧ (∀ d : Fin 16, d < 1 → ¬ stands d [0x42#8]) ∧ (table[(1 : Fin 16)]).action = .hold)
    ∧ (stands 2 [0x43#8] ∧ (∀ d : Fin 16, d < 2 → ¬ stands d [0x43#8]) ∧ (table[(2 : Fin 16)]).action = .strip) := by
  decide +kernel

/-! ## Hypotheses met: admission and the part-wide tables -/

/-- The link UP with slots held under numbers below the given one, tags from 10. -/
def held (n : Nat) : State :=
  { up with reqs := { up.reqs with slots := (allSlots.take n).map (fun k => ⟨k, 2#8, 10#8 + BitVec.ofNat 8 k.val, .requestUnit, none, .inProgress⟩) } }

theorem test_met_RequestsAdmitted :
    (Instr.readPart (rq [0#8])).request = some (.readPart, rq [0#8]) ∧ State.reset.trunk.rx = .hunt
    ∧ State.reset.trunk.link = .announcing ∧ up.trunk.link = .up ∧ (rq [0#8]).seq = up.trunk.lastAccepted + 1
    ∧ (rq (List.replicate 62 0#8)).operands.length ≠ ReqCode.readPart.operandBytes
    ∧ (∃ k ∈ (held 1).reqs.slots, k.tag = 10#8) ∧ (∀ k ∈ (held 4).reqs.slots, k.tag ≠ 7#8)
    ∧ (∀ n : Fin 4, ∃ k ∈ (held 4).reqs.slots, k.num = n)
    ∧ (held 3).reqs.partReset = none ∧ (held 3).reqs.freeSlot = some 3 ∧ (∀ k ∈ (held 3).reqs.slots, k.tag ≠ 7#8) := by
  decide +kernel

theorem test_met_ReadPartAnswers :
    up.takes .readPart (rq [0#8]) 0 ∧ up.takes .readPart (rq [1#8]) 0 ∧ up.takes .readPart (rq [2#8]) 0
    ∧ (held 3).takes .readPart (rq [0#8]) 3 :=
  ⟨takes_up _ _ rfl, takes_up _ _ rfl, takes_up _ _ rfl, ⟨⟨rfl, rfl, rfl⟩, rfl, by decide, rfl, by decide⟩⟩

theorem test_met_GrantRefresh :
    up.takes .setGrantRefresh (rq [0#8]) 0 ∧ up.takes .setGrantRefresh (rq [0xFF#8]) 0
    ∧ ({ up with pool := { up.pool with refresh := 255, refreshTimer := .running 2550 } } : State).pool.refreshTimer ≠ .stopped :=
  ⟨takes_up _ _ rfl, takes_up _ _ rfl, by decide⟩

theorem test_met_ProfilesLoadedAndRead :
    (up.takes .loadProfile (rq (8#8 :: Profile.default.bytes)) 0 ∧ 8 ≤ (8#8 : Byte).toNat)
    ∧ ((on base).takes .loadProfile (rq (0#8 :: Profile.default.bytes)) 0
      ∧ ((on base).line 0).binding = 0 ∧ ((on base).line 0).state ≠ .closed)
    ∧ (∀ l, ((on base).line l).binding = 7 → ((on base).line l).state = .closed)
    ∧ (∃ f, profileFail (13#8 :: Profile.default.bytes.tail) = some f) ∧ profileFail Profile.default.bytes = none
    ∧ up.takes .readProfile (rq [7#8]) 0 ∧ up.takes .readProfile (rq [8#8]) 0 :=
  ⟨⟨takes_up _ _ (by decide +kernel), by decide⟩, ⟨takes_at0 _ _ _ _ (by decide +kernel), by decide, by decide⟩,
    by decide +kernel, ⟨0, by decide +kernel⟩, by decide +kernel, takes_up _ _ rfl, takes_up _ _ rfl⟩

/-- A profile that uses every code: BLOCK pacing with a nak code, inbound CODE pacing, a flush code. -/
def everyCode : Profile :=
  { Profile.default with outPacing := .block, inPacing := .code, nakCode := some 0x15#8, flushCode := some 0x0D#8 }

theorem test_met_AcceptedProfilesAreSound :
    everyCode.bytes.length = 46 ∧ profileFail everyCode.bytes = none ∧ Profile.ofBytes everyCode.bytes = everyCode
    ∧ coded.bytes.length = 46 ∧ profileFail coded.bytes = none := by decide +kernel

/-- Records in which the first field out of range is field 0, 13 and 38, and records in range in which the first failing check is
the first of Table 2-5, one of its middle, and its last. -/
theorem test_met_AcceptedProfilesAreSound_fails :
    profileFail (Profile.default.bytes.set 0 13#8) = some 0
    ∧ profileFail ((Profile.default.bytes.set 15 5#8).set 45 7#8) = some 13
    ∧ profileFail ((Profile.default.bytes.set 45 7#8).set 3 1#8) = some 38
    ∧ profileFail ((Profile.default.bytes.set 3 1#8).set 26 63#8) = some 3
    ∧ profileFail ({ coded with goCode := coded.stopCode } : Profile).bytes = some 7
    ∧ profileFail ({ everyCode with flushCode := some 0x15#8 } : Profile).bytes = some 22
    ∧ (Profile.default.bytes.set 45 7#8).length = 46 := by decide +kernel

theorem test_met_LinesBound :
    (up.takes .bindLine (rq [8#8, 7#8]) 0 ∧ 8 ≤ (8#8 : Byte).toNat) ∧ up.takes .bindLine (rq [7#8, 8#8]) 0
    ∧ ((on base).takes .bindLine (rq [0#8, 7#8]) 0 ∧ ((on base).line 0).state ≠ .closed)
    ∧ (up.takes .bindLine (rq [7#8, 7#8]) 0 ∧ (up.line 7).state = .closed) :=
  ⟨⟨takes_up _ _ rfl, by decide⟩, takes_up _ _ rfl, ⟨takes_at0 _ _ _ _ rfl, by decide⟩, ⟨takes_up _ _ rfl, by decide⟩⟩

theorem test_met_PatternsLoadedClearedRead :
    (∀ x len act : Byte, up.takes .loadPattern (rq [x, len, 1#8, 2#8, 3#8, 4#8, act, 0#8, 0#8]) 0)
    ∧ (16 ≤ (16#8 : Byte).toNat ∧ (0#8 : Byte).toNat < 1 ∧ 4 < (5#8 : Byte).toNat ∧ 2 < (3#8 : Byte).toNat)
    ∧ ((15#8 : Byte).toNat = (15 : Fin 16).val ∧ 1 ≤ (1#8 : Byte).toNat ∧ (4#8 : Byte).toNat ≤ 4 ∧ (2#8 : Byte).toNat ≤ 2)
    ∧ up.takes .clearPattern (rq [15#8]) 0 ∧ up.takes .clearPattern (rq [0xFF#8]) 0
    ∧ (up.takes .clearPattern (rq [0xFE#8]) 0 ∧ 16 ≤ (0xFE#8 : Byte).toNat ∧ 0xFE#8 ≠ (0xFF#8 : Byte))
    ∧ up.takes .readPattern (rq [16#8]) 0 ∧ up.takes .readPattern (rq [15#8]) 0 :=
  ⟨fun _ _ _ => takes_up _ _ rfl, by decide, by decide, takes_up _ _ rfl, takes_up _ _ rfl, ⟨takes_up _ _ rfl, by decide⟩,
    takes_up _ _ rfl, takes_up _ _ rfl⟩

/-! ## Hypotheses met: events -/

/-- The link UP with a report of MARK in service. -/
def reported : State := { up with events := inService }

theorem test_met_EventsAcknowledged :
    (up.takes .ackEvent (rq [2#8, 0#8, 0#8]) 0 ∧ 1 < (2#8 : Byte).toNat) ∧ up.takes .ackEvent (rq [0#8, 8#8, 0#8]) 0
    ∧ (reported.takes .ackEvent (rq [0#8, 6#8, 5#8]) 0 ∧ ∃ rep, (reported.events.cls 6).report = some rep ∧ rep.number = 5#8)
    ∧ (reported.takes .ackEvent (rq [0#8, 7#8, 5#8]) 0 ∧ ∀ rep, (reported.events.cls 7).report = some rep → rep.number ≠ 5#8)
    ∧ (up.takes .ackEvent (rq [1#8, 0#8, 0#8]) 0 ∧ ∀ c, (up.events.cls c).report = none)
    ∧ (reported.takes .ackEvent (rq [1#8, 0#8, 0#8]) 0 ∧ 6 ∈ reported.events.order
      ∧ ∀ d ∈ reported.events.order, (reported.events.cls d).report ≠ none →
          reported.events.order.idxOf 6 ≤ reported.events.order.idxOf d) :=
  ⟨⟨takes_up _ _ rfl, by decide⟩, takes_up _ _ rfl, ⟨⟨⟨rfl, rfl, rfl⟩, rfl, rfl, rfl, rfl⟩, _, rfl, rfl⟩,
    ⟨⟨⟨rfl, rfl, rfl⟩, rfl, rfl, rfl, rfl⟩, fun rep h => by cases (h : (none : Option Report) = some rep)⟩,
    ⟨takes_up _ _ rfl, by decide⟩, ⟨⟨⟨rfl, rfl, rfl⟩, rfl, rfl, rfl, rfl⟩, by decide, by decide⟩⟩

theorem test_met_EventSettings :
    up.takes .setEventMask (rq [0xFF#8]) 0
    ∧ (up.takes .setEventOrder (rq [2#8, 0#8]) 0 ∧ 1 < (2#8 : Byte).toNat)
    ∧ (up.takes .setEventOrder (rq [1#8, 0xFE#8]) 0 ∧ 7 < (0xFE#8 : Byte).toNat ∧ 0xFE#8 ≠ (0xFF#8 : Byte))
    ∧ up.takes .setEventOrder (rq [0#8, 7#8]) 0 ∧ up.takes .setEventOrder (rq [1#8, 7#8]) 0
    ∧ up.takes .setEventOrder (rq [1#8, 0xFF#8]) 0
    ∧ up.takes .setRepeatInterval (rq [0#8]) 0 ∧ up.takes .setRepeatInterval (rq [0xFF#8]) 0 ∧ up.takes .readEvents (rq []) 0 :=
  ⟨takes_up _ _ rfl, ⟨takes_up _ _ rfl, by decide⟩, ⟨takes_up _ _ rfl, by decide⟩, takes_up _ _ rfl, takes_up _ _ rfl,
    takes_up _ _ rfl, takes_up _ _ rfl, takes_up _ _ rfl, takes_up _ _ rfl⟩

theorem test_met_EventsRaisedAndMerged :
    EventUnit.powerOn.place 6 7 = none ∧ inService.place (EventRec.mark 1 0#8 0).cls 0 = some (.mark 1 2#8 3)
    ∧ ((5 : Fin 8) ≠ (EventRec.mark 1 0#8 0).cls ∨ (0 : Fin 9) ≠ 0) := by decide

theorem test_met_EventTurns :
    (∃ rep, (inService.cls 6).report = some rep ∧ (inService.cls 6).due = true ∧ 6 ∈ inService.order
      ∧ ∀ d ∈ inService.order, (inService.cls d).due = true → (inService.cls d).report ≠ none →
          inService.order.idxOf 6 ≤ inService.order.idxOf d)
    ∧ (let e := EventUnit.powerOn.raise 0 (.mark 1 2#8 3)
      (∀ c ∈ e.order, ¬ ((e.cls c).due = true ∧ (e.cls c).report ≠ none)) ∧ 6 ∈ e.order ∧ e.eligible 6 = true
      ∧ ∀ d ∈ e.order, e.eligible d = true → e.order.idxOf 6 ≤ e.order.idxOf d)
    ∧ (∀ c ∈ EventUnit.powerOn.order, ¬ ((EventUnit.powerOn.cls c).due = true ∧ (EventUnit.powerOn.cls c).report ≠ none))
    ∧ ∀ c ∈ EventUnit.powerOn.order, EventUnit.powerOn.eligible c = false := by
  refine ⟨⟨_, rfl, ?_⟩, ?_⟩ <;> decide

/-! ## Hypotheses met: lines. The states are those of at0: takes_at0, line_at0 and prof_at0 give each its request, its line and its profile. -/

theorem line_at0 (p : Profile) (x : Line) : (at0 p x).line 0 = x := State.line_setLine_same up 0 x

theorem prof_at0 (p : Profile) (x : Line) : (at0 p x).prof 0 = p := by
  have h : (at0 p x).profiles = Vector.replicate 8 p := rfl
  simp only [State.prof, h]
  exact Vector.getElem_replicate _

theorem partReset_at0 (p : Profile) (x : Line) : (at0 p x).reqs.partReset = none := rfl

theorem test_met_LinesOpened :
    (up.takes .openLine (rq [8#8]) 0 ∧ 8 ≤ (8#8 : Byte).toNat) ∧ up.takes .openLine (rq [7#8]) 0 ∧ (up.line 7).state = .closed
    ∧ base.state ≠ .closed
    ∧ (up.prof 7).outQuota + (up.prof 7).inQuota ≤ (384 : Nat) ∧ (23 : Nat) < (up.prof 7).outQuota + (up.prof 7).inQuota := by
  refine ⟨⟨takes_up _ _ rfl, by decide⟩, takes_up _ _ rfl, ?_⟩
  decide

theorem test_met_LinesReadAndPaused :
    up.takes .readLine (rq [8#8, 0#8]) 0 ∧ up.takes .readLine (rq [7#8, 2#8]) 0 ∧ up.takes .readLine (rq [7#8, 1#8]) 0
    ∧ up.takes .pauseInbound (rq [8#8]) 0 ∧ up.takes .pauseInbound (rq [7#8]) 0 ∧ (up.line 7).state = .closed
    ∧ (on base).takes .pauseInbound (rq [0#8]) 0 ∧ (on base).takes .resumeInbound (rq [0#8]) 0 ∧ base.state ≠ .closed
    ∧ up.takes .setAux (rq [7#8, 2#8]) 0 ∧ up.takes .setAux (rq [7#8, 1#8]) 0 :=
  ⟨takes_up _ _ rfl, takes_up _ _ rfl, takes_up _ _ rfl, takes_up _ _ rfl, takes_up _ _ rfl, by decide, takes_at0 _ _ _ _ rfl,
    takes_at0 _ _ _ _ rfl, by decide, takes_up _ _ rfl, takes_up _ _ rfl⟩

/-- A line with one byte outbound, and one with an inbound cell in a frame and one not. -/
def loaded : Line := { base with S := 1, outQ := [⟨0, [0x41#8]⟩], inQ := [⟨[1#8, 2#8], true, true⟩, ⟨[3#8], false, false⟩] }
def inboundOnly : Line := { base with inQ := [⟨[3#8], true, false⟩] }

theorem test_met_DrainsTaken :
    (∀ a b, (on base).takes .closeLine (rq [a, b]) 0) ∧ 8 ≤ (8#8 : Byte).toNat ∧ 1 < (2#8 : Byte).toNat
    ∧ (up.line 7).state = .closed
    ∧ ({ base with long := some ⟨.flush, none, false, 0, 0⟩ } : Line).long ≠ none
    ∧ ({ base with state := .stalled } : Line).long = none
    ∧ (base.state = .running ∧ base.long = none ∧ base.drainDone = true ∧ ∀ c ∈ base.inQ, c.inFrame = false)
    ∧ (({ loaded with state := .held } : Line).state = .held ∧ loaded.long = none ∧ ¬ loaded.drainDone = true)
    ∧ (∃ c ∈ ({ loaded with S := 0 } : Line).inQ, c.inFrame = true) ∧ ({ loaded with S := 0 } : Line).drainDone = true :=
  ⟨fun _ _ => takes_at0 _ _ _ _ rfl, by decide⟩

/-- Drain, its completion taken, and abort as long requests. -/
def draining (k : LongKind) (taken : Bool) (x : Line) : Line := { x with state := .draining, long := some ⟨k, some 0, taken, 0, 0⟩ }

theorem test_met_ClosesComplete :
    ((draining .closeDrain false inboundOnly).state = .draining ∧ (draining .closeDrain false inboundOnly).drainDone = true
      ∧ ∀ c ∈ (draining .closeDrain false inboundOnly).inQ, c.inFrame = false)
    ∧ ((draining .closeDrain false { loaded with S := 0 }).drainDone = true
      ∧ ∃ c ∈ (draining .closeDrain false { loaded with S := 0 }).inQ, c.inFrame = true)
    ∧ ((draining .closeDrain true base).drainTaken = true ∧ ∀ c ∈ (draining .closeDrain true base).inQ, c.inFrame = false)
    ∧ ((draining .closeAbort false base).inCharacter = false ∧ (draining .closeAbort false base).tx ≠ .brk
      ∧ ∀ c ∈ (draining .closeAbort false base).inQ, c.inFrame = false) := by decide

theorem test_met_AbortsTaken :
    (∀ a b, (on base).takes .closeLine (rq [a, b]) 0) ∧ (up.line 7).state = .closed
    ∧ (draining .closeAbort false base).state ≠ .closed ∧ (draining .closeDrain true base).drainTaken = true
    ∧ ({ base with long := some ⟨.flush, none, false, 0, 0⟩ } : Line).longIs .flush = true
    ∧ (base.state ≠ .closed ∧ base.long = none ∧ base.inCharacter = false ∧ ∀ c ∈ base.inQ, c.inFrame = false)
    ∧ ((draining .closeDrain false { loaded with tx := shifting 0 .noEnd }).inCharacter = true)
    ∧ ({ loaded with long := some ⟨.sendBreak, some 1, false, 0, 0⟩, brk := .inProgress, tx := .brk } : Line).longIs .sendBreak = true
    ∧ (∃ c ∈ loaded.inQ, c.inFrame = true) :=
  ⟨fun _ _ => takes_at0 _ _ _ _ rfl, by decide⟩

theorem test_met_FlushesTaken :
    (∀ a sel, (on base).takes .flush (rq [a, sel]) 0) ∧ 3 < (4#8 : Byte).toNat ∧ (up.line 7).state = .closed
    ∧ (draining .closeDrain false base).state = .draining
    ∧ (base.isOpen ∧ ({ base with long := some ⟨.sendBreak, none, false, 0, 0⟩ } : Line).long ≠ none)
    ∧ (base.isOpen ∧ base.long = none ∧ base.inCharacter = false)
    ∧ (loaded.isOpen ∧ loaded.long = none ∧ ({ loaded with tx := shifting 0 .noEnd } : Line).inCharacter = true)
    ∧ (1 ≤ (1#8 : Byte).toNat ∧ (3#8 : Byte).toNat ≤ 3)
    ∧ (∃ g, ({ base with long := some ⟨.flush, some 0, false, 1, 2⟩ } : Line).long = some g ∧ g.kind = .flush) :=
  ⟨fun _ _ => takes_at0 _ _ _ _ rfl, by decide, by decide, by decide, ⟨Or.inl rfl, by decide⟩, ⟨Or.inl rfl, by decide⟩,
    ⟨Or.inl rfl, by decide⟩, by decide, ⟨_, rfl, rfl⟩⟩

/-- A line with one outstanding block of one byte, sent. -/
def outstanding : Line := { base with S := 1, T := 1, outQ := [⟨0, [0x41#8]⟩], blocks := [⟨0, 1, .inserted, true⟩] }

theorem test_met_BlockedLinesReleased :
    (∀ a, (on base).takes .resume (rq [a]) 0) ∧ (∀ a, (on base).takes .discardBlocks (rq [a]) 0)
    ∧ 8 ≤ (8#8 : Byte).toNat ∧ base.state = .running
    ∧ (({ base with state := .held, markers := [holdAt 0 true] } : Line).state = .held
      ∧ ({ base with state := .held, markers := [holdAt 0 true] } : Line).flushDone = false)
    ∧ (({ outstanding with state := .stalled } : Line).state = .stalled
      ∧ ({ outstanding with state := .stalled } : Line).flushDone = false)
    ∧ (∃ e, ({ outstanding with state := .stalled } : Line).blocks.getLast? = some e) ∧ base.state ≠ .stalled :=
  ⟨fun _ => takes_at0 _ _ _ _ rfl, fun _ => takes_at0 _ _ _ _ rfl, by decide, by decide, by decide, by decide, ⟨_, rfl⟩, by decide⟩

theorem test_met_BreaksSent :
    (∀ a, (on base).takes .sendBreak (rq [a]) 0) ∧ (up.line 7).state = .closed
    ∧ (base.isOpen ∧ base.long = none ∧ base.inCharacter = false)
    ∧ ({ base with tx := shifting 0 .noEnd } : Line).inCharacter = true
    ∧ ({ base with brk := .pending, long := some ⟨.sendBreak, some 0, false, 0, 0⟩ } : Line).flushDone = false
    ∧ (∃ g, ({ base with brk := .inProgress, tx := .brk, breakTimer := .running 250, long := some ⟨.sendBreak, some 0, false, 0, 0⟩ }
        : Line).long = some g ∧ g.kind = .sendBreak) :=
  ⟨fun _ => takes_at0 _ _ _ _ rfl, by decide, ⟨Or.inl rfl, by decide⟩, by decide, by decide, ⟨_, rfl, rfl⟩⟩

/-- The link UP, line 0 with a character in its shift register, slot 0 in progress for its FLUSH and slot 1 completed. -/
def busy : State :=
  { on { base with tx := shifting 0 .noEnd, long := some ⟨.flush, some 0, false, 0, 0⟩ } with
    reqs := ⟨[⟨0, 0x22#8, 3#8, .lineControl, some 0, .inProgress⟩, ⟨1, 0x02#8, 4#8, .requestUnit, none, .completed ⟨.ok, []⟩⟩], [],
      [.slot 1], 0, none⟩ }

theorem test_met_PartResetTaken :
    (up.takes .partReset (rq [2#8]) 0 ∧ 1 < (2#8 : Byte).toNat)
    ∧ (busy.takes .partReset (rq [1#8]) 2 ∧ (∀ f, busy.trunk.tx = some f → f.carries ≠ .refusal)
      ∧ ((busy.line 0).isOpen ∧ (busy.line 0).inCharacter = true)
      ∧ (∃ k ∈ busy.reqs.slots, k.phase = .inProgress ∧ busy.slotOfTakenDrain k.num = false)
      ∧ ∃ k ∈ busy.reqs.slots, k.phase ≠ .inProgress)
    ∧ (∃ f, ({ up.trunk with tx := some ⟨.response, 15#4, 0#8, [], .refusal⟩ } : Trunk).tx = some f ∧ f.carries = .refusal) :=
  ⟨⟨takes_up _ _ rfl, by decide⟩,
    ⟨⟨⟨rfl, rfl, rfl⟩, rfl, by decide, rfl, by decide⟩, fun f h => (by cases h), ⟨Or.inl rfl, by decide⟩, by decide, by decide⟩,
    _, rfl, rfl⟩

/-- PART RESET with line 0 closed at once, with every other line CLOSED; and with line 0 waiting for a character, for an inbound
frame alone, DRAINING under a drain, DRAINING under an abort, and its drain complete. -/
theorem test_met_PartResetTaken_lines :
    (∀ x : Line, (on x).takes .partReset (rq [0#8]) 0 ∧ (on x).line 0 = x)
    ∧ (∀ l : Fin 8, l ≠ 0 → ((on base).line l).state = .closed)
    ∧ (base.state ≠ .closed ∧ base.drainTaken = false ∧ base.underAbort = false ∧ base.inCharacter = false
      ∧ ∀ c ∈ base.inQ, c.inFrame = false)
    ∧ ({ base with tx := shifting 0 .noEnd } : Line).inCharacter = true
    ∧ (loaded.inCharacter = false ∧ ∃ c ∈ loaded.inQ, c.inFrame = true)
    ∧ (let x := draining .closeDrain false loaded; x.state ≠ .closed ∧ x.drainTaken = false ∧ x.underAbort = false)
    ∧ (let x := draining .closeAbort false { base with tx := shifting 0 .noEnd };
      x.state ≠ .closed ∧ x.drainTaken = false ∧ x.underAbort = true)
    ∧ (let x := draining .closeDrain true loaded; x.state ≠ .closed ∧ x.drainTaken = true) :=
  ⟨fun x => ⟨takes_at0 _ _ _ _ rfl, line_at0 _ x⟩, by decide⟩

/-- PART RESET in progress, with every line but line 0 CLOSED. -/
def resetting (slot : Option (Fin 4)) (x : Line) : State :=
  { on x with reqs := { up.reqs with partReset := some ⟨slot, false⟩ } }

/-- A line enters CLOSED under PART RESET: the last one, with and without PART RESET's slot, and one with another line still open.
The lines are as test_met_ClosesComplete, test_met_thenSettles and test_met_FramesEnd have them. -/
theorem test_met_thenCompletesReset :
    (∀ slot x, (resetting slot x).line 0 = x ∧ (resetting slot x).reqs.partReset = some ⟨slot, false⟩)
    ∧ (∀ slot, ∀ x ∈ [draining .closeAbort false base, draining .closeDrain true base, draining .closeDrain false inboundOnly],
      ∀ k, (((resetting slot x).closedBy 0 ⟨.closeAbort, none, false, 0, 0⟩ 0 0).line k).state = .closed)
    ∧ (let v := ((resetting none (draining .closeAbort false base)).setLine 1 base).closedBy 0 ⟨.closeAbort, none, false, 0, 0⟩ 0 0
      v.reqs.partReset = some ⟨none, false⟩ ∧ (v.line 0).state = .closed ∧ (v.line 1).state ≠ .closed)
    ∧ ((on base).closedBy 0 ⟨.closeAbort, some 0, false, 0, 0⟩ 0 0).reqs.partReset = none :=
  ⟨fun _ x => ⟨line_at0 Profile.default x, rfl⟩, fun slot => by
      change ∀ x ∈ _, ∀ k, (((resetting none x).closedBy 0 ⟨.closeAbort, none, false, 0, 0⟩ 0 0).line k).state = .closed
      decide, by decide, rfl⟩

theorem test_met_PartResetCompletes :
    ({ up with reqs := { up.reqs with partReset := some ⟨some 0, true⟩ } } : State).reqs.partReset = some ⟨some 0, true⟩
    ∧ ({ up with reqs := { up.reqs with partReset := some ⟨none, false⟩ } } : State).reqs.partReset = some ⟨none, false⟩
    ∧ (∀ l, (up.line l).state = .closed) ∧ up.reqs.partReset = none ∧ ((resetting none base).line 0).state ≠ .closed := by decide

/-! ## Hypotheses met: within an event, and the transmitter -/

/-- A line with a FLUSH as its long request. -/
def flushing (x : Line) : Line := { x with long := some ⟨.flush, some 0, false, 1, 2⟩ }

theorem test_met_thenSettles :
    (base.calm ∧ (draining .closeDrain false loaded).calm)
    ∧ ((flushing base).isOpen ∧ (flushing base).flushDone = true)
    ∧ ((draining .closeDrain false inboundOnly).drainDone = true ∧ ∀ c ∈ inboundOnly.inQ, c.inFrame = false)
    ∧ ((draining .closeDrain false { loaded with S := 0 }).drainDone = true ∧ ∃ c ∈ loaded.inQ, c.inFrame = true)
    ∧ ((draining .closeDrain true base).long = some ⟨.closeDrain, some 0, true, 0, 0⟩ ∧ ∀ c ∈ base.inQ, c.inFrame = false)
    ∧ ((draining .closeAbort false base).inCharacter = false ∧ (draining .closeAbort false base).tx ≠ .brk)
    ∧ (draining .closeAbort false { base with tx := shifting 0 .noEnd }).inCharacter = true :=
  ⟨⟨Or.inl ⟨Or.inl rfl, by decide⟩, Or.inr (by decide)⟩, ⟨Or.inl rfl, by decide⟩, by decide, by decide, by decide, by decide,
    by decide⟩

theorem test_met_StandingUpdates :
    (let y := Line.standing blocky { base with openBlock := some ⟨0, 1, false⟩ };
      blocky.blockLinger ≠ 0 ∧ y.endWaiting = false ∧ y.T = y.S ∧ ∃ b, y.openBlock = some b ∧ b.ended = false)
    ∧ (let p := { blocky with readyGate := true };
      let y := Line.standing p loaded;
      y.workWaits p = true ∧ y.gatesOpen p = false ∧ loaded.pause = .none ∧ p.pauseTimeout ≠ 0)
    ∧ (Line.standing Profile.default base).workWaits Profile.default = false :=
  ⟨⟨by decide, by decide, by decide, _, rfl, rfl⟩, by decide, by decide⟩

theorem test_met_PacingCodesSent :
    ({ base with tx := .gap } : Line).tx ≠ .idle
    ∧ (base.tx = .idle ∧ coded.inPacing = .code ∧ ({ base with wanted := .stop } : Line).wanted ≠ base.lastSent ∧ base.brk = .none
      ∧ base.isOpen)
    ∧ (let x := { base with wanted := .stop, brk := .pending };
      x.tx = .idle ∧ x.wanted ≠ x.lastSent ∧ x.brk ≠ .none)
    ∧ (let x := draining .closeDrain true { base with wanted := .stop };
      x.tx = .idle ∧ x.wanted ≠ x.lastSent ∧ x.state = .draining ∧ x.underDrain = false)
    ∧ (let x := draining .closeAbort false { base with wanted := .stop };
      x.tx = .idle ∧ x.wanted ≠ x.lastSent ∧ x.state = .draining ∧ x.underDrain = false)
    ∧ (let x := { up.line 7 with wanted := .stop }; x.tx = .idle ∧ x.wanted ≠ x.lastSent ∧ x.state = .closed)
    ∧ ∃ ch, ({ base with tx := .character ⟨.pacingCode, 0x13#8, .noEnd, frameChar coded 0x13#8⟩ } : Line).tx = .character ch
        ∧ ch.kind = .pacingCode :=
  ⟨by decide, ⟨by decide, by decide, by decide, by decide, Or.inl rfl⟩, by decide, by decide, by decide, by decide, _, rfl, rfl⟩

theorem test_met_InsertedEndsAndFraming :
    (let x := { base with endWaiting := true, openBlock := some ⟨0, 1, false⟩ };
      x.tx = .idle ∧ blocky.inPacing ≠ .code ∧ x.brk = .none ∧ x.state = .running ∧ x.endWaiting = true
        ∧ x.gatesOpen blocky = true ∧ ∃ b, x.openBlock = some b)
    ∧ (let x := { draining .closeDrain false outstanding with endWaiting := true };
      x.underDrain = true ∧ x.gatesOpen blocky = true ∧ x.openBlock = none ∧ x.wanted = x.lastSent)
    ∧ (∃ ch, ({ base with tx := shifting 0 .noEnd } : Line).tx = .character ch) ∧ State.reset.trunk.tx = none
    ∧ ∃ f, ({ up.trunk with tx := some ⟨.announce, 15#4, 0#8, [], .nothing⟩ } : Trunk).tx = some f :=
  ⟨⟨by decide, by decide, by decide, by decide, by decide, by decide, _, rfl⟩, by decide, ⟨_, rfl⟩, rfl, _, rfl⟩

theorem test_met_DataBytesStart :
    (loaded.tx = .idle ∧ loaded.wanted = loaded.lastSent ∧ loaded.brk = .none ∧ loaded.state = .running ∧ loaded.endWaiting = false
      ∧ loaded.gatesOpen coded = true ∧ posLt loaded.T loaded.S = true ∧ loaded.barrierAllows = true
      ∧ loaded.byteAt loaded.T = some 0x41#8 ∧ coded.outPacing ≠ .block)
    ∧ (let x := { outstanding with T := 0, blocks := [⟨0, 1, .inData, false⟩], markers := [holdAt 0 true], state := .held };
      x.entryAt x.T = some ⟨0, 1, .inData, false⟩ ∧ posLt x.T x.S = true ∧ x.barrierAllows = true ∧ x.byteAt x.T = some 0x41#8)
    ∧ (loaded.entryAt loaded.T = none ∧ loaded.openBlock = none ∧ loaded.blocks.length < blocky.window)
    ∧ (let x := { outstanding with S := 2, outQ := [⟨0, [0x41#8, 0x42#8]⟩] };
      x.openBlock = none ∧ blocky.window ≤ x.blocks.length ∧ x.entryAt x.T = none ∧ x.byteAt x.T = some 0x42#8
        ∧ posLt x.T x.S = true) := by decide

theorem test_met_DataBytesStart_not :
    (base.tx = .idle ∧ base.wanted = base.lastSent ∧ base.endWaiting = false ∧ posLt base.T base.S = false)
    ∧ (let x := { loaded with T := 1, S := 2, outQ := [⟨0, [0x41#8, 0x42#8]⟩], markers := [holdAt 0 true] };
      x.endWaiting = false ∧ ∃ m, x.barrier = some m ∧ posLe x.T m.pos = false)
    ∧ loaded.gatesOpen { blocky with readyGate := true } = false ∧ ({ loaded with brk := .pending } : Line).brk ≠ .none
    ∧ ({ outstanding with state := .stalled } : Line).state = .stalled ∧ (up.line 7).state = .closed
    ∧ ((draining .closeAbort false base).state = .draining ∧ (draining .closeAbort false base).underDrain = false) :=
  ⟨by decide, ⟨by decide, _, rfl, by decide⟩, by decide⟩

/-- The cells cover Rt up to S, with the first byte of the head cell below Rt, and a position is below S. -/
theorem test_met_DataBytesStart_stream :
    let x := { base with Rt := 1, T := 2, S := 3, outQ := [⟨0, [0x41#8, 0x42#8, 0x43#8]⟩] }
    x.queueCovers ∧ x.off 2 < x.off x.S ∧ x.byteAt 2 = some 0x43#8 ∧ posLt (2 : Pos) 3 = true :=
  ⟨⟨by decide, rfl, by decide, by decide, rfl⟩, by decide⟩

theorem test_met_BytesRetire :
    (let x := { loaded with T := 1, tx := shifting 0 .noEnd, markers := [markAt 0, holdAt 0 false] };
      (∃ ch, x.tx = .character ch ∧ ch.kind = .data 0) ∧ coded.outPacing ≠ .block ∧ x.brk ≠ .pending
        ∧ x.Rt = 0 ∧ ∃ m, x.barrier = some m ∧ m.pos = 0 ∧ m.reached = false)
    ∧ (1 : Pos) ≠ loaded.Rt ∧ (∀ m, loaded.barrier = some m → m.pos ≠ 0)
    ∧ (∃ m, ({ loaded with markers := [holdAt 0 true] } : Line).barrier = some m ∧ m.pos = 0 ∧ m.reached = true)
    ∧ (∃ ch, (draining .closeDrain false { loaded with T := 1, tx := shifting 0 .noEnd }).tx = .character ch ∧ ch.kind = .data 0)
    ∧ (∃ ch, (flushing { base with tx := shifting 0 .noEnd }).tx = .character ch ∧ ch.kind = .data 0)
    ∧ ({ loaded with T := 1, tx := shifting 0 .noEnd, brk := .pending } : Line).brk = .pending
    ∧ ({ loaded with T := 1, tx := .idle } : Line).calm :=
  ⟨⟨⟨_, rfl, rfl⟩, by decide, by decide, by decide, _, rfl, rfl, rfl⟩, by decide,
    fun m h => (by cases (h : none = some m)), ⟨_, rfl, rfl, rfl⟩, ⟨_, rfl, rfl⟩, ⟨_, rfl, rfl⟩, by decide,
    Or.inl ⟨Or.inl rfl, by decide⟩⟩

theorem test_met_BlockEndsComplete :
    (let x := { loaded with T := 1, tx := shifting 0 .openEnd, openBlock := some ⟨0, 1, true⟩, markers := [holdAt 0 false] };
      (∃ ch, x.tx = .character ch ∧ ch.kind ≠ .pacingCode ∧ ch.role = .openEnd) ∧ blocky.outPacing = .block
        ∧ x.brk ≠ .pending ∧ (∃ o, x.openBlock = some o) ∧ ∃ m, x.barrier = some m ∧ m.pos = x.T - 1)
    ∧ (let x := { outstanding with tx := shifting 0 (.entryEnd 1) };
      ∃ ch, x.tx = .character ch ∧ ch.role = .entryEnd 1 ∧ (∃ k ∈ x.blocks, k.fin = 1) ∧ ∃ k, x.blocks.head? = some k ∧ k.fin = 1)
    ∧ (∃ ch, ({ loaded with tx := shifting 0 .noEnd } : Line).tx = .character ch ∧ ch.role = .noEnd)
    ∧ (∃ ch, (draining .closeDrain false { outstanding with tx := shifting 0 (.entryEnd 2) }).tx = .character ch
      ∧ ch.role = .entryEnd 2 ∧ ∀ k ∈ outstanding.blocks, k.fin ≠ 2)
    ∧ (∃ ch, (flushing { base with tx := shifting 0 .openEnd }).tx = .character ch ∧ ch.role = .openEnd ∧ base.openBlock = none)
    ∧ (let x := { outstanding with blocks := [⟨0, 1, .inserted, true⟩, ⟨1, 2, .inserted, false⟩] };
      (∃ k ∈ x.blocks, k.fin = 2) ∧ ∀ k, x.blocks.head? = some k → k.fin ≠ 2)
    ∧ ({ loaded with tx := shifting 0 .noEnd, brk := .pending } : Line).brk = .pending :=
  ⟨⟨⟨_, rfl, by decide, rfl⟩, by decide, by decide, ⟨_, rfl⟩, _, rfl, by decide⟩,
    ⟨_, rfl, rfl, by decide, _, rfl, rfl⟩, ⟨_, rfl, rfl⟩, ⟨_, rfl, rfl, by decide⟩, ⟨_, rfl, rfl, rfl⟩,
    ⟨by decide, fun k h => by cases h; decide⟩, by decide⟩

theorem test_met_TimersExpire :
    (({ base with tx := .gap, gapTimer := .running 1 } : Line).tx = .gap
      ∧ ({ base with tx := .gap, gapTimer := .running 1 } : Line).gapTimer ≠ .stopped)
    ∧ (({ base with pause := .running, pauseTimer := .running 10 } : Line).pause = .running
      ∧ ({ base with pause := .running, pauseTimer := .running 10 } : Line).pauseTimer ≠ .stopped)
    ∧ ({ base with lingerTimer := .running 1 } : Line).lingerTimer ≠ .stopped
    ∧ ({ loaded with idleTimer := .running 20 } : Line).idleTimer ≠ .stopped
    ∧ loaded.inQ = [⟨[1#8, 2#8], true, true⟩] ++ [⟨[3#8], false, false⟩]
    ∧ (inService.cls 6).timer ≠ .stopped ∧ ({ up.trunk with announceTimer := .running 250 } : Trunk).announceTimer ≠ .stopped := by
  decide

theorem test_met_AckTimersExpire :
    (∀ ms, ({ outstanding with ackTimer := .suspended } : Line).ackTimer ≠ .running ms)
    ∧ (let x := { outstanding with ackTimer := .running 2000 };
      x.ackTimer = .running 2000 ∧ x.blocks.head? = some ⟨0, 1, .inserted, true⟩ ∧ x.blocks.getLast? = some ⟨0, 1, .inserted, true⟩
        ∧ x.state = .running ∧ x.flushDone = false ∧ blocky.retryLimit ≤ x.retry
        ∧ x.retry < ({ blocky with retryLimit := 1 } : Profile).retryLimit)
    ∧ (draining .closeDrain false { outstanding with ackTimer := .running 2000 }).underDrain = true :=
  ⟨fun ms h => (by cases h), by decide⟩

/-! ## Hypotheses met: the receiver and the status inputs -/

theorem test_met_ReceiverEdgesAndErrors :
    (base.isOpen ∧ base.rx = .idle ∧ ({ base with armed := true } : Line).armed = true ∧ base.armed = false)
    ∧ (draining .closeDrain false loaded).underDrain = true
    ∧ ((draining .closeAbort false base).state = .draining ∧ (draining .closeAbort false base).underDrain = false)
    ∧ (up.line 7).state = .closed
    ∧ ({ base with rx := .character } : Line).rx = .character ∧ ({ base with rx := .brk } : Line).rx = .brk
    ∧ (∃ e, parityBitOf .even (dataBitList 8 (maskWidth 8 1#8)) = some e ∧ e ≠ false)
    ∧ maskWidth 8 1#8 ≠ 0#8 ∧ maskWidth 5 0x20#8 = 0#8
    ∧ (loaded.inQ = [⟨[1#8, 2#8], true, true⟩] ++ [⟨[3#8], false, false⟩])
    ∧ (∀ q c, base.inQ = q ++ [c] → c.isSealed = true) :=
  ⟨⟨Or.inl rfl, by decide⟩, by decide, by decide, by decide, by decide, by decide, ⟨true, by decide⟩, by decide, by decide, by decide,
    fun q c h => by cases q <;> cases h⟩

theorem test_met_ReceiverEdgesAndErrors_levels :
    base.isOpen ∧ base.rx ≠ .character ∧ base.rx ≠ .brk ∧ ({ base with rx := .character } : Line).rx ≠ .idle
    ∧ (draining .closeDrain false { base with rx := .brk }).underDrain = true :=
  ⟨Or.inl rfl, by decide⟩

theorem test_met_GoodCharactersStored :
    (({ loaded with rx := .character } : Line).calm ∧ ({ loaded with rx := .character } : Line).rx = .character
      ∧ (∀ e, parityBitOf Profile.default.parity (dataBitList 8 (maskWidth 8 0x41#8)) = some e → e = false)
      ∧ loaded.inQ = [⟨[1#8, 2#8], true, true⟩] ++ [⟨[3#8], false, false⟩])
    ∧ (maskWidth coded.dataBits 0x41#8 ≠ coded.stopCode ∧ maskWidth coded.dataBits 0x41#8 ≠ coded.goCode)
    ∧ (maskWidth blocky.dataBits 0x41#8 ≠ blocky.ackCode ∧ blocky.nakCode ≠ some (maskWidth blocky.dataBits 0x41#8))
    ∧ ((∀ q c, base.inQ = q ++ [c] → c.isSealed = true) ∧ base.inQ.length < base.resIn)
    ∧ ({ base with resIn := 0 } : Line).resIn ≤ base.inQ.length :=
  ⟨⟨Or.inl ⟨Or.inl rfl, by decide⟩, rfl, fun e h => (by cases (h : none = some e)), by decide⟩, by decide, by decide,
    ⟨fun q c h => (by cases q <;> cases h), by decide⟩, by decide⟩

theorem test_met_PacingCodesConsumed :
    (({ base with rx := .character } : Line).calm ∧ coded.outPacing = .code ∧ maskWidth coded.dataBits 0x13#8 = coded.stopCode
      ∧ maskWidth coded.dataBits 0x11#8 = coded.goCode ∧ maskWidth coded.dataBits 0x11#8 ≠ coded.stopCode)
    ∧ (blocky.outPacing = .block ∧ blocky.nakCode = some (maskWidth blocky.dataBits 0x15#8)
      ∧ maskWidth blocky.dataBits 0x15#8 ≠ blocky.ackCode)
    ∧ (({ outstanding with rx := .character, state := .stalled } : Line).calm ∧ ({ outstanding with resend := true } : Line).resend = true
      ∧ ∀ k, base.blocks.head? = some k → k.sent = false)
    ∧ (({ outstanding with rx := .character } : Line).calm ∧ outstanding.state ≠ .stalled ∧ outstanding.resend = false
      ∧ outstanding.blocks.head? = some ⟨0, 1, .inserted, true⟩ ∧ blocky.retryLimit ≤ outstanding.retry
      ∧ outstanding.retry < ({ blocky with retryLimit := 1 } : Profile).retryLimit) :=
  ⟨⟨Or.inl ⟨Or.inl rfl, by decide⟩, by decide⟩, by decide, ⟨Or.inl ⟨Or.inr (Or.inr rfl), by decide⟩, by decide, fun k h => by cases h⟩,
    ⟨Or.inl ⟨Or.inl rfl, by decide⟩, by decide⟩⟩

/-- At the retry limit, a nak with T below the newest entry's end, and one under a drain. -/
theorem test_met_PacingCodesConsumed_limit :
    (let x := { outstanding with rx := .character, T := 0 };
      x.blocks.getLast? = some ⟨0, 1, .inserted, true⟩ ∧ posLt x.T 1 = true ∧ blocky.retryLimit ≤ x.retry ∧ x.longIs .closeDrain = false)
    ∧ (let x := draining .closeDrain false { outstanding with rx := .character };
      x.underDrain = true ∧ x.state ≠ .stalled ∧ x.resend = false ∧ x.longIs .closeDrain = true
        ∧ x.blocks.head? = some ⟨0, 1, .inserted, true⟩ ∧ posLt x.T 1 = false) := by decide

theorem test_met_AcksTaken :
    (blocky.outPacing = .block ∧ maskWidth blocky.dataBits 0x06#8 = blocky.ackCode ∧ base.blocks = [])
    ∧ (outstanding.blocks = ⟨0, 1, .inserted, true⟩ :: [] ∧ outstanding.state ≠ .stalled
      ∧ ({ outstanding with resend := true } : Line).resend = true)
    ∧ (({ outstanding with rx := .character, state := .stalled } : Line).calm
      ∧ ({ outstanding with state := .stalled } : Line).state = .stalled)
    ∧ (({ outstanding with rx := .character } : Line).calm ∧ outstanding.resend = false ∧ outstanding.isOpen)
    ∧ (draining .closeDrain false { outstanding with rx := .character }).calm :=
  ⟨by decide, by decide, ⟨Or.inl ⟨Or.inr (Or.inr rfl), by decide⟩, by decide⟩, ⟨Or.inl ⟨Or.inl rfl, by decide⟩, by decide, Or.inl rfl⟩,
    Or.inr (by decide)⟩

theorem test_met_ConditionsChange :
    (base.isOpen ∧ decoder.decoding = true ∧ (7 : Fin 8) ≠ base.st ∧ decoder.debounce ≠ 0)
    ∧ (({ decoder with debounce := 0 } : Profile).debounce = 0 ∧ Profile.default.decoding = false ∧ (0 : Fin 8) = base.st)
    ∧ (({ base with candidate := some 1, debounceTimer := .running 10 } : Line).candidate = some 1
      ∧ ({ base with candidate := some 1, debounceTimer := .running 10 } : Line).debounceTimer ≠ .stopped)
    ∧ (decoder.map[(0 : Fin 8)]).cond = base.cond
    ∧ (decoder.map[(1 : Fin 8)]).cond ≠ base.cond ∧ (decoder.map[(1 : Fin 8)]).report = false
    ∧ (decoder.map[(1 : Fin 8)]).cond ≠ .invalid ∧ (decoder.map[(2 : Fin 8)]).report = true
    ∧ (decoder.map[(3 : Fin 8)]).cond = .invalid :=
  ⟨⟨Or.inl rfl, by decide⟩, by decide⟩

/-! ## Hypotheses met: the trunk transmitter and the part's timers -/

theorem test_met_ArbiterChooses :
    (up.trunk.tx = none ∧ up.trunk.link = .up ∧ State.reset.trunk.tx = none ∧ State.reset.trunk.link = .announcing
      ∧ State.reset.trunk.announceDue = true ∧ State.reset.trunk.session = none)
    ∧ (∃ f, ({ up.trunk with tx := some ⟨.announce, 15#4, 0#8, [], .nothing⟩ } : Trunk).tx = some f)
    ∧ (busy.reqs.order = .slot 1 :: [] ∧ ∃ k reply, busy.reqs.slots.find? (fun k => k.num == 1) = some k ∧ k.phase = .completed reply)
    ∧ (up.reqs.order = [] ∧ up.events.turn = none ∧ (∀ l, (up.line l).grantDue = false) ∧ ∀ l, (up.line l).offers = false)
    ∧ (∃ e rep, reported.events.turn = some (e, rep))
    ∧ ((on base).line 0).grantDue = true
    ∧ (let s := on { inboundOnly with grantDue := false };
      (∀ l, (s.line l).grantDue = false) ∧ (s.line 0).offers = true
        ∧ ∀ j : Fin 8, j < 0 - s.trunk.pointer → (s.line (s.trunk.pointer + j)).offers = false) :=
  ⟨by decide, ⟨_, rfl⟩, ⟨by decide, _, _, rfl, rfl⟩, by decide, ⟨_, _, rfl⟩, by decide, by decide⟩

/-- The link UP with a session response to build, and with a refusal at the head of the response order. -/
theorem test_met_ArbiterChooses_responses :
    (∃ w, ({ up.trunk with session := some ⟨7#8, [0x5A#8]⟩ } : Trunk).session = some w)
    ∧ (let s := up.refuse 7#8 0x45#8 .unknownRequest;
      s.trunk.tx = none ∧ s.trunk.link = .up ∧ s.trunk.session = none ∧ s.reqs.order = .refusal :: []
        ∧ s.reqs.refusals.head? = some ⟨7#8, 0x45#8, .unknownRequest⟩)
    ∧ (loaded.inQ[0]? = some ⟨[1#8, 2#8], true, true⟩) := ⟨⟨_, rfl⟩, by decide, rfl⟩

theorem test_met_FramesEnd :
    (∀ c, ∃ f, ({ up.trunk with tx := some ⟨.response, 15#4, 0#8, [], c⟩ } : Trunk).tx = some f ∧ f.carries = c)
    ∧ ((on loaded).line 0).calm
    ∧ ((draining .closeDrain true loaded).state = .draining ∧ (∃ g, (draining .closeDrain true loaded).long = some g
      ∧ g.kind = .closeDrain ∧ g.completing = true) ∧ up.reqs.partReset = none)
    ∧ ((∃ g, (draining .closeAbort false loaded).long = some g ∧ g.kind = .closeAbort)
      ∧ (draining .closeAbort false loaded).inCharacter = false ∧ (draining .closeAbort false loaded).tx ≠ .brk) :=
  ⟨fun _ => ⟨_, rfl, rfl⟩, Or.inl ⟨Or.inl rfl, by decide⟩, ⟨by decide, ⟨_, rfl, rfl, rfl⟩, rfl⟩, ⟨_, rfl, rfl⟩, by decide⟩

theorem test_met_ProfileRecordsRoundTrip :
    everyCode.bytes.length = 46 ∧ profileFail everyCode.bytes = none ∧ everyCode.bytes[11]? = some 0x01#8
    ∧ everyCode.bytes[27]? = some 0x01#8
    ∧ (Profile.default.bytes.set 12 0x55#8).length = 46 ∧ profileFail (Profile.default.bytes.set 12 0x55#8) = none
    ∧ (Profile.default.bytes.set 12 0x55#8)[11]? = some 0x00#8 ∧ Profile.default.bytes[27]? = some 0x00#8 := by decide +kernel

/-! ## Hypotheses met: invariants -/

theorem line_up (l : Fin 8) : up.line l = Line.powerOn .mark false 0 := by simp [State.line, up, State.reset]

theorem test_met_invariants_events :
    up.orderCyclic ∧ up.recordsInPlace ∧ up.repeatsMatch ∧ step up = .next up := by
  have hc : ∀ c, up.events.cls c = ClassEntry.powerOn := by intro c; simp [EventUnit.cls, up, State.reset, EventUnit.powerOn]
  have hp : ∀ c src, up.events.place c src = none := by intro c src; simp [EventUnit.place, up, State.reset, EventUnit.powerOn]
  refine ⟨⟨⟨7, rfl⟩, fun _ => rfl⟩, ⟨fun c src r h => ?_, fun c rep h => ?_⟩, fun c => ?_, rfl⟩
  · rw [hp] at h; cases h
  · rw [hc] at h; cases h
  · rw [hc]; decide

/-- A report in service under a nonzero repeat interval, its repeat timer running; and the same once its repeat is due. -/
theorem test_met_EventUnitStaysSound :
    (let s := fun (t : Timer) (due : Bool) => ({ up with events := { EventUnit.powerOn with
        classes := EventUnit.powerOn.classes.set 6 ⟨false, 5#8, some ⟨6, 5#8, [(7, .mark 2 2#8 2)]⟩, t, due⟩ } } : State)
    (s (.running 500) false).repeatsMatch ∧ (s .stopped true).repeatsMatch
      ∧ ((s .stopped true).events.cls 6).report ≠ none ∧ (s .stopped true).events.interval ≠ 0) := by
  refine ⟨?_, ?_, by decide, by decide⟩ <;> (show ∀ c : Fin 8, _) <;> decide

theorem test_met_invariants_lines :
    up.closedAtRest ∧ up.poolAccounts ∧ up.longRequestsMatch ∧ up.markersBounded ∧ up.tablesValid := by
  have hr : up.closedAtRest := fun l _ => by rw [line_up]; rfl
  refine ⟨hr, ⟨by decide +kernel, by decide +kernel, fun l => by rw [line_up]; decide, hr⟩, fun l => by rw [line_up]; decide,
    fun l => by rw [line_up]; decide, fun i => ?_, fun i => Or.inl (by simp [up, State.reset])⟩
  have h : up.profiles[i] = Profile.default := by simp [up, State.reset]
  rw [h]
  decide +kernel

theorem test_met_StreamPositionsKept : up.streamsInOrder := by
  intro l
  have hp : up.prof l = Profile.default := by simp [State.prof, up, State.reset]
  rw [line_up, hp]
  exact ⟨by decide, rfl, ⟨by decide, by decide, by decide, by decide⟩,
    ⟨by decide, fun m hm => absurd hm (by simp [Line.powerOn])⟩,
    fun _ => ⟨rfl, rfl, by decide, rfl, fun _ => rfl, fun ch pos h => by cases h⟩, fun h => absurd h (by decide)⟩

/-- The parts of streamsInOrder met by a line in BLOCK mode with an outstanding block, an open one and a barrier. -/
theorem test_met_StreamPositionsKept_block :
    let x := { outstanding with
      S := 3, T := 2, outQ := [⟨0, [0x41#8, 0x42#8, 0x43#8]⟩], openBlock := some ⟨1, 1, false⟩, markers := [markAt 0, holdAt 1 false] }
    let p := { blocky with window := 2 }
    x.off x.T ≤ x.off x.S ∧ x.queueCovers ∧ x.blocksInOrder p ∧ x.markersInOrder ∧ x.sendsBlocks p := by
  refine ⟨by decide, ⟨by decide, rfl, by decide, by decide, rfl⟩, ⟨by decide, by decide, by decide, by decide⟩,
    ⟨by decide, by decide⟩, by decide, by decide, by decide, fun o h => ?_, fun ch e h => by cases h⟩
  cases h
  decide

theorem test_met_invariants_requests :
    up.requestsBounded ∧ up.responsesOwed ∧ up.countersSaturate ∧ up.announceQuiet :=
  ⟨⟨by decide, by decide, by decide, by decide⟩,
    ⟨fun k hk => absurd hk (by simp [up, State.reset, RequestUnit.powerOn]), by decide, fun l _ => by rw [line_up]; rfl⟩,
    ⟨fun l => by rw [line_up]; decide, by decide, by decide⟩, fun _ => ⟨rfl, rfl⟩⟩

end Sys2Proof.Tests
end

