-- ==== Sys2Proof/Proofs/GrantPrompts.lean ====
section
/-!
PROOF. A DATA frame of no bytes as a grant prompt (R16): accepted by an open line it makes a grant due and nothing else, and a CLOSED
or DRAINING line refuses it.
-/
namespace Sys2Proof.Machine

/-! ## What an event leaves of an open line (log 1) -/

/-- A FLUSH that completes is a long request of the line (R53). -/
theorem exists_long_of_flushDone (x : Line) (h : x.flushDone = true) : ∃ g, x.long = some g := by
  cases hg : x.long with
  | some g => exact ⟨g, rfl⟩
  | none => simp [Line.flushDone, Line.longIs, hg] at h

/-- What follows on an open line is the standing updates, and at most the end of its FLUSH with the answer. -/
theorem State.thenSettles.of_isOpen {w t : State} {l : Fin 8} (h : w.thenSettles l t) (ho : (w.line l).isOpen) :
    ∃ lg rq, t = { w.setLine l { (w.line l).standing (w.prof l) with long := lg } with reqs := rq } := by
  obtain ⟨hcalm, hflush, -⟩ := h
  cases hf : (w.line l).flushDone with
  | false =>
    refine ⟨((w.line l).standing (w.prof l)).long, w.reqs, ?_⟩
    rw [hcalm (Or.inl ⟨ho, hf⟩)]
    rfl
  | true =>
    obtain ⟨g, hg⟩ := exists_long_of_flushDone _ hf
    exact ⟨none, _, hflush g ho hg hf⟩

/-! ## Acceptance and refusal (R15, R16) -/

/-- A frame of no bytes makes a grant due for its line and changes nothing else of it (R16). -/
theorem accept_nil (p : Profile) (x : Line) : x.accept p ⟨[], []⟩ 0 = { x with grantDue := true } := by
  obtain ⟨q, g, heq, -, hdue, hq⟩ := accept_frame p ⟨[], []⟩ 0 x
  have hg : g = true := hdue.mpr (Or.inr (Or.inl rfl))
  rw [heq, hq rfl, hg]
  simp

/-- Taking no cells leaves the state as it is (R5). -/
@[simp] theorem State.takeCells_zero (s : State) : s.takeCells 0 = s := rfl

/-- On an open line a frame of no bytes passes the credit test, and the marker test while the list is within its bound (R14, R131). -/
theorem State.takeData_nil_of_isOpen (s : State) (l : Fin 8) (ho : (s.line l).isOpen) (hm : (s.line l).markers.length ≤ 16) :
    s.takeData l [] = (s.setLine l { s.line l with grantDue := true }).settle l := by
  obtain ⟨hclosed, hdraining⟩ := (isOpen_iff _).mp ho
  have hcredit : ¬ (s.line l).credit < ([] : List Byte).length := Nat.not_lt_zero _
  have hmarks : ¬ Config.maxMarkers < (s.line l).markers.length + (scan s.patterns l []).marks.length := Nat.not_lt.mpr hm
  have haccept : s.acceptData l (scan s.patterns l []) 0 = (s.setLine l { s.line l with grantDue := true }).settle l := by
    rw [show scan s.patterns l [] = ⟨[], []⟩ from rfl, State.acceptData, accept_nil, Nat.sub_self, State.takeCells_zero]
  rw [State.takeData, if_neg (not_or.mpr ⟨hclosed, hdraining⟩), if_neg hcredit]
  simp only [if_neg hmarks]
  exact haccept

/-- A CLOSED or DRAINING line refuses every DATA frame with reason "closed" (R14, R15). -/
theorem State.takeData_of_closed_or_draining (s : State) (l : Fin 8) (payload : List Byte)
    (h : (s.line l).state = .closed ∨ (s.line l).state = .draining) :
    s.takeData l payload = s.refuseData l ⟨false, true, false⟩ payload.length := if_pos h

/-- A refusal counts one refused frame on its line and raises a REFUSED event (R15). -/
theorem State.refuseData_eq (s : State) (l : Fin 8) (reason : ReasonSet) (n : Nat) :
    s.refuseData l reason n = (s.setLine l { s.line l with counters :=
      { (s.line l).counters with refused := min 65535 ((s.line l).counters.refused + 1) } }).raise l (.refused reason 1 n) := rfl

/-- Taking a frame leaves every line as it is. -/
theorem State.takesFrame.line_eq {s u : State} {seq : Byte} (h : s.takesFrame seq u) (l : Fin 8) : u.line l = s.line l := by
  obtain ⟨hlines, -⟩ := takesFrame_same s u seq h
  rw [State.line, State.line, hlines]

/-! ## The statement -/

/-- Settles O13: an open line accepts the frame and keeps its cells, positions and markers through what follows within the event; a CLOSED
or DRAINING line refuses it. -/
theorem grantPrompts : Obligations.GrantPrompts := by
  intro s u l seq hu hm
  have hexec := exec_data_takesFrame s u l seq [] hu (Nat.zero_le _)
  have hline := hu.line_eq l
  obtain ⟨-, -, -, hpool, hevents, -, -⟩ := takesFrame_same s u seq hu
  refine ⟨fun ho => ?_, fun hst => ?_⟩
  · let w := u.setLine l { s.line l with grantDue := true }
    have hset : w.thenSettles l (w.settle l) := settle_thenSettles w l
    have hw : w.line l = { s.line l with grantDue := true } := u.line_setLine_same l _
    obtain ⟨lg, rq, ht⟩ := hset.of_isOpen (by rw [hw]; exact ho)
    refine ⟨w.settle l, ?_, hset, ?_⟩
    · rw [hexec, u.takeData_nil_of_isOpen l (by rw [hline]; exact ho) (by rw [hline]; exact hm), hline]
    · have htl : (w.settle l).line l = { (w.line l).standing (w.prof l) with long := lg } := by
        rw [ht]; exact w.line_setLine_same l _
      have htp : (w.settle l).pool = s.pool := by rw [ht]; exact hpool
      have hte : (w.settle l).events = s.events := by rw [ht]; exact hevents
      simp [htl, hw, htp, hte]
  · rw [hexec, u.takeData_of_closed_or_draining l [] (by rw [hline]; exact hst), u.refuseData_eq, hline]
    rfl

end Sys2Proof.Machine
end

