-- ==== Sys2Proof/Proofs/LinesBound.lean ====
section
/-!
PROOF. BIND LINE (R37): the operand check, the state check, and the binding of a CLOSED line.
-/
namespace Sys2Proof.Machine

/-! ## The owner of BIND LINE (R37) -/

/-- BIND LINE refuses when its line or its profile is outside 0 to 7, whatever state the line is in. -/
theorem ownBindLine_badOperand (s : State) (a b : Byte) (h : 8 ≤ a.toNat ∨ 8 ≤ b.toNat) :
    ownBindLine s [a, b] = (s, .plain .badOperand) := by
  rcases h with ha | hb
  · rw [ownBindLine, indexOperand_head_none 8 a [b] ha]
  · rw [ownBindLine, indexOperand_second_none 8 a b [] hb]
    cases indexOperand 8 [a, b] 0 <;> rfl

/-- BIND LINE with a line and a profile in range turns on the state of the line. -/
theorem ownBindLine_inRange (s : State) (a b : Byte) (l i : Fin 8) (ha : a.toNat = l.val) (hb : b.toNat = i.val) :
    ownBindLine s [a, b] =
      if (s.line l).state = .closed then (s.setLine l { s.line l with binding := i }, .plain .ok) else (s, .plain .wrongState) := by
  rw [ownBindLine, indexOperand_head 8 a [b] l ha, indexOperand_second 8 a b [] i hb]
  rfl

/-! ## The command of BIND LINE -/

/-- Taking a slot leaves every line as it is. -/
@[simp] theorem State.line_inSlot (s : State) (c : ReqCode) (r : Req) (n : Fin 4) (l : Fin 8) :
    (s.inSlot c r n).line l = s.line l := rfl

/-- A BIND LINE that takes a slot leaves the state its owner leaves, with the owner's reply in the slot. -/
theorem exec_bindLine {s t : State} {r : Req} {n : Fin 4} {reply : Reply} (h : s.takes .bindLine r n)
    (ho : ownBindLine (s.inSlot .bindLine r n) r.operands = (t, reply)) (ht : t.reqs = (s.inSlot .bindLine r n).reqs) :
    exec (.bindLine r) s = .next { t with reqs := (s.answered .bindLine r n reply).reqs } :=
  rxRequest_short h (by decide) ownBindLine t _ reply (fun _ _ => rfl) ho ht rfl

/-- A BIND LINE whose owner refuses it is turned away. -/
theorem exec_bindLine_turnedAway {s : State} {r : Req} {n : Fin 4} {res : Result} (h : s.takes .bindLine r n)
    (ho : ownBindLine (s.inSlot .bindLine r n) r.operands = (s.inSlot .bindLine r n, .plain res)) :
    exec (.bindLine r) s = .next (s.turnedAway .bindLine r n res) := by
  rw [exec_bindLine h ho rfl]
  rfl

/-! ## The statement -/

/-- Settles O20: the operands are judged before the line's state, and a CLOSED line takes the binding in the event that answers. -/
theorem linesBound : Obligations.LinesBound := by
  intro s r n a b h hops
  refine ⟨fun hout => ?_, fun l i ha hb => ⟨fun hopen => ?_, fun hclosed => ?_⟩⟩
  · apply exec_bindLine_turnedAway h
    rw [hops, ownBindLine_badOperand _ a b hout]
  · apply exec_bindLine_turnedAway h
    rw [hops, ownBindLine_inRange _ a b l i ha hb, State.line_inSlot, if_neg hopen]
  · have ho : ownBindLine (s.inSlot .bindLine r n) r.operands =
        ((s.inSlot .bindLine r n).setLine l { s.line l with binding := i }, .plain .ok) := by
      rw [hops, ownBindLine_inRange _ a b l i ha hb, State.line_inSlot, if_pos hclosed]
    rw [exec_bindLine h ho rfl]
    rfl

end Sys2Proof.Machine
end

