-- ==== Sys2Proof/Proofs/ReadPartAnswers.lean ====
section
/-!
PROOF. READ PART (R165): the part's data as they stand when the request is taken, and the clearing of the trunk counters and the
dropped-request count in the same event.
-/
namespace Sys2Proof.Machine

/-! ## The clearing of the counts (R165) -/

/-- The state with the seven trunk counters and the dropped-request count at 0. -/
def State.clearCounts (s : State) : State :=
  { s with trunk := { s.trunk with counters := ⟨0, 0, 0, 0, 0, 0, 0⟩ }, reqs := { s.reqs with dropped := 0 } }

/-- Completing a slot and clearing the counts touch different parts of the Request Unit, so they commute. -/
theorem State.complete_clearCounts (s : State) (n : Fin 4) (reply : Reply) :
    s.clearCounts.complete n reply = (s.complete n reply).clearCounts := rfl

/-! ## The owner of READ PART -/

/-- READ PART with clear 0 reads the data and leaves the state as it is. -/
theorem ownReadPart_keep (s : State) (rest : List Byte) : ownReadPart s (0#8 :: rest) = (s, .okWith s.partData) := rfl

/-- READ PART with clear 1 reads the data from before the clearing. -/
theorem ownReadPart_clear (s : State) (rest : List Byte) :
    ownReadPart s (1#8 :: rest) = (s.clearCounts, .okWith s.partData) := rfl

/-- READ PART refuses every other value of clear. -/
theorem ownReadPart_badOperand (s : State) (b : Byte) (rest : List Byte) (h0 : b ≠ 0#8) (h1 : b ≠ 1#8) :
    ownReadPart s (b :: rest) = (s, .plain .badOperand) := by
  have hn0 : b.toNat ≠ 0 := mt (toNat_eq_iff (by decide)).mp h0
  have hn1 : b.toNat ≠ 1 := mt (toNat_eq_iff (by decide)).mp h1
  rw [ownReadPart, u8_head]
  split
  · next hb => exact absurd hb hn0
  · next hb => exact absurd hb hn1
  · rfl

/-- The data of READ PART do not depend on the slot the request takes or on the frame that brought it. -/
theorem State.partData_inSlot (s : State) (c : ReqCode) (r : Req) (n : Fin 4) : (s.inSlot c r n).partData = s.partData := rfl

/-- The data of READ PART, field by field (Table 10-15). -/
theorem State.partData_eq (s : State) :
    s.partData = [0x5A#8, 0x21#8, 0x01#8] ++ be16 384 ++ be16 s.pool.free ++ be16 s.pool.unreserved
      ++ be16 s.trunk.counters.crc ++ be16 s.trunk.counters.header ++ be16 s.trunk.counters.gaps
      ++ be16 s.trunk.counters.duplicates ++ be16 s.trunk.counters.unknown ++ be16 s.trunk.counters.hunt
      ++ be16 s.trunk.counters.restarts ++ be16 s.reqs.dropped ++ [byteOf s.pool.refresh] := rfl

/-! ## The command of READ PART -/

/-- A READ PART that takes a slot does what its owner does, and completes the slot with the owner's reply. -/
theorem exec_readPart {s t : State} {r : Req} {n : Fin 4} {reply : Reply} (h : s.takes .readPart r n)
    (ho : ownReadPart (s.inSlot .readPart r n) r.operands = (t, reply)) :
    exec (.readPart r) s = .next (t.complete n reply) := by
  have hshort : (s.inSlot .readPart r n).short n ownReadPart r.operands = t.complete n reply := by
    rw [State.short, ho]
  exact congrArg Host.Outcome.next ((s.rxRequest_takes .readPart r n h (by decide)).trans hshort)

/-! ## The statement -/

/-- Settles O16: each value of clear goes to its own equation of the owner, and the clearing commutes with the answer. -/
theorem readPartAnswers : Obligations.ReadPartAnswers := by
  intro s r n b h hops c t
  have ⟨_, _, _, _, hfree⟩ := h
  have hanswer := fun reply : Reply => s.complete_inSlot .readPart r n reply hfree
  have ht : t = s.answered .readPart r n (.okWith s.partData) := by rw [s.partData_eq]; rfl
  refine ⟨fun hb => ?_, fun hb => ?_, fun h0 h1 => ?_⟩
  · rw [hb] at hops
    rw [exec_readPart h (by rw [hops, ownReadPart_keep]), hanswer, State.partData_inSlot, ht]
  · rw [hb] at hops
    rw [exec_readPart h (by rw [hops, ownReadPart_clear]), State.complete_clearCounts, hanswer, State.partData_inSlot, ← ht]
    rfl
  · rw [exec_readPart h (by rw [hops, ownReadPart_badOperand _ b [] h0 h1]), hanswer]
    rfl

end Sys2Proof.Machine
end

section
/-!
PROOF. The step taken apart: what a property of states has to be kept by, for every step to keep it; and the changes of one line of which
every line event is made.
-/
namespace Sys2Proof.Machine

/-! ## The frame receiver's bookkeeping (R169, R171, R177) -/

/-- The seven trunk counters are within their top (R177). -/
def TrunkCounters.Bounded (c : TrunkCounters) : Prop := ∀ n ∈ c.list, n ≤ Config.counterTop

/-- The receiver's state, the level of TRX, last accepted and the counters may change, the counters within their top. -/
def Trunk.NotesTo (t u : Trunk) : Prop :=
  (∃ r x a c, u = { t with rx := r, trx := x, lastAccepted := a, counters := c }) ∧ (t.counters.Bounded → u.counters.Bounded)

/-- What the receiver of frames notes by itself: its own record, and TRUNK events. -/
inductive Noted : State → State → Prop
  | port (s : State) (f : Trunk → Trunk) (h : s.trunk.NotesTo (f s.trunk)) : Noted s (s.mapTrunk f)
  | raise (s : State) (a b c d e f : Nat) : Noted s (s.raiseTrunk (.trunk a b c d e f))

/-- A session begins, on a link that is not UP (R173). -/
def State.beginSession (s : State) (seq tag : Byte) : State :=
  { s.mapLines (fun ln => { ln with grantDue := ln.grantDue || ln.state != .closed }) with
    trunk := { s.trunk with
      link := .up
      lastAccepted := seq
      txSeq := 0#8
      announceTimer := .stopped
      announceDue := false
      session := some ⟨tag, s.trunk.announcePayload⟩ } }

theorem State.startSession_eq (s : State) (seq tag : Byte) :
    s.startSession seq tag
      = (if s.trunk.link = .up then s.linkRestart .sessionRestart else s).beginSession seq tag := by
  unfold State.startSession; split <;> rfl

/-- A refusal listed (R158). -/
def State.listRefusal (s : State) (e : RefusalEntry) : State :=
  { s with reqs := { s.reqs with refusals := s.reqs.refusals ++ [e], order := s.reqs.order ++ [.refusal] } }

/-! ## What every step keeps -/

/-- A property of states that every change a command can make of them keeps. -/
structure Kept (P : State → Prop) : Prop where
  powerOn : ∀ s a b, P s → P (s.powerOn a b)
  noted : ∀ s t, Noted s t → P s → P t
  linkRestart : ∀ s c, P s → P (s.linkRestart c)
  beginSession : ∀ s seq tag, P s → P (s.beginSession seq tag)
  takeData : ∀ s l payload, P s → P (s.takeData l payload)
  dropRequest : ∀ s, P s → P s.dropRequest
  listRefusal : ∀ s e, s.reqs.refusals.length < Config.maxRefusals → P s → P (s.listRefusal e)
  admitted : ∀ s c tag ops n, c ≠ .startSession → ops.length = c.operandBytes → s.reqs.tagHeld tag = false → s.reqs.partReset = none → s.reqs.freeSlot = some n →
    P s → P ((s.holdSlot n c tag ops).toOwner n c ops)
  testPartReset : ∀ s, P s → P s.testPartReset
  arbiterChoice : ∀ s, P s → P s.arbiterChoice
  frameEnd : ∀ s, P s → P s.frameEnd
  refreshExpiry : ∀ s, P s → P s.refreshExpiry
  announceExpiry : ∀ s, P s → P s.announceExpiry
  repeatExpiry : ∀ s c, P s → P { s with events := s.events.repeatExpiry c }
  lineEvent : ∀ i l s t, i.eventLine = some l → (∀ seq payload, i ≠ .data l seq payload) → P s → exec i s = .next t → P t

theorem TrunkCounters.bounded_iff (c : TrunkCounters) : c.Bounded ↔ c.crc ≤ 65535 ∧ c.header ≤ 65535 ∧ c.gaps ≤ 65535
    ∧ c.duplicates ≤ 65535 ∧ c.unknown ≤ 65535 ∧ c.hunt ≤ 65535 ∧ c.restarts ≤ 65535 := by
  simp [TrunkCounters.Bounded, TrunkCounters.list, Config.counterTop]

/-- A count that rises stays within its top. -/
theorem bump_le_top (n : Nat) : bump n ≤ 65535 := bump_le n

/-- Noting no count leaves every counter within its top. -/
theorem Trunk.notesTo_of_counters (t : Trunk) (r : TrunkRx) (x : Level) (a : Byte) :
    t.NotesTo { t with rx := r, trx := x, lastAccepted := a } := ⟨⟨r, x, a, t.counters, rfl⟩, id⟩

/-- Noting one count leaves every counter within its top. -/
theorem Trunk.notesTo_count (t : Trunk) (r : TrunkRx) (x : Level) (f : TrunkCounters → TrunkCounters)
    (hf : ∀ c : TrunkCounters, c.Bounded → (f c).Bounded) : t.NotesTo { t with rx := r, trx := x, counters := f t.counters } :=
  ⟨⟨r, x, t.lastAccepted, _, rfl⟩, hf _⟩

theorem TrunkCounters.bounded_addCrc (c : TrunkCounters) (h : c.Bounded) : c.addCrc.Bounded := by
  rw [bounded_iff] at *; simpa [addCrc, bump_le_top] using h.2
theorem TrunkCounters.bounded_addHeader (c : TrunkCounters) (h : c.Bounded) : c.addHeader.Bounded := by
  rw [bounded_iff] at *; obtain ⟨h1, h2⟩ := h; simpa [addHeader, bump_le_top, h1] using h2.2
theorem TrunkCounters.bounded_addGap (c : TrunkCounters) (h : c.Bounded) : c.addGap.Bounded := by
  rw [bounded_iff] at *; obtain ⟨h1, h2, h3⟩ := h; simpa [addGap, bump_le_top, h1, h2] using h3.2
theorem TrunkCounters.bounded_addDuplicate (c : TrunkCounters) (h : c.Bounded) : c.addDuplicate.Bounded := by
  rw [bounded_iff] at *; obtain ⟨h1, h2, h3, h4⟩ := h; simpa [addDuplicate, bump_le_top, h1, h2, h3] using h4.2
theorem TrunkCounters.bounded_addUnknown (c : TrunkCounters) (h : c.Bounded) : c.addUnknown.Bounded := by
  rw [bounded_iff] at *; obtain ⟨h1, h2, h3, h4, h5⟩ := h; simpa [addUnknown, bump_le_top, h1, h2, h3, h4] using h5.2
theorem TrunkCounters.bounded_addHunt (c : TrunkCounters) (h : c.Bounded) : c.addHunt.Bounded := by
  rw [bounded_iff] at *; obtain ⟨h1, h2, h3, h4, h5, h6⟩ := h; simpa [addHunt, bump_le_top, h1, h2, h3, h4, h5] using h6.2
theorem TrunkCounters.bounded_addRestart (c : TrunkCounters) (h : c.Bounded) : c.addRestart.Bounded := by
  rw [bounded_iff] at *; obtain ⟨h1, h2, h3, h4, h5, h6, h7⟩ := h; simp [addRestart, bump_le_top, h1, h2, h3, h4, h5, h6]

namespace Kept
variable {P : State → Prop} {s : State}

/-! ### Bytes on TRX (R169) -/

theorem setRx (h : Kept P) (r) (hs : P s) : P (s.setRx r) :=
  h.noted _ _ (.port s _ (s.trunk.notesTo_of_counters r .mark s.trunk.lastAccepted)) hs

theorem accepted (h : Kept P) (q) (hs : P s) : P (s.accepted q) :=
  h.noted _ _ (.port s _ (s.trunk.notesTo_of_counters s.trunk.rx s.trunk.trx q)) hs

/-- A count noted, and its TRUNK event raised. -/
theorem counted (h : Kept P) (f : TrunkCounters → TrunkCounters) (hf : ∀ c : TrunkCounters, c.Bounded → (f c).Bounded)
    (a b c d e g : Nat) (hs : P s) : P ((s.mapTrunk (·.count f)).raiseTrunk (.trunk a b c d e g)) :=
  h.noted _ _ (.raise _ a b c d e g) (h.noted _ _ (.port s _ (s.trunk.notesTo_count s.trunk.rx s.trunk.trx f hf)) hs)

theorem crcError (h : Kept P) (hs : P s) : P s.crcError := h.counted _ TrunkCounters.bounded_addCrc _ _ _ _ _ _ hs
theorem headerError (h : Kept P) (hs : P s) : P s.headerError := h.counted _ TrunkCounters.bounded_addHeader _ _ _ _ _ _ hs
theorem sequenceGap (h : Kept P) (hs : P s) : P s.sequenceGap := h.counted _ TrunkCounters.bounded_addGap _ _ _ _ _ _ hs
theorem duplicate (h : Kept P) (hs : P s) : P s.duplicate := h.counted _ TrunkCounters.bounded_addDuplicate _ _ _ _ _ _ hs
theorem unknownFrame (h : Kept P) (hs : P s) : P s.unknownFrame := h.counted _ TrunkCounters.bounded_addUnknown _ _ _ _ _ _ hs

theorem huntByte (h : Kept P) (hs : P s) : P s.huntByte :=
  h.noted _ _ (.port s _ (s.trunk.notesTo_count s.trunk.rx .mark _ TrunkCounters.bounded_addHunt)) hs

theorem retake (h : Kept P) (b) (hs : P s) : P (s.retake b) := by
  unfold State.retake
  split
  · exact h.setRx _ hs
  · split
    · exact h.setRx _ hs
    · exact h.huntByte hs

theorem judgeHeader (h : Kept P) (k q n c) (hs : P s) : P (s.judgeHeader k q n c) := by
  unfold State.judgeHeader
  split
  · split <;> exact h.setRx _ hs
  · exact h.retake _ (h.retake _ (h.retake _ (h.retake _ (h.headerError (h.setRx _ hs)))))

/-! ### Requests and frames (R156 to R158, R170, R171, R173) -/

theorem refuse (h : Kept P) (tag code res) (hs : P s) : P (s.refuse tag code res) := by
  unfold State.refuse
  split
  · exact h.listRefusal s ⟨tag, code, res⟩ ‹_› hs
  · exact h.dropRequest s hs

theorem startSession (h : Kept P) (seq tag) (hs : P s) : P (s.startSession seq tag) := by
  rw [State.startSession_eq]
  apply h.beginSession
  split
  · exact h.linkRestart _ _ hs
  · exact hs

theorem admitKnown (h : Kept P) (c tag ops) (hc : c ≠ .startSession) (hs : P s) : P (s.admitKnown c tag ops) := by
  unfold State.admitKnown
  split
  · exact h.refuse _ _ _ hs
  next hops =>
  split
  · exact h.refuse _ _ _ hs
  split
  · exact h.refuse _ _ _ hs
  next htag hpr =>
  split
  · exact h.refuse _ _ _ hs
  next n hn => exact h.admitted s c tag ops n hc (by simpa using hops) (by simpa using htag) (by simpa using hpr) hn hs

theorem takeRequest (h : Kept P) (payload : List Byte) (hp : payload.head? ≠ some ReqCode.startSession.byte ∨ payload.length < 2)
    (hs : P s) : P (s.takeRequest payload) := by
  unfold State.takeRequest State.admitRequest
  split
  · next code tag ops =>
    have hcode : code ≠ ReqCode.startSession.byte := by
      rcases hp with hp | hp
      · simpa using hp
      · simp only [List.length_cons] at hp; omega
    split
    · exact h.dropRequest _ hs
    split
    · exact h.refuse _ _ _ hs
    next c hc =>
    refine h.admitKnown c tag ops (fun e => hcode ?_) hs
    have hbyte : c.byte = code := by simpa using List.find?_some hc
    rw [← hbyte, e]
  · exact h.dropRequest _ hs

theorem dispatch (h : Kept P) (hd payload) (hn : startsSession hd payload = false ∨ payload.length < 2) (hs : P s) :
    P (s.dispatch hd payload) := by
  unfold State.dispatch
  split
  · exact h.takeData _ _ _ hs
  split
  · next hk =>
    refine h.takeRequest payload (hn.imp_left fun hn => ?_) hs
    simpa [startsSession, hk] using hn
  · exact h.unknownFrame hs

theorem goodFrame (h : Kept P) (hd payload) (hs : P s) : P (s.goodFrame hd payload) := by
  unfold State.goodFrame State.takeStartSession
  split
  · split
    · exact h.startSession _ _ hs
    · next hne =>
      refine h.dispatch hd payload (Or.inr ?_) hs
      match payload, hne with
      | [], _ => simp
      | [_], _ => simp
      | a :: b :: c, hne => exact absurd rfl (hne a b c)
  next hst =>
  have hst : startsSession hd payload = false := by simpa using hst
  split
  · split
    · exact h.dispatch _ _ (Or.inl hst) (h.accepted _ hs)
    split
    · exact h.duplicate hs
    · exact h.dispatch _ _ (Or.inl hst) (h.accepted _ (h.sequenceGap hs))
  · exact h.dispatch _ _ (Or.inl hst) hs

theorem judgeFrame (h : Kept P) (hd payload hi lo) (hs : P s) : P (s.judgeFrame hd payload hi lo) := by
  unfold State.judgeFrame
  simp only
  split
  · exact h.goodFrame _ _ (h.setRx _ hs)
  · exact h.crcError (h.setRx _ hs)

theorem rxByte (h : Kept P) (b) (hs : P s) : P (s.rxByte b) := by
  unfold State.rxByte
  split
  · split
    · exact h.setRx _ hs
    · exact h.huntByte hs
  · split
    · exact h.judgeHeader _ _ _ _ hs
    · exact h.setRx _ hs
  · split <;> exact h.setRx _ hs
  · split
    · exact h.setRx _ hs
    · exact h.judgeFrame _ _ _ _ hs
  · exact hs
  · exact hs

theorem rxBytes (h : Kept P) : ∀ (bs : List Byte) {s : State}, P s → P (s.rxBytes bs)
  | [], _, hs => hs
  | b :: bs, _, hs => h.rxBytes bs (h.rxByte b hs)

theorem rxSpaceStop (h : Kept P) (hs : P s) : P s.rxSpaceStop := by
  have port : ∀ (u : State) r, P u → P (u.mapTrunk (fun t => { t with rx := r, trx := .space })) := fun u r hu =>
    h.noted _ _ (.port u _ (u.trunk.notesTo_of_counters r .space u.trunk.lastAccepted)) hu
  unfold State.rxSpaceStop
  split
  · exact port _ s.huntByte.trunk.rx (h.huntByte hs)
  · exact hs
  · exact hs
  · exact port s .abandoned hs

theorem trunkMark (h : Kept P) (hs : P s) : P s.trunkMark := by
  unfold State.trunkMark
  simp only
  split
  · exact h.setRx (s := s) .hunt hs
  · exact h.crcError (h.setRx (s := s) .hunt hs)
  · exact h.setRx (s := s) s.trunk.rx hs

theorem trunkBreak (h : Kept P) (hs : P s) : P s.trunkBreak := by
  unfold State.trunkBreak
  split
  · exact hs
  · exact h.noted _ _ (.port _ _ (Trunk.notesTo_of_counters _ .afterBreak .space _)) (h.linkRestart _ _ hs)

/-- Every command keeps a property kept by every change. -/
theorem exec (h : Kept P) {i : Instr} {t : State} (hs : P s) (ht : exec i s = .next t) : P t := by
  have frame : ∀ bs, Host.Outcome.next (s.rxBytes bs) = (.next t : Host.Outcome State Fault Refusal) → P t := fun bs e => by
    cases e; exact h.rxBytes bs hs
  cases hl : i.eventLine with
  | some l =>
    by_cases hd : ∃ seq payload, i = .data l seq payload
    · obtain ⟨seq, payload, rfl⟩ := hd
      exact frame _ ht
    · exact h.lineEvent i l s t hl (fun seq payload e => hd ⟨seq, payload, e⟩) hs ht
  | none =>
    cases i with
    | powerOnReset a b => cases ht; exact h.powerOn s a b hs
    | trunkBreak => cases ht; exact h.trunkBreak hs
    | huntByte c =>
      cases ht
      cases c with
      | byte b => exact h.rxByte b hs
      | spaceStop => exact h.rxSpaceStop hs
    | crcError f =>
      cases ht
      cases f with
      | badCrc bytes => exact h.rxBytes bytes hs
      | abandoned bytes => exact h.trunkMark (h.rxSpaceStop (h.rxBytes bytes hs))
    | partResetComplete => cases ht; exact h.testPartReset s hs
    | grantRefreshTimerExpiry => cases ht; exact h.refreshExpiry s hs
    | repeatTimerExpiry c => cases ht; exact h.repeatExpiry s c hs
    | announceTimerExpiry => cases ht; exact h.announceExpiry s hs
    | arbiterChoice => cases ht; exact h.arbiterChoice s hs
    | frameEnd => cases ht; exact h.frameEnd s hs
    | trunkBreakEnd => cases ht; exact h.trunkMark hs
    | _ => first | exact frame _ ht | exact absurd hl (by simp [Instr.eventLine])

/-- Every step keeps it, when the queue of commands is not its matter. -/
theorem step (h : Kept P) (hq : ∀ s q, P s → P { s with pending := q }) {t : State} (hs : P s) (ht : step s = .next t) : P t := by
  unfold Machine.step at ht
  split at ht
  · cases ht; exact hs
  · exact h.exec (hq s _ hs) ht

end Kept

end Sys2Proof.Machine
end

section
/-!
PROOF. The changes of which every line event is made: each leaves what it does not name, keeps the counters and markers within their bounds,
a line open, its long request's slot owed, and the pool's accounts.
-/
namespace Sys2Proof.Machine

/-! ## What a line holds of the pool (R5, R9, R12, R14) -/

/-- The cells a line holds. -/
def Line.cells (x : Line) : Nat := x.outQ.length + x.inQ.length

/-- The cells a line has reserved (R6). -/
def Line.reserved (x : Line) : Nat := x.resOut + x.resIn

/-- A line within its quotas, its cells within 32 bytes, and its credit within its room. -/
def Line.Fits (x : Line) : Prop :=
  x.outQ.length ≤ x.resOut ∧ x.inQ.length ≤ x.resIn ∧ x.credit ≤ x.room ∧ ∀ c ∈ x.outQ, c.bytes.length ≤ Config.cellBytes

/-- The pool's accounts but for the values of CLOSED lines. -/
def State.Accounts (s : State) : Prop :=
  s.pool.free + s.sumLines Line.cells = Config.poolCells ∧ s.pool.unreserved + s.sumLines Line.reserved = Config.poolCells
    ∧ ∀ l, (s.line l).Fits

theorem State.poolAccounts_iff (s : State) : s.poolAccounts ↔ s.Accounts ∧ s.closedAtRest :=
  ⟨fun ⟨hf, hu, hl, hc⟩ => ⟨⟨hf, hu, hl⟩, hc⟩, fun ⟨⟨hf, hu, hl⟩, hc⟩ => ⟨hf, hu, hl, hc⟩⟩

/-- The slot of a line's long request. -/
def Line.longSlot (x : Line) : Option (Fin 4) := x.long.bind LongReq.slot

/-- The ten line counters are within their top (R58). -/
def Counters.Bounded (c : Counters) : Prop := ∀ n ∈ c.list, n ≤ Config.counterTop

/-! ## The changes of one line -/

/-- What no line event changes but by bounds: the binding, the counters' and the marker list's bounds, and that the line is not CLOSED. -/
structure Line.Tame (x y : Line) : Prop where
  binding : y.binding = x.binding
  counters : x.counters.Bounded → y.counters.Bounded
  markers : x.markers.length ≤ Config.maxMarkers → y.markers.length ≤ Config.maxMarkers
  isOpen : x.state ≠ .closed → y.state ≠ .closed
  long : x.long = none → y.long = none

/-- What the accounts and the responses owed read of a line. -/
def Line.ledger (x : Line) : Fin 8 × List OutCell × Nat × Nat × Nat × Pos × Pos × Option (Option (Fin 4)) :=
  (x.binding, x.outQ, x.inQ.length, x.resOut, x.resIn, x.A, x.Lsent, x.long.map LongReq.slot)

/-- A change of a line that moves no cell and no reservation. -/
structure Line.Still (x y : Line) : Prop where
  ledger : y.ledger = x.ledger
  counters : x.counters.Bounded → y.counters.Bounded
  markers : x.markers.length ≤ Config.maxMarkers → y.markers.length ≤ Config.maxMarkers
  isOpen : x.state ≠ .closed → y.state ≠ .closed

/-- One change of line l: its record with the cells it takes or gives back, an event of it, its events removed, or its long request
ended or begun. The slot of its long request is kept where `keep` says so. -/
inductive LineMove (l : Fin 8) (keep : Prop) : State → State → Prop
  | line (s : State) (y : Line) (f : Nat) (tame : (s.line l).Tame y)
      (slot : keep → ∀ n, (s.line l).longSlot = some n → y.longSlot = some n)
      (accounts : s.Accounts → f + y.cells = s.pool.free + (s.line l).cells ∧ y.reserved = (s.line l).reserved ∧ y.Fits) :
      LineMove l keep s { s.setLine l y with pool := { s.pool with free := f } }
  | raise (s : State) (r : EventRec) (h : r.cls ≠ 0) : LineMove l keep s (s.raise l r)
  | removeLine (s : State) : LineMove l keep s { s with events := s.events.removeLine l }
  | finishLong (s : State) (reply : Reply) : LineMove l keep s (s.finishLong l reply)
  | take (s : State) (y : Line) (still : (s.line l).Still y) (ho : (s.line l).state ≠ .closed) (free : keep → (s.line l).longSlot = none)
      (k : LongKind) (slot : Option (Fin 4)) (nIn nOut : Nat) : LineMove l keep s (s.setLine l (y.setLong k slot nIn nOut))

/-- One change of line l after another. -/
inductive LineMoves (l : Fin 8) (keep : Prop) (s : State) : State → Prop
  | refl : LineMoves l keep s s
  | tail {t u : State} (h : LineMoves l keep s t) (m : LineMove l keep t u) : LineMoves l keep s u

/-- A line event: changes of its line, and then nothing more, or the entry to CLOSED and the completion of PART RESET where they are due. -/
def LineEvent (l : Fin 8) (keep : Prop) (s t : State) : Prop :=
  ∃ u, LineMoves l keep s u ∧ (t = u ∨ t = (u.testClose l).testPartReset)

/-! ## Changes that leave the accounts as they are -/

theorem Line.Still.refl (x : Line) : x.Still x := ⟨rfl, id, id, id⟩

theorem Line.Still.trans {x y z : Line} (h : x.Still y) (h' : y.Still z) : x.Still z :=
  ⟨h'.ledger.trans h.ledger, fun c => h'.counters (h.counters c), fun c => h'.markers (h.markers c), fun c => h'.isOpen (h.isOpen c)⟩

/-- The same, the later change first. -/
theorem Line.Still.after {x y z : Line} (h' : y.Still z) (h : x.Still y) : x.Still z := h.trans h'

/-- Fields of equal value are enough. -/
theorem Line.Still.of_eq {x y : Line} (hl : y.ledger = x.ledger) (hc : y.counters = x.counters) (hm : y.markers = x.markers)
    (ho : x.state ≠ .closed → y.state ≠ .closed) : x.Still y :=
  ⟨hl, fun h => by rw [hc]; exact h, fun h => by rw [hm]; exact h, ho⟩

/-- One of two such changes. -/
theorem Line.Still.ite {c : Prop} [Decidable c] {x y z : Line} (hy : x.Still y) (hz : x.Still z) : x.Still (if c then y else z) := by
  split <;> assumption

theorem Line.Still.slot_eq {x y : Line} (h : x.Still y) : y.long.map LongReq.slot = x.long.map LongReq.slot := by
  have := h.ledger; simp only [Line.ledger, Prod.mk.injEq] at this; exact this.2.2.2.2.2.2.2

theorem Line.Still.tame {x y : Line} (h : x.Still y) : x.Tame y :=
  ⟨congrArg Prod.fst h.ledger, h.counters, h.markers, h.isOpen, fun hn => by have := h.slot_eq; rw [hn] at this; simpa using this⟩

theorem longSlot_eq_join (x : Line) : x.longSlot = (x.long.map LongReq.slot).join := by
  unfold Line.longSlot; cases x.long <;> rfl

theorem Line.Still.longSlot_eq {x y : Line} (h : x.Still y) : y.longSlot = x.longSlot := by
  rw [longSlot_eq_join, longSlot_eq_join, h.slot_eq]

theorem Line.Still.cells_eq {x y : Line} (h : x.Still y) : y.cells = x.cells := by
  have := h.ledger; simp only [Line.ledger, Prod.mk.injEq] at this; simp [Line.cells, this]

theorem Line.Still.reserved_eq {x y : Line} (h : x.Still y) : y.reserved = x.reserved := by
  have := h.ledger; simp only [Line.ledger, Prod.mk.injEq] at this; simp [Line.reserved, this]

theorem Line.Still.fits {x y : Line} (h : x.Still y) (hx : x.Fits) : y.Fits := by
  have hl := h.ledger
  simp only [Line.ledger, Prod.mk.injEq] at hl
  obtain ⟨-, hq, hi, hro, hri, ha, hs, -⟩ := hl
  simpa [Line.Fits, Line.credit, Line.room, hq, hi, hro, hri, ha, hs] using hx

/-! ## Room (R12) -/

/-- What the tail cell still takes. -/
def tailRoom (q : List OutCell) : Nat :=
  match q.getLast? with
  | some c => Config.cellBytes - c.bytes.length
  | none => 0

theorem Line.room_eq (x : Line) : x.room = Config.cellBytes * (x.resOut - x.outQ.length) + tailRoom x.outQ := rfl

theorem tailRoom_le (q : List OutCell) : tailRoom q ≤ Config.cellBytes := by
  unfold tailRoom; split
  · exact Nat.sub_le _ _
  · exact Nat.zero_le _

/-- Freeing cells from the oldest on leaves no less room (R11, R12). -/
theorem Line.room_le_of_suffix (x : Line) (q : List OutCell) (hs : q <:+ x.outQ) (hr : x.outQ.length ≤ x.resOut) :
    x.room ≤ ({ x with outQ := q } : Line).room := by
  rw [Line.room_eq, Line.room_eq]
  show Config.cellBytes * (x.resOut - x.outQ.length) + _ ≤ Config.cellBytes * (x.resOut - q.length) + tailRoom q
  obtain ⟨pre, hpre⟩ := hs
  have hlen : x.outQ.length = pre.length + q.length := by rw [← hpre, List.length_append]
  cases q with
  | nil =>
    have := tailRoom_le x.outQ
    rcases Nat.eq_zero_or_pos pre.length with h0 | h0
    · have : x.outQ = [] := List.length_eq_zero_iff.mp (by simpa [h0] using hlen)
      exact Nat.le_of_eq (by rw [this])
    · simp only [List.length_nil] at hlen ⊢
      have h1 : Config.cellBytes * (x.resOut - x.outQ.length) + Config.cellBytes ≤ Config.cellBytes * (x.resOut - 0) := by
        rw [← Nat.mul_succ]; exact Nat.mul_le_mul_left _ (by omega)
      omega
  | cons c cs =>
    have htail : tailRoom x.outQ = tailRoom (c :: cs) := by
      unfold tailRoom
      rw [← hpre, List.getLast?_append]
      cases h : (c :: cs).getLast? with
      | none => simp at h
      | some d => rfl
    rw [htail]
    exact Nat.add_le_add_right (Nat.mul_le_mul_left _ (by omega)) _

/-! ## Sums over the lines -/

theorem sum_map_le {α : Type} {f g : α → Nat} : ∀ {xs : List α}, (∀ x ∈ xs, f x ≤ g x) → (xs.map f).sum ≤ (xs.map g).sum
  | [], _ => Nat.le_refl _
  | x :: xs, h => by
    simp only [List.map_cons, List.sum_cons]
    exact Nat.add_le_add (h x List.mem_cons_self) (sum_map_le fun y hy => h y (List.mem_cons_of_mem _ hy))

/-- A sum over the lines is at most another that is so line by line. -/
theorem State.sumLines_le (s : State) (f g : Line → Nat) (h : ∀ l, f (s.line l) ≤ g (s.line l)) : s.sumLines f ≤ s.sumLines g := by
  unfold State.sumLines
  refine sum_map_le fun x hx => ?_
  rw [Vector.mem_toList_iff, Vector.mem_iff_getElem] at hx
  obtain ⟨k, hk, rfl⟩ := hx
  exact h ⟨k, hk⟩

/-- The free cells are enough for every cell a line's quotas still allow (R5, R6). -/
theorem State.Accounts.reserved_le {s : State} (h : s.Accounts) (l : Fin 8) : (s.line l).reserved ≤ s.pool.free + (s.line l).cells := by
  obtain ⟨hf, hu, hfit⟩ := h
  have h1 := sumLines_setLine s l (s.line l).closedFrom Line.cells
  have h2 := sumLines_setLine s l (s.line l).closedFrom Line.reserved
  have hle : (s.setLine l (s.line l).closedFrom).sumLines Line.cells ≤ (s.setLine l (s.line l).closedFrom).sumLines Line.reserved := by
    apply State.sumLines_le
    intro k
    by_cases hk : k = l
    · subst hk; rw [State.line_setLine_same]; exact Nat.le_refl _
    · rw [State.line_setLine_ne _ _ hk]
      obtain ⟨h1, h2, -⟩ := hfit k
      exact Nat.add_le_add h1 h2
  have h0 : (s.line l).closedFrom.cells = 0 ∧ (s.line l).closedFrom.reserved = 0 := ⟨rfl, rfl⟩
  omega

/-! ## Counters (R58) -/

theorem Counters.bounded_iff (c : Counters) : c.Bounded ↔ c.sent ≤ 65535 ∧ c.received ≤ 65535 ∧ c.framing ≤ 65535 ∧ c.parity ≤ 65535
    ∧ c.overruns ≤ 65535 ∧ c.breaks ≤ 65535 ∧ c.resends ≤ 65535 ∧ c.strayAcks ≤ 65535 ∧ c.lateAcks ≤ 65535 ∧ c.refused ≤ 65535 := by
  simp [Counters.Bounded, Counters.list, Config.counterTop]

theorem Counters.bounded_zero : Counters.zero.Bounded := by rw [Counters.bounded_iff]; decide

/-- A line one of whose counters rises by one. -/
inductive Counters.RisesTo (c : Counters) : Counters → Prop
  | sent : c.RisesTo c.addSent
  | received : c.RisesTo c.addReceived
  | framing : c.RisesTo c.addFraming
  | parity : c.RisesTo c.addParity
  | overrun : c.RisesTo c.addOverrun
  | brk : c.RisesTo c.addBreak
  | resend : c.RisesTo c.addResend
  | stray : c.RisesTo c.addStray
  | late : c.RisesTo c.addLate
  | refused : c.RisesTo c.addRefused

theorem Counters.RisesTo.bounded {c d : Counters} (h : c.RisesTo d) (hc : c.Bounded) : d.Bounded := by
  rw [Counters.bounded_iff] at *
  obtain ⟨h1, h2, h3, h4, h5, h6, h7, h8, h9, h10⟩ := hc
  cases h with
  | sent => exact ⟨bump_le_top _, h2, h3, h4, h5, h6, h7, h8, h9, h10⟩
  | received => exact ⟨h1, bump_le_top _, h3, h4, h5, h6, h7, h8, h9, h10⟩
  | framing => exact ⟨h1, h2, bump_le_top _, h4, h5, h6, h7, h8, h9, h10⟩
  | parity => exact ⟨h1, h2, h3, bump_le_top _, h5, h6, h7, h8, h9, h10⟩
  | overrun => exact ⟨h1, h2, h3, h4, bump_le_top _, h6, h7, h8, h9, h10⟩
  | brk => exact ⟨h1, h2, h3, h4, h5, bump_le_top _, h7, h8, h9, h10⟩
  | resend => exact ⟨h1, h2, h3, h4, h5, h6, bump_le_top _, h8, h9, h10⟩
  | stray => exact ⟨h1, h2, h3, h4, h5, h6, h7, bump_le_top _, h9, h10⟩
  | late => exact ⟨h1, h2, h3, h4, h5, h6, h7, h8, bump_le_top _, h10⟩
  | refused => exact ⟨h1, h2, h3, h4, h5, h6, h7, h8, h9, bump_le_top _⟩

end Sys2Proof.Machine
end

section
/-!
PROOF. The shared operations of a line as changes of it.
-/
namespace Sys2Proof.Machine

/-! ## Storing a frame within credit (R9, R12, R14) -/

/-- A line within its outbound quota, its cells within 32 bytes. -/
def Line.OutFits (x : Line) : Prop := x.outQ.length ≤ x.resOut ∧ ∀ c ∈ x.outQ, c.bytes.length ≤ Config.cellBytes

theorem tailRoom_append (q : List OutCell) (c : OutCell) : tailRoom (q ++ [c]) = Config.cellBytes - c.bytes.length := by
  simp [tailRoom]

/-- A byte in a new cell takes one byte of the room of a line with no room in its tail cell (R9, R12). -/
theorem Line.newCell_outFits (x : Line) (b : Byte) (h : x.OutFits) (hr : 1 ≤ x.room) (ht : tailRoom x.outQ = 0) :
    (x.newCell b).OutFits ∧ (x.newCell b).room + 1 = x.room := by
  obtain ⟨hlen, hc⟩ := h
  rw [Line.room_eq x, ht] at hr ⊢
  rw [Line.room_eq]
  simp only [Line.newCell, tailRoom_append, Line.OutFits, List.length_append, List.length_singleton, List.mem_append, List.mem_singleton]
  simp only [Config.cellBytes] at *
  refine ⟨⟨by omega, fun c h => ?_⟩, by omega⟩
  rcases h with h | rfl
  · exact hc c h
  · simp

/-- A stored byte takes one byte of the room (R9, R12). -/
theorem Line.storeByte_outFits (x : Line) (b : Byte) (h : x.OutFits) (hr : 1 ≤ x.room) :
    (x.storeByte b).OutFits ∧ (x.storeByte b).room + 1 = x.room := by
  unfold Line.storeByte
  split
  · next c hc =>
    obtain ⟨q, hq⟩ := List.getLast?_eq_some_iff.mp hc
    split
    · next hlt =>
      obtain ⟨hlen, hcell⟩ := h
      rw [Line.room_eq, Line.room_eq]
      simp only [hq, List.dropLast_concat, tailRoom_append, Line.OutFits, List.length_append, List.length_singleton, List.mem_append,
        List.mem_singleton] at *
      refine ⟨⟨hlen, fun d hd => ?_⟩, by omega⟩
      rcases hd with hd | rfl
      · exact hcell d (Or.inl hd)
      · simp only [List.length_append, List.length_singleton]; omega
    · next hge => exact x.newCell_outFits b h hr (by rw [hq, tailRoom_append]; omega)
  · next hn => exact x.newCell_outFits b h hr (by rw [List.getLast?_eq_none_iff.mp hn]; rfl)

/-- Bytes within the room are stored within the quota and take so much of the room (R9, R12). -/
theorem Line.storeBytes_outFits : ∀ (bs : List Byte) (x : Line), x.OutFits → bs.length ≤ x.room →
    (x.storeBytes bs).OutFits ∧ (x.storeBytes bs).room + bs.length = x.room
  | [], _, h, _ => ⟨h, rfl⟩
  | b :: bs, x, h, hr => by
    simp only [List.length_cons] at hr ⊢
    obtain ⟨h1, h2⟩ := x.storeByte_outFits b h (by omega)
    obtain ⟨h3, h4⟩ := storeBytes_outFits bs (x.storeByte b) h1 (by omega)
    exact ⟨h3, by rw [← h2, ← h4]; rfl⟩

/-- A candidate of the scan stands within the bytes left (R128). -/
theorem length_le_of_matchAt {pats : Vector Pattern 16} {l : Fin 8} {rest : List Byte} {e : Fin 16} (h : matchAt pats l rest = some e) :
    (pats[e]).length ≤ rest.length := by
  have := List.find?_some h
  simp only [Pattern.matchesAt, Bool.and_eq_true, decide_eq_true_eq] at this
  exact this.1.2

/-- A scan stores no more bytes than it is given (R128). -/
theorem length_stored_scanFrom_le (pats : Vector Pattern 16) (l : Fin 8) : ∀ (bs : List Byte) (skip i n : Nat),
    (scanFrom pats l skip i n bs).stored.length ≤ bs.length - skip := by
  intro bs
  induction bs with
  | nil => intro skip i n; simp [scanFrom]
  | cons b bs ih =>
    intro skip i n
    cases skip with
    | succ k => rw [scanFrom]; have := ih k (i + 1) n; simp only [List.length_cons]; omega
    | zero =>
      rw [scanFrom]
      split
      · have := ih 0 (i + 1) (n + 1); simp only [List.length_cons]; omega
      · next e he =>
        have hk := length_le_of_matchAt he
        simp only [List.length_cons] at hk
        have := fun m => ih ((pats[e]).length - 1) (i + 1) m
        simp only
        split
        · have := this n; simp only [List.length_cons]; omega
        · have := this (n + (pats[e]).length); simp only [List.length_append, List.length_take, List.length_cons]; omega
        · have := this (n + (pats[e]).length); simp only [List.length_append, List.length_take, List.length_cons]; omega

theorem length_stored_scan_le (pats : Vector Pattern 16) (l : Fin 8) (payload : List Byte) :
    (scan pats l payload).stored.length ≤ payload.length := length_stored_scanFrom_le pats l payload 0 0 0

/-- The credit a frame within it leaves (R14). -/
theorem toNat_sub_add_of_le (a b : Pos) (n : Nat) (h : n ≤ (a - b).toNat) : (a - (b + BitVec.ofNat 32 n)).toNat = (a - b).toNat - n := by
  have hlt := (a - b).isLt
  have hn : (BitVec.ofNat 32 n).toNat = n := by rw [BitVec.toNat_ofNat]; omega
  rw [show a - (b + BitVec.ofNat 32 n) = (a - b) - BitVec.ofNat 32 n by
    apply BitVec.eq_of_toNat_eq; simp only [BitVec.toNat_sub, BitVec.toNat_add]; omega, BitVec.toNat_sub_of_le (by rw [BitVec.le_def]; omega), hn]

/-- An accepted frame's bytes stored, its positions counted and its markers listed (R14). -/
theorem Line.accept_eq (p : Profile) (o : Scan) (n : Nat) (x : Line) : ∃ g, x.accept p o n = { x with
    outQ := (x.storeBytes o.stored).outQ
    S := (x.storeBytes o.stored).S
    A := x.A + BitVec.ofNat 32 n
    markers := x.markers ++ o.marks.map (fun m => m.marker x.A x.S)
    grantDue := g } := by
  obtain ⟨q, hq, -⟩ := storeBytes_frame o.stored x
  refine ⟨(x.accept p o n).grantDue, ?_⟩
  unfold Line.accept
  simp only [hq]
  rfl

/-- A frame within credit is accepted within the quota, and leaves the credit within the room (R12, R14). -/
theorem Line.accept_fits (p : Profile) (o : Scan) (n : Nat) (x : Line) (h : x.Fits) (hn : n ≤ x.credit) (ho : o.stored.length ≤ n) :
    (x.accept p o n).Fits ∧ (x.accept p o n).inQ = x.inQ ∧ (x.accept p o n).reserved = x.reserved := by
  obtain ⟨hlen, hin, hcr, hcell⟩ := h
  obtain ⟨⟨h1, h2⟩, h3⟩ := x.storeBytes_outFits o.stored ⟨hlen, hcell⟩ (by omega)
  obtain ⟨q, hq, -⟩ := storeBytes_frame o.stored x
  obtain ⟨g, hg⟩ := x.accept_eq p o n
  have hres : (x.storeBytes o.stored).resOut = x.resOut := by rw [hq]
  have hroom : (x.accept p o n).room = (x.storeBytes o.stored).room := by rw [Line.room_eq, Line.room_eq, hg, hres]
  have hcredit : (x.accept p o n).credit = x.credit - n := by
    rw [hg]; exact toNat_sub_add_of_le x.Lsent x.A n hn
  refine ⟨⟨?_, ?_, by omega, ?_⟩, ?_, ?_⟩
  · rw [hg]; exact Nat.le_trans h1 (Nat.le_of_eq hres)
  · rw [hg]; exact hin
  · rw [hg]; exact h2
  · rw [hg]
  · rw [hg]; rfl

/-- Storing shortens no queue. -/
theorem Line.length_outQ_storeBytes : ∀ (bs : List Byte) (x : Line), x.outQ.length ≤ (x.storeBytes bs).outQ.length
  | [], _ => Nat.le_refl _
  | b :: bs, x => by
    refine Nat.le_trans ?_ (length_outQ_storeBytes bs (x.storeByte b))
    unfold Line.storeByte
    split
    · next c hc =>
      obtain ⟨q, hq⟩ := List.getLast?_eq_some_iff.mp hc
      split <;> simp [Line.newCell, hq]
    · simp [Line.newCell]

/-! ## Still changes -/

/-- A counter risen. -/
theorem Line.Still.count (x : Line) (f : Counters → Counters) (h : x.counters.RisesTo (f x.counters)) : x.Still (x.count f) :=
  ⟨rfl, h.bounded, id, id⟩

theorem Line.Still.standing (x : Line) (p : Profile) : x.Still (x.standing p) := by
  obtain ⟨e, t, q, u, h⟩ := x.standing_frame p
  rw [h]; exact .of_eq rfl rfl rfl id

theorem Line.Still.applyMarks (x : Line) (p : Profile) : x.Still (x.applyMarks p) := by
  obtain ⟨a, b, c, h, -⟩ := x.applyMarks_frame p
  rw [h]; exact .of_eq rfl rfl rfl id

theorem Line.Still.enterHeld (x : Line) : x.Still x.enterHeld :=
  .ite (.of_eq rfl rfl rfl fun _ => by simp) (.refl x)

theorem length_setReached : ∀ ms, (setReached ms).length = ms.length
  | [] => rfl
  | m :: ms => by unfold setReached; split <;> simp [length_setReached ms]

theorem Line.Still.sealCurrent (x : Line) : x.Still x.sealCurrent := by
  unfold Line.sealCurrent
  split
  · next c hc =>
    have hne : x.inQ ≠ [] := fun h => by simp [Line.currentCell, h] at hc
    have hlen : (x.inQ.dropLast ++ [({ c with isSealed := true } : InCell)]).length = x.inQ.length := by
      have := List.length_pos_iff.mpr hne
      simp; omega
    exact ⟨by simp only [Line.ledger, hlen], id, id, id⟩
  · exact .refl x

theorem Line.Still.sealOrTime (x : Line) (p : Profile) (b : Byte) : x.Still (x.sealOrTime p b) := by
  unfold Line.sealOrTime
  split
  · exact .ite (.sealCurrent x) (.of_eq rfl rfl rfl id)
  · exact .refl x

theorem Line.Still.ackStart (x : Line) (p : Profile) : x.Still (x.ackStart p) := .ite (.of_eq rfl rfl rfl id) (.refl x)

theorem Line.Still.ackAfterRetire (x : Line) (p : Profile) : x.Still (x.ackAfterRetire p) :=
  .ite (.of_eq rfl rfl rfl id) (.ite (.refl x) (.of_eq rfl rfl rfl id))

theorem Line.Still.ackOnCondition (x : Line) (p : Profile) : x.Still (x.ackOnCondition p) := by
  rw [ackOnCondition_eq]; exact .of_eq rfl rfl rfl id

theorem Line.Still.beginResend (x : Line) : x.Still x.beginResend := ⟨rfl, Counters.RisesTo.bounded .resend, id, id⟩

theorem Line.Still.enterStalled (x : Line) : x.Still x.enterStalled := .of_eq rfl rfl rfl fun _ => by simp [Line.enterStalled]

theorem Line.Still.leaveStalled (x : Line) : x.Still x.leaveStalled :=
  .of_eq rfl rfl rfl fun _ => by simp only [Line.leaveStalled]; split <;> simp

theorem Line.Still.enterGap (x : Line) (p : Profile) : x.Still (x.enterGap p) := .ite (.of_eq rfl rfl rfl id) (.of_eq rfl rfl rfl id)

theorem Line.Still.afterCharacter (x : Line) (p : Profile) : x.Still (x.afterCharacter p) := .ite (.of_eq rfl rfl rfl id) (.enterGap x p)

theorem Line.Still.startData (x : Line) (p : Profile) (b : Byte) : x.Still (x.startData p b) := by
  unfold Line.startData
  split
  · split <;> exact .of_eq rfl rfl rfl id
  · exact .of_eq rfl rfl rfl id

theorem Line.Still.startEnd (x : Line) (p : Profile) : x.Still (x.startEnd p) := by
  unfold Line.startEnd; split <;> exact .of_eq rfl rfl rfl id

theorem Line.Still.choose (x : Line) (p : Profile) : x.Still (x.choose p) := by
  unfold Line.choose
  refine .ite (.of_eq rfl rfl rfl id) (.ite (.startEnd x p) (.ite ?_ (.refl x)))
  split
  · exact .startData x p _
  · exact .refl x

theorem Line.Still.joinBlock (x : Line) (p : Profile) (k : EndKind) (b : OpenBlock) : x.Still (x.joinBlock p k b) :=
  .after (.ackStart _ p) (.of_eq rfl rfl rfl id)

theorem Line.Still.markSent (x : Line) (p : Profile) (e : Pos) : x.Still (x.markSent p e) :=
  .after (.ackStart _ p) (.of_eq rfl rfl rfl id)

theorem Line.Still.discardedBlocks (x : Line) : x.Still x.discardedBlocks :=
  .after (.leaveStalled _) ⟨rfl, id, fun h => Nat.le_trans (List.length_filter_le _ _) h, id⟩

theorem Line.Still.startEdge (x : Line) : x.Still x.startEdge := .ite (.of_eq rfl rfl rfl id) (.of_eq rfl rfl rfl id)
theorem Line.Still.falseStart (x : Line) : x.Still x.falseStart := .ite (.of_eq rfl rfl rfl id) (.of_eq rfl rfl rfl id)
theorem Line.Still.arm (x : Line) : x.Still x.arm := .ite (.of_eq rfl rfl rfl id) (.of_eq rfl rfl rfl id)
theorem Line.Still.breakEnd (x : Line) : x.Still x.breakEnd := .ite (.of_eq rfl rfl rfl id) (.of_eq rfl rfl rfl id)

/-! ## The operations -/

namespace LineMoves
variable {l : Fin 8} {keep : Prop} {s t : State}

/-- The line changed, no cell moved. -/
theorem setLine (h : LineMoves l keep s t) {y : Line} (hy : (t.line l).Still y) : LineMoves l keep s (t.setLine l y) :=
  h.tail (.line t y t.pool.free hy.tame (fun _ n hn => hy.longSlot_eq.trans hn)
    (fun ha => ⟨by rw [hy.cells_eq], hy.reserved_eq, hy.fits (ha.2.2 l)⟩))

theorem mapLine (h : LineMoves l keep s t) {f : Line → Line} (hf : (t.line l).Still (f (t.line l))) : LineMoves l keep s (t.mapLine l f) :=
  h.setLine hf

/-- The line changed with the cells it gives back. -/
theorem freeing (h : LineMoves l keep s t) {y : Line} {n : Nat} (ht : (t.line l).Tame y) (hs : y.longSlot = (t.line l).longSlot)
    (hc : n + y.cells = (t.line l).cells) (hr : y.reserved = (t.line l).reserved) (hf : (t.line l).Fits → y.Fits) :
    LineMoves l keep s ((t.setLine l y).freeCells n) :=
  h.tail (.line t y (t.pool.free + n) ht (fun _ n hn => hs.trans hn) (fun ha => ⟨by omega, hr, hf (ha.2.2 l)⟩))

theorem raise (h : LineMoves l keep s t) (r : EventRec) (hr : r.cls ≠ 0) : LineMoves l keep s (t.raise l r) := h.tail (.raise t r hr)

theorem finishLong (h : LineMoves l keep s t) (r : Reply) : LineMoves l keep s (t.finishLong l r) := h.tail (.finishLong t r)

theorem ite {c : Prop} [Decidable c] {a b : State} (ha : LineMoves l keep s a) (hb : LineMoves l keep s b) :
    LineMoves l keep s (if c then a else b) := by split <;> assumption

/-- Inbound cells discarded (R23). -/
theorem dropInbound (h : LineMoves l keep s t) (k) : LineMoves l keep s (t.dropInbound l k) := by
  obtain ⟨i, a, b, c, he, -⟩ := t.dropInbound_frame l k
  rw [he]
  have hle := List.length_filter_le k (t.line l).inQ
  refine h.freeing ⟨rfl, id, id, id, id⟩ rfl ?_ rfl fun ⟨h1, h2, h3⟩ => ⟨h1, Nat.le_trans hle h2, h3⟩
  simp only [Line.cells]; omega

/-- Rt moved (R10, R11). -/
theorem moveRt (h : LineMoves l keep s t) (rt) : LineMoves l keep s (t.moveRt l rt) := by
  obtain ⟨b, he, -⟩ := t.moveRt_frame l rt
  rw [he]
  have hle := length_dropWhile_le (OutCell.covered rt) (t.line l).outQ
  refine h.freeing ⟨rfl, id, id, id, id⟩ rfl ?_ rfl fun ⟨h1, h2, h3, h4⟩ => ⟨Nat.le_trans hle h1, h2, ?_, fun c hc => h4 c (List.dropWhile_subset _ hc)⟩
  · simp only [Line.cells]; omega
  · exact Nat.le_trans h3 (Line.room_le_of_suffix _ _ (List.dropWhile_suffix _) h1)

/-- Outbound data given up (R50). -/
theorem giveUpOutbound (h : LineMoves l keep s t) : LineMoves l keep s (t.giveUpOutbound l) := by
  obtain ⟨b, he, -⟩ := t.giveUpOutbound_frame l
  rw [he]
  refine h.freeing ⟨rfl, id, id, id, id⟩ rfl ?_ rfl fun ⟨h1, h2, h3, h4⟩ => ⟨Nat.zero_le _, h2, ?_, fun c hc => by simp at hc⟩
  · simp [Line.cells]
  · exact Nat.le_trans h3 (Line.room_le_of_suffix _ _ (List.nil_suffix) h1)

/-- A line event's standing updates. -/
theorem standing (h : LineMoves l keep s t) (p) : LineMoves l keep s (t.mapLine l (Line.standing p)) := h.mapLine (.standing _ p)

theorem testFlush (h : LineMoves l keep s t) : LineMoves l keep s (t.testFlush l) := by
  unfold State.testFlush State.completeFlush
  refine ite ?_ h
  split
  · exact h.finishLong _
  · exact h

theorem testDrain (h : LineMoves l keep s t) : LineMoves l keep s (t.testDrain l) := by
  unfold State.testDrain State.takeDrain
  refine ite ((h.dropInbound _).mapLine (.of_eq ?_ rfl rfl id)) h
  simp only [Line.ledger]
  cases ((t.dropInbound l _).line l).long <;> rfl

/-- What follows within an event. -/
theorem settle (h : LineMoves l keep s t) : LineEvent l keep s (t.settle l) := ⟨_, ((h.standing _).testFlush).testDrain, Or.inr rfl⟩

theorem event (h : LineMoves l keep s t) : LineEvent l keep s t := ⟨t, h, Or.inl rfl⟩

theorem raiseMarks (h : LineMoves l keep s t) : ∀ (g : List Marker),
    LineMoves l keep s (g.foldl (fun u m => u.raise l (.mark 1 m.tag m.accepted)) t) := by
  intro g
  induction g generalizing t with
  | nil => exact h
  | cons a g ih => exact ih (h.raise _ (by simp [EventRec.cls]))

theorem reachMarks (h : LineMoves l keep s t) : LineMoves l keep s (t.reachMarks l) :=
  raiseMarks (h.setLine (y := { t.line l with markers := (t.line l).markers.filter (fun m => !Marker.passed (t.line l).Rt m) }) ⟨rfl, id, fun hm => Nat.le_trans (List.length_filter_le _ _) hm, id⟩) _

theorem reachBarrier (h : LineMoves l keep s t) (p) : LineMoves l keep s (t.reachBarrier l p) := by
  unfold State.reachBarrier
  split
  · exact h
  · refine ite (ite (h.mapLine (.enterHeld _)) (raise (h.mapLine ?_) _ (by simp [EventRec.cls]))) h
    exact .after (.enterHeld _) ⟨rfl, id, fun hm => Nat.le_trans (Nat.le_of_eq (length_setReached _)) hm, id⟩

theorem stall (h : LineMoves l keep s t) : LineMoves l keep s (t.stall l) := by
  unfold State.stall State.failDrain
  exact raise ((ite (h.finishLong _) h).mapLine (.enterStalled _)) _ (by simp [EventRec.cls])

theorem retryOrStall (h : LineMoves l keep s t) : LineMoves l keep s (t.retryOrStall l) := by
  unfold State.retryOrStall
  exact ite (h.mapLine (.after (.beginResend _) (.of_eq rfl rfl rfl id))) h.stall

theorem retireOldest (h : LineMoves l keep s t) (b) : LineMoves l keep s (t.retireOldest l b) := by
  unfold State.retireOldest
  exact ((((h.mapLine (.of_eq rfl rfl rfl id)).moveRt _).reachMarks).mapLine (.ackAfterRetire _ _)).mapLine
    (.ite (.leaveStalled _) (.refl _))

theorem strayAck (h : LineMoves l keep s t) : LineMoves l keep s (t.strayAck l) :=
  (h.mapLine (.count _ _ .stray)).raise _ (by simp [EventRec.cls])

theorem lateAck (h : LineMoves l keep s t) : LineMoves l keep s (t.lateAck l) :=
  (h.mapLine (.count _ _ .late)).raise _ (by simp [EventRec.cls])

theorem takeAck (h : LineMoves l keep s t) : LineMoves l keep s (t.takeAck l) := by
  unfold State.takeAck
  simp only
  split
  · exact h.strayAck
  · exact ite (h.retireOldest _) h.lateAck

theorem takeNak (h : LineMoves l keep s t) : LineMoves l keep s (t.takeNak l) := by
  unfold State.takeNak
  simp only
  split
  · exact h.strayAck
  · exact ite h.retryOrStall h.strayAck

theorem endCompletes (h : LineMoves l keep s t) (c) : LineMoves l keep s (t.endCompletes l c) := by
  unfold State.endCompletes
  simp only
  split
  · exact h
  · split
    · exact (h.mapLine (.joinBlock _ _ _ _)).reachBarrier _
    · exact h
  · exact ite ((h.mapLine (.markSent _ _ _)).reachBarrier _) h

theorem pacerCompletes (h : LineMoves l keep s t) (c) : LineMoves l keep s (t.pacerCompletes l c) := by
  unfold State.pacerCompletes State.byteCompletes
  split
  · exact h
  · exact h.endCompletes _
  · exact ite (h.endCompletes _) (ite (((h.moveRt _).reachMarks).reachBarrier _) h)

theorem reportCondition (h : LineMoves l keep s t) : LineMoves l keep s (t.reportCondition l) :=
  (h.mapLine (.of_eq rfl rfl rfl id)).raise _ (by simp [EventRec.cls])

theorem adopt (h : LineMoves l keep s t) (c) : LineMoves l keep s (t.adopt l c) := by
  have h1 : LineMoves l keep s (t.mapLine l (fun ln => { ln with settled := c, candidate := none, debounceTimer := .stopped })) :=
    h.mapLine (.of_eq rfl rfl rfl id)
  have h2 := h1.mapLine (f := fun ln => Line.ackOnCondition (t.prof l) { ln with cond := ((t.prof l).entry c).cond, unreported := addCount ln.unreported 1 })
    (.after (.ackOnCondition _ _) (.of_eq rfl rfl rfl id))
  exact ite h1 (ite h2.reportCondition h2)

/-- A character stored or lost (R101, R103). -/
theorem storeIn (h : LineMoves l keep s t) (b) : LineMoves l keep s (t.storeIn l b) := by
  unfold State.storeIn
  simp only
  split
  · next c hc =>
    refine h.setLine (.after (.sealOrTime _ _ _) ⟨?_, id, id, id⟩)
    have hne : (t.line l).inQ ≠ [] := fun e => by simp [Line.currentCell, e] at hc
    have hlen : ((t.line l).inQ.dropLast ++ [({ c with bytes := c.bytes ++ [b] } : InCell)]).length = (t.line l).inQ.length := by
      have := List.length_pos_iff.mpr hne
      simp; omega
    simp only [Line.ledger, hlen]
  · split
    · next hlt =>
      let x1 : Line := { t.line l with inQ := (t.line l).inQ ++ [⟨[b], false, false⟩] }
      have hy : x1.Still (Line.sealOrTime (t.prof l) b (x1.applyMarks (t.prof l))) := (Line.Still.applyMarks x1 _).trans (.sealOrTime _ _ _)
      have hx : (t.line l).Tame x1 := ⟨rfl, id, id, id, id⟩
      have hcells : x1.cells = (t.line l).cells + 1 := by simp [Line.cells, x1]; omega
      refine h.tail (.line t _ (t.pool.free - 1) ⟨hy.tame.binding, fun c => hy.counters c, fun c => hy.markers c, fun c => hy.isOpen c, fun c => hy.tame.long c⟩
        (fun _ n hn => hy.longSlot_eq.trans hn) fun ha => ?_)
      have hroom := ha.reserved_le l
      obtain ⟨h1, h2, h3, h4⟩ := ha.2.2 l
      have hres : (t.line l).cells < (t.line l).reserved := Nat.add_lt_add_of_le_of_lt h1 hlt
      exact ⟨by rw [hy.cells_eq]; omega, hy.reserved_eq, hy.fits ⟨h1, Nat.le_trans (Nat.le_of_eq List.length_append) hlt, h3, h4⟩⟩
    · exact (h.mapLine (.count _ _ .overrun)).raise _ (by simp [EventRec.cls])

theorem goodCharacter (h : LineMoves l keep s t) (b) : LineMoves l keep s (t.goodCharacter l b) := by
  have h1 : LineMoves l keep s (t.mapLine l (fun ln => { ln.count Counters.addReceived with rx := .idle, armed := true })) :=
    h.mapLine ⟨rfl, Counters.RisesTo.bounded .received, id, id⟩
  unfold State.goodCharacter State.goodUnderCode
  simp only
  split
  · exact h1.storeIn _
  · exact ite (h1.mapLine (.of_eq rfl rfl rfl id)) (ite (h1.mapLine (.of_eq rfl rfl rfl id)) ((h1.mapLine (.of_eq rfl rfl rfl id)).storeIn _))
  · exact ite h1.takeAck (ite h1.takeNak (h1.storeIn _))

theorem sortCharacter (h : LineMoves l keep s t) (a b c) : LineMoves l keep s (t.sortCharacter l a b c) := by
  have hb := raise (h.mapLine (f := fun ln => Line.sealCurrent { ln.count Counters.addBreak with rx := .brk, armed := false })
    (.after (.sealCurrent _) ⟨rfl, Counters.RisesTo.bounded .brk, id, id⟩))
    (.lineError { KindSet.empty with brk := true } 0 0 0) (by simp [EventRec.cls])
  unfold State.sortCharacter State.breakDetected State.framingError State.parityError
  simp only
  refine ite (ite (hb.dropInbound _) hb) (ite ?_ (ite ?_ (h.goodCharacter _)))
  · exact raise (h.mapLine ⟨rfl, Counters.RisesTo.bounded .framing, id, id⟩) _ (by simp [EventRec.cls])
  · exact raise (h.mapLine ⟨rfl, Counters.RisesTo.bounded .parity, id, id⟩) _ (by simp [EventRec.cls])

theorem refuseData (h : LineMoves l keep s t) (r n) : LineMoves l keep s (t.refuseData l r n) :=
  (h.mapLine (.count _ _ .refused)).raise _ (by simp [EventRec.cls])

/-- A frame within credit stored and its markers listed (R14). -/
theorem accept (h : LineMoves l keep s t) (payload : List Byte) (hcr : payload.length ≤ (t.line l).credit)
    (hmk : (t.line l).markers.length + (scan t.patterns l payload).marks.length ≤ Config.maxMarkers) :
    let y := (t.line l).accept (t.prof l) (scan t.patterns l payload) payload.length
    LineMoves l keep s ((t.setLine l y).takeCells (y.outQ.length - (t.line l).outQ.length)) := by
  let x := t.line l
  let o := scan t.patterns l payload
  obtain ⟨q, g, heq, -⟩ := accept_frame (t.prof l) o payload.length x
  refine h.tail (.line t (x.accept (t.prof l) o payload.length)
    (t.pool.free - ((x.accept (t.prof l) o payload.length).outQ.length - x.outQ.length)) ?_ ?_ fun ha => ?_)
  · rw [heq]
    refine ⟨rfl, id, fun _ => ?_, id, id⟩
    simp only [List.length_append, List.length_map]; exact hmk
  · rw [heq]; exact fun _ n hn => hn
  · have hroom := ha.reserved_le l
    obtain ⟨hfit, hin, hres⟩ := x.accept_fits (t.prof l) o payload.length (ha.2.2 l) hcr (length_stored_scan_le _ _ _)
    have hmono : x.outQ.length ≤ (x.accept (t.prof l) o payload.length).outQ.length := by
      obtain ⟨g', hg'⟩ := x.accept_eq (t.prof l) o payload.length
      rw [hg']; exact x.length_outQ_storeBytes o.stored
    have hle : (x.accept (t.prof l) o payload.length).outQ.length ≤ x.resOut := Nat.le_trans hfit.1 (Nat.le_of_eq (by rw [heq]))
    have hxi := (ha.2.2 l).2.1
    refine ⟨?_, hres, hfit⟩
    simp only [Line.cells, hin, Line.reserved, x] at *
    omega

/-- A DATA frame taken (R14, R15). -/
theorem takeData (h : LineMoves l keep s t) (payload) : LineEvent l keep s (t.takeData l payload) := by
  unfold State.takeData
  simp only
  split
  · exact (h.refuseData _ _).event
  split
  · exact (h.refuseData _ _).event
  next hcr =>
  split
  · exact (h.refuseData _ _).event
  next hmk => exact settle (h.accept payload (Nat.not_lt.mp hcr) (Nat.not_lt.mp hmk))

end LineMoves

end Sys2Proof.Machine
end

section
/-!
PROOF. Every line event, and every request taken by a line, as changes of its line.
-/
namespace Sys2Proof.Machine

theorem Line.Still.beginBreak (x : Line) (p : Profile) : x.Still (x.beginBreak p) := .of_eq rfl rfl rfl id

/-- The transmitter, the receiver and the timers may change. -/
theorem Line.Still.release (x : Line) : x.Still x.release :=
  ⟨rfl, id, fun h => Nat.le_trans (List.length_eraseP_le) h, fun _ => by simp [Line.release]⟩

theorem Line.Still.resumeStalled (x : Line) : x.Still x.resumeStalled :=
  .after (.beginResend _) (.of_eq rfl rfl rfl fun _ => by simp)

theorem Line.Still.flushedOut (x : Line) : x.Still x.flushedOut :=
  ⟨rfl, id, fun _ => Nat.zero_le _, fun _ => by simp [Line.flushedOut]⟩

/-- A line's values when an abort is taken, its long request and its queues apart (R50, R111, R120). -/
def Line.abortedFrom (x : Line) : Line :=
  { x with
    state := .draining
    tx := if x.tx = .brk then .idle else x.tx.abandon
    brk := .none
    openBlock := none
    endWaiting := false
    blocks := []
    resend := false
    markers := []
    pause := .none
    gapTimer := .stopped
    ackTimer := .stopped
    pauseTimer := .stopped
    lingerTimer := .stopped
    breakTimer := .stopped
    rx := .idle
    candidate := none
    debounceTimer := .stopped }

theorem Line.aborted_eq (x : Line) (slot : Option (Fin 4)) (a b : Nat) : x.aborted slot a b = x.abortedFrom.setLong .closeAbort slot a b := rfl

theorem Line.Still.abortedFrom (x : Line) : x.Still x.abortedFrom := ⟨rfl, id, fun _ => Nat.zero_le _, fun _ => by simp [Line.abortedFrom]⟩

/-! ## Line events (the commands with a line of their own) -/

namespace LineMoves
variable {l : Fin 8} {keep : Prop} {s t : State}

theorem transmitterChoice (h : LineMoves l keep s t) : LineEvent l keep s (t.transmitterChoice l) := by
  unfold State.transmitterChoice
  split
  · exact (h.mapLine (.choose _ _)).settle
  · exact h.event

theorem beginPendingBreak (h : LineMoves l keep s t) : LineEvent l keep s (t.beginPendingBreak l) := by
  unfold State.beginPendingBreak
  simp only
  split
  · exact (h.mapLine (.beginBreak _ _)).settle
  · exact h.event

theorem endBreak (h : LineMoves l keep s t) : LineEvent l keep s (t.endBreak l) := by
  unfold State.endBreak
  simp only
  split
  · have h1 : LineMoves l keep s (t.mapLine l (fun x => Line.enterGap (t.prof l) { x with brk := .none, breakTimer := .stopped })) :=
      h.mapLine (.after (.enterGap _ _) (.of_eq rfl rfl rfl id))
    exact (ite (h1.finishLong _) h1).settle
  · exact h.event

theorem characterCompletion (h : LineMoves l keep s t) : LineEvent l keep s (t.characterCompletion l) := by
  unfold State.characterCompletion
  split
  · exact (((h.mapLine (.count _ _ .sent)).pacerCompletes _).mapLine (.afterCharacter _ _)).settle
  · exact h.event

theorem gapExpiry (h : LineMoves l keep s t) : LineEvent l keep s (t.gapExpiry l) := by
  unfold State.gapExpiry
  simp only
  split
  · exact (h.mapLine (.of_eq rfl rfl rfl id)).settle
  · exact h.event

theorem ackExpiry (h : LineMoves l keep s t) : LineEvent l keep s (t.ackExpiry l) := by
  unfold State.ackExpiry
  split
  · exact (retryOrStall (h.mapLine (.of_eq rfl rfl rfl id))).settle
  · exact h.event

theorem pauseExpiry (h : LineMoves l keep s t) : LineMoves l keep s (t.pauseExpiry l) := by
  unfold State.pauseExpiry
  exact ite ((h.mapLine (.of_eq rfl rfl rfl id)).raise _ (by simp [EventRec.cls])) h

theorem lingerExpiry (h : LineMoves l keep s t) : LineEvent l keep s (t.lingerExpiry l) := by
  unfold State.lingerExpiry
  split
  · exact (h.mapLine (.of_eq rfl rfl rfl id)).settle
  · exact h.event

theorem rdyiChange (h : LineMoves l keep s t) (a) : LineEvent l keep s (t.rdyiChange l a) :=
  (h.mapLine (.of_eq rfl rfl rfl id)).settle

theorem characterReceived (h : LineMoves l keep s t) (a b c) : LineEvent l keep s (t.characterReceived l a b c) := by
  have h1 : LineMoves l keep s (t.mapLine l (fun ln => { ln with rxd := if c then .mark else .space })) :=
    h.mapLine (.of_eq rfl rfl rfl id)
  unfold State.characterReceived
  simp only
  split
  · exact (h1.sortCharacter _ _ _).settle
  · exact h1.event

theorem idleExpiry (h : LineMoves l keep s t) : LineMoves l keep s (t.idleExpiry l) := by
  unfold State.idleExpiry
  exact ite (h.mapLine (.after (.sealCurrent _) (.of_eq rfl rfl rfl id))) h

theorem statusChange (h : LineMoves l keep s t) (c) : LineEvent l keep s (t.statusChange l c) := by
  have h1 : LineMoves l keep s (t.mapLine l (fun x => { x with st := c })) := h.mapLine (.of_eq rfl rfl rfl id)
  unfold State.statusChange
  simp only
  split
  · exact (ite (h1.adopt _) (h1.mapLine (.of_eq rfl rfl rfl id))).settle
  · exact h1.event

theorem debounceExpiry (h : LineMoves l keep s t) : LineEvent l keep s (t.debounceExpiry l) := by
  unfold State.debounceExpiry
  simp only
  split
  · split
    · exact (h.adopt _).settle
    · exact h.event
  · exact h.event

/-- The entry to CLOSED and the completion of PART RESET, tested alone. -/
theorem closes (h : LineMoves l keep s t) : LineEvent l keep s ((t.testClose l).testPartReset) := ⟨t, h, Or.inr rfl⟩

end LineMoves

/-- A command of a line, DATA apart, is a line event. -/
theorem LineEvent.of_exec {i : Instr} {l : Fin 8} {s t : State} (keep : Prop) (hl : i.eventLine = some l)
    (hd : ∀ seq payload, i ≠ .data l seq payload) (ht : exec i s = .next t) : LineEvent l keep s t := by
  have h : LineMoves l keep s s := .refl
  cases i with
  | data k seq payload => cases hl; exact absurd rfl (hd seq payload)
  | flushComplete k => cases hl; cases ht; exact h.testFlush.event
  | breakBegin k => cases hl; cases ht; exact h.beginPendingBreak
  | transmitterChoice k => cases hl; cases ht; exact h.transmitterChoice
  | characterCompletion k => cases hl; cases ht; exact h.characterCompletion
  | gapTimerExpiry k => cases hl; cases ht; exact h.gapExpiry
  | ackTimerExpiry k => cases hl; cases ht; exact h.ackExpiry
  | pauseTimerExpiry k => cases hl; cases ht; exact h.pauseExpiry.event
  | lingerTimerExpiry k => cases hl; cases ht; exact h.lingerExpiry
  | breakTimerExpiry k => cases hl; cases ht; exact h.endBreak
  | rdyiChange k a => cases hl; cases ht; exact h.rdyiChange a
  | characterReceived k a b c => cases hl; cases ht; exact h.characterReceived a b c
  | receiverBreakEnd k => cases hl; cases ht; exact (h.mapLine (.breakEnd _)).event
  | idleTimerExpiry k => cases hl; cases ht; exact h.idleExpiry.event
  | statusChange k c => cases hl; cases ht; exact h.statusChange c
  | debounceTimerExpiry k => cases hl; cases ht; exact h.debounceExpiry
  | drainComplete k => cases hl; cases ht; exact h.testDrain.closes
  | abortComplete k =>
    cases hl; cases ht
    show LineEvent l keep s (if _ then _ else _)
    split
    · exact h.closes
    · exact h.event
  | entryToClosed k => cases hl; cases ht; exact h.closes
  | startEdge k => cases hl; cases ht; exact (h.mapLine (.startEdge _)).event
  | falseStart k => cases hl; cases ht; exact (h.mapLine (.falseStart _)).event
  | receiverArmed k => cases hl; cases ht; exact (h.mapLine (.arm _)).event
  | _ => simp [Instr.eventLine] at hl

/-! ## Requests taken by a line -/

theorem State.setLine_state_ne (s : State) (l : Fin 8) (y : Line) {c : LineState} (h : y.state ≠ c) : ((s.setLine l y).line l).state ≠ c := by
  rw [State.line_setLine_same]; exact h

namespace LineMoves
variable {l : Fin 8} {keep : Prop} {s t : State}

/-- A line not CLOSED is so after its changes. -/
theorem isOpen (h : LineMoves l keep s t) (ho : (s.line l).state ≠ .closed) : (t.line l).state ≠ .closed := by
  induction h with
  | refl => exact ho
  | tail _ hstep ih =>
    cases hstep with
    | line y f ht => exact (State.line_setLine_same _ l y).symm ▸ ht.isOpen ih
    | raise => exact ih
    | removeLine => exact ih
    | finishLong reply => rw [finishLong_eq]; exact State.setLine_state_ne _ l { State.line _ l with long := none } ih
    | take y hy => exact State.setLine_state_ne _ l (y.setLong _ _ _ _) (hy.isOpen ih)

/-- The line's long request becomes another: none was in progress, or its slot is not to be kept. -/
theorem setLong (h : LineMoves l keep s t) {y : Line} (hy : (t.line l).Still y) (ho : (t.line l).state ≠ .closed)
    (hk : keep → (t.line l).longSlot = none) (k slot a b) : LineMoves l keep s (t.setLine l (y.setLong k slot a b)) :=
  h.tail (.take t y hy ho hk k slot a b)

theorem longSlot_of_isNone {x : Line} (h : ¬ x.long.isSome = true) : x.longSlot = none := by
  have : x.long = none := by simpa using h
  rw [Line.longSlot, this]; rfl

theorem beginDrain (h : LineMoves l keep s t) (ho : (t.line l).state ≠ .closed) (hk : keep → (t.line l).longSlot = none) (slot) : LineEvent l keep s (t.beginDrain l slot) :=
  (h.setLong (y := { t.line l with state := .draining, markers := (t.line l).markers.filter (fun m => m.kind != .hold) })
    ⟨rfl, id, fun hm => Nat.le_trans (List.length_filter_le _ _) hm, fun _ => by simp⟩ ho hk .closeDrain slot 0 0).settle

theorem sendBreak (h : LineMoves l keep s t) (ho : (t.line l).state ≠ .closed) (hk : keep → (t.line l).longSlot = none) (n : Fin 4) :
    LineEvent l keep s ((t.mapLine l (fun x => Line.setLong .sendBreak (some n) 0 0 { x with brk := .pending })).beginPendingBreak l) :=
  (h.setLong (y := { t.line l with brk := .pending }) (.of_eq rfl rfl rfl id) ho hk .sendBreak (some n) 0 0).beginPendingBreak

theorem longSlot_dropInbound (t : State) (l : Fin 8) (k) : ((t.dropInbound l k).line l).longSlot = (t.line l).longSlot := by
  obtain ⟨i, a, b, c, he, -⟩ := t.dropInbound_frame l k
  rw [he]
  exact (congrArg Line.longSlot (State.line_setLine_same t l _)).trans rfl

theorem longSlot_giveUpOutbound (t : State) (l : Fin 8) : ((t.giveUpOutbound l).line l).longSlot = (t.line l).longSlot := by
  obtain ⟨b, he, -⟩ := t.giveUpOutbound_frame l
  rw [he]
  exact (congrArg Line.longSlot (State.line_setLine_same t l _)).trans rfl

theorem flushDiscard (h : LineMoves l keep s t) (out inn) : LineMoves l keep s (t.flushDiscard l out inn) := by
  unfold State.flushDiscard
  have h1 : LineMoves l keep s (if out then (t.giveUpOutbound l).mapLine l Line.flushedOut else t) :=
    ite (h.giveUpOutbound.mapLine (.flushedOut _)) h
  exact ite (h1.dropInbound _) h1

theorem longSlot_flushDiscard (t : State) (l : Fin 8) (out inn) : ((t.flushDiscard l out inn).line l).longSlot = (t.line l).longSlot := by
  unfold State.flushDiscard
  have h1 : ((if out then (t.giveUpOutbound l).mapLine l Line.flushedOut else t).line l).longSlot = (t.line l).longSlot := by
    split
    · exact (congrArg Line.longSlot (State.line_setLine_same _ _ _)).trans (longSlot_giveUpOutbound t l)
    · rfl
  rw [← h1]
  simp only
  split
  · exact longSlot_dropInbound _ l _
  · rfl

theorem flush (h : LineMoves l keep s t) (ho : (t.line l).state ≠ .closed) (hk : keep → (t.line l).longSlot = none) (n out inn) :
    LineEvent l keep s (t.beginFlush l n out inn) :=
  ((h.flushDiscard out inn).setLong (.refl _) (((refl (keep := True)).flushDiscard out inn).isOpen ho)
    (fun hkeep => (longSlot_flushDiscard t l out inn).trans (hk hkeep)) .flush (some n) _ _).settle

theorem abortLine (h : LineMoves l keep s t) (ho : (t.line l).state ≠ .closed) (hk : keep → (t.line l).longSlot = none) (slot) : LineMoves l keep s (t.abortLine l slot) := by
  unfold State.abortLine
  have h1 := (h.giveUpOutbound).dropInbound (fun c => c.inFrame)
  have e1 : (((t.giveUpOutbound l).dropInbound l (fun c => c.inFrame)).line l).longSlot = (t.line l).longSlot :=
    (longSlot_dropInbound _ l _).trans (longSlot_giveUpOutbound t l)
  refine LineMoves.tail ?_ (.removeLine _)
  exact h1.setLong (.abortedFrom _) ((refl (keep := True)).giveUpOutbound.dropInbound _ |>.isOpen ho) (fun hkeep => e1.trans (hk hkeep))
    .closeAbort slot _ _

theorem abort (h : LineMoves l keep s t) (ho : (t.line l).state ≠ .closed) (slot) : LineEvent l keep s (((t.finishLong l (.plain .aborted)).abortLine l slot).settle l) := by
  refine ((h.finishLong _).abortLine (((refl (keep := True)).finishLong _).isOpen ho) (fun _ => ?_) slot).settle
  rw [finishLong_eq]
  exact congrArg Line.longSlot (State.line_setLine_same _ _ _)

theorem release (h : LineMoves l keep s t) : LineEvent l keep s ((t.mapLine l Line.release).settle l) := (h.mapLine (.release _)).settle

theorem resumeStalled (h : LineMoves l keep s t) : LineEvent l keep s ((t.mapLine l Line.resumeStalled).settle l) :=
  (h.mapLine (.resumeStalled _)).settle

theorem discardBlocks (h : LineMoves l keep s t) : LineEvent l keep s (t.discardBlocks l) := (h.moveRt _ |>.mapLine (.discardedBlocks _)).settle

end LineMoves

end Sys2Proof.Machine
end

section
/-!
PROOF. What the owners of requests make of the state, as a list of changes; and what a property of states has to be kept by that asks nothing
of how a line's changes follow each other.
-/
namespace Sys2Proof.Machine

/-! ## The owners of requests (Table 9-4) -/

/-- The changes of the Event Unit by its requests (R146 to R151). -/
inductive EventChange (e : EventUnit) : EventUnit → Prop
  | clear (c : Fin 8) : EventChange e (e.clear c)
  | mask (m : Byte) : EventChange e { e with classes := Vector.ofFn (fun c : Fin 8 => { e.cls c with mask := m.getLsbD c.val }) }
  | fixed : EventChange e { e with mode := .fixed, order := fixedOrder }
  | rotating (o : List (Fin 8)) (h : o = e.order ∨ ∃ c, o = rotated c) : EventChange e { e with mode := .rotating, order := o }
  | interval (n : Nat) : EventChange e { e with interval := n, classes := e.classes.map (fun x => x.underInterval n) }

/-- A pattern entry cleared, or in use with a length of 1 to 4 and no byte beyond it (R124, R125). -/
def Pattern.Valid (p : Pattern) : Prop :=
  p = Pattern.cleared ∨ (p.inUse = true ∧ 1 ≤ p.length ∧ p.length ≤ 4 ∧ ∀ j : Fin 4, p.length ≤ j.val → p.bytes[j] = 0#8)

/-- The changes made by the requests that are answered at once (R160). -/
inductive Change (s : State) : State → Prop
  | same : Change s s
  | clearPart : Change s { s with trunk := { s.trunk with counters := TrunkCounters.zero }, reqs := { s.reqs with dropped := 0 } }
  | refresh (n : Nat) : Change s { s.mapLines (fun ln => { ln with recentGrant := false }) with
      pool := { s.pool with refresh := n, refreshTimer := refreshTimer n } }
  | profile (i : Fin 8) (rec : List Byte) (hlen : rec.length = 46) (hf : profileFail rec = none) (hu : s.profileInUse i = false) :
      Change s { s with profiles := s.profiles.set i.val (Profile.ofBytes rec) i.isLt }
  | bind (l i : Fin 8) (hc : (s.line l).state = .closed) : Change s (s.mapLine l (fun ln => { ln with binding := i }))
  | openLine (l : Fin 8) (hc : (s.line l).state = .closed) (hroom : (s.prof l).outQuota + (s.prof l).inQuota ≤ s.pool.unreserved) :
      Change s (s.openNow l)
  | counters (l : Fin 8) : Change s (s.mapLine l (fun ln => { ln with counters := Counters.zero }))
  | paused (l : Fin 8) (v : Bool) (ho : (s.line l).state ≠ .closed) : Change s (s.mapLine l (fun ln => { ln with paused := v }))
  | aux (l : Fin 8) (v : Bool) : Change s (s.mapLine l (fun ln => { ln with auxo := v }))
  | release (l : Fin 8) (hh : (s.line l).state = .held) : Change s ((s.mapLine l Line.release).settle l)
  | resumeStalled (l : Fin 8) (hs : (s.line l).state = .stalled) : Change s ((s.mapLine l Line.resumeStalled).settle l)
  | discard (l : Fin 8) (hs : (s.line l).state = .stalled) : Change s (s.discardBlocks l)
  | pattern (i : Fin 16) (e : Pattern) (he : e.Valid) : Change s { s with patterns := s.patterns.set i.val e i.isLt }
  | clearPatterns : Change s { s with patterns := Vector.replicate 16 Pattern.cleared }
  | events (e : EventUnit) (he : EventChange s.events e) : Change s { s with events := e }

/-- What the owner of a request that holds slot n makes of the state (R157 check 6): a change and its answer, or a long request begun. -/
inductive Taken (n : Fin 4) (s : State) : State → Prop
  | answered {t : State} (h : Change s t) (reply : Reply) : Taken n s (t.complete n reply)
  | drain (l : Fin 8) (ho : (s.line l).state ≠ .closed) (hs : (s.line l).state ≠ .stalled) (hn : (s.line l).long = none) :
      Taken n s (s.beginDrain l (some n))
  | abort (l : Fin 8) (ho : (s.line l).state ≠ .closed) (ha : (s.line l).abortable = true) :
      Taken n s (((s.finishLong l (.plain .aborted)).abortLine l (some n)).settle l)
  | flush (l : Fin 8) (ho : (s.line l).state ≠ .closed) (hd : (s.line l).state ≠ .draining) (hn : (s.line l).long = none) (out inn : Bool) :
      Taken n s (s.beginFlush l n out inn)
  | sendBreak (l : Fin 8) (ho : (s.line l).state ≠ .closed) (hn : (s.line l).long = none) :
      Taken n s ((s.mapLine l (fun x => Line.setLong .sendBreak (some n) 0 0 { x with brk := .pending })).beginPendingBreak l)
  | partReset (clear : Bool) : Taken n s (s.beginPartReset n clear)

namespace Taken
variable {n : Fin 4} {s : State}

theorem short {own : State → List Byte → State × Reply} {ops : List Byte} (h : Change s (own s ops).1) : Taken n s (s.short n own ops) :=
  .answered h _

/-- A request answered with nothing changed. -/
theorem turnedAway (reply : Reply) : Taken n s (s.complete n reply) := .answered .same reply

theorem long_none {x : Line} (h : ¬ x.long.isSome = true) : x.long = none := by simpa using h

theorem closeLine (ops : List Byte) : Taken n s (ownCloseLine s n ops) := by
  unfold ownCloseLine closeDrain closeAbort
  split
  · simp only
    split
    · exact .turnedAway _
    next ho =>
    split
    · exact .turnedAway _
    next hn =>
    split
    · exact .turnedAway _
    next hs => exact .drain _ ho hs (long_none hn)
  · simp only
    split
    · exact .turnedAway _
    next ho =>
    split
    next ha => exact .abort _ ho ha
    · exact .turnedAway _
  · exact .turnedAway _

theorem ownFlush (ops : List Byte) : Taken n s (ownFlush s n ops) := by
  unfold Machine.ownFlush
  split
  · exact .turnedAway _
  simp only
  split
  · split
    · exact .turnedAway _
    next ho =>
    obtain ⟨ho, hd⟩ := not_or.mp ho
    split
    · exact .turnedAway _
    next hn => exact .flush _ ho hd (long_none hn) _ _
  · exact .turnedAway _

theorem ownSendBreak (ops : List Byte) : Taken n s (ownSendBreak s n ops) := by
  unfold Machine.ownSendBreak
  split
  · exact .turnedAway _
  simp only
  split
  · exact .turnedAway _
  next ho =>
  split
  · exact .turnedAway _
  next hn => exact .sendBreak _ ho (long_none hn)

theorem ownPartReset (ops : List Byte) : Taken n s (ownPartReset s n ops) := by
  unfold Machine.ownPartReset
  split
  · exact .partReset _
  · exact .partReset _
  · exact .turnedAway _

end Taken

namespace Change
variable {s : State}

theorem ownReadPart (ops : List Byte) : Change s (ownReadPart s ops).1 := by
  unfold Machine.ownReadPart
  split
  · exact .same
  · exact .clearPart
  · exact .same

theorem ownLoadProfile (ops : List Byte) (hlen : ops.length = 47) : Change s (ownLoadProfile s ops).1 := by
  unfold Machine.ownLoadProfile
  split
  · exact .same
  split
  · exact .same
  next hu =>
  split
  · exact .same
  next hf => exact .profile _ _ (by simp [hlen]) hf (by simpa using hu)

theorem ownReadProfile (ops : List Byte) : Change s (ownReadProfile s ops).1 := by
  unfold Machine.ownReadProfile; split <;> exact .same

theorem ownBindLine (ops : List Byte) : Change s (ownBindLine s ops).1 := by
  unfold Machine.ownBindLine
  split
  · split
    next hc => exact .bind _ _ hc
    · exact .same
  · exact .same

theorem ownOpenLine (ops : List Byte) : Change s (ownOpenLine s ops).1 := by
  unfold Machine.ownOpenLine
  split
  · exact .same
  split
  · exact .same
  next hc =>
  split
  · exact .same
  next hr => exact .openLine _ (by simpa using hc) (Nat.not_lt.mp hr)

theorem ownResume (ops : List Byte) : Change s (ownResume s ops).1 := by
  unfold Machine.ownResume
  split
  · exact .same
  split
  next h => exact .release _ h
  next h => exact .resumeStalled _ h
  · exact .same
  · exact .same
  · exact .same

theorem ownDiscardBlocks (ops : List Byte) : Change s (ownDiscardBlocks s ops).1 := by
  unfold Machine.ownDiscardBlocks
  split
  · exact .same
  split
  next h => exact .discard _ h
  · exact .same

theorem ownReadLine (ops : List Byte) : Change s (ownReadLine s ops).1 := by
  unfold Machine.ownReadLine
  split
  · exact .same
  · exact .counters _
  · exact .same

theorem setPaused (ops : List Byte) (v : Bool) : Change s (setPaused s ops v).1 := by
  unfold Machine.setPaused
  split
  · exact .same
  split
  · exact .same
  next ho => exact .paused _ v ho

theorem ownSetAux (ops : List Byte) : Change s (ownSetAux s ops).1 := by
  unfold Machine.ownSetAux
  split
  · exact .same
  split
  · exact .aux _ _
  · exact .same

/-- A loaded pattern's bytes beyond its length are 00h (R125). -/
theorem patternBytes_beyond (ops : List Byte) (len : Nat) (j : Fin 4) (h : len ≤ j.val) : (patternBytes ops len)[j] = 0#8 := by
  simp [patternBytes, Nat.not_lt.mpr h]

theorem ownLoadPattern (ops : List Byte) : Change s (ownLoadPattern s ops).1 := by
  unfold Machine.ownLoadPattern
  split
  · exact .same
  simp only
  split
  next h =>
    obtain ⟨h, -⟩ := h
    simp only [within, Bool.and_eq_true, decide_eq_true_eq] at h
    exact .pattern _ _ (Or.inr ⟨rfl, h.1, h.2, patternBytes_beyond ops _⟩)
  · exact .same

theorem ownClearPattern (ops : List Byte) : Change s (ownClearPattern s ops).1 := by
  unfold Machine.ownClearPattern
  split
  · exact .pattern _ _ (Or.inl rfl)
  · split
    · exact .clearPatterns
    · exact .same

theorem ownReadPattern (ops : List Byte) : Change s (ownReadPattern s ops).1 := by
  unfold Machine.ownReadPattern; split <;> exact .same

theorem ownAckEvent (ops : List Byte) : Change s (ownAckEvent s ops).1 := by
  have specific : ∀ c k e, s.events.ackSpecific c k = some e → EventChange s.events e := by
    intro c k e he
    unfold EventUnit.ackSpecific at he
    split at he
    · split at he
      · cases he; exact .clear c
      · cases he
    · cases he
  unfold Machine.ownAckEvent
  split
  · split
    · exact .same
    · split
      next he => exact .events _ (specific _ _ _ he)
      · exact .same
  · split
    · exact .same
    · split
      · exact .events _ (.clear _)
      · exact .same
  · exact .same

theorem ownSetEventOrder (ops : List Byte) : Change s (ownSetEventOrder s ops).1 := by
  unfold Machine.ownSetEventOrder
  split
  · exact .same
  split
  · exact .events _ .fixed
  · refine .events _ (.rotating _ ?_)
    split
    · exact Or.inr ⟨_, rfl⟩
    · exact Or.inl rfl

end Change

/-- A request taken by its owner is one of these (R157 check 6, Table 9-4). -/
theorem toOwner_taken (s : State) (n : Fin 4) (c : ReqCode) (ops : List Byte) (hc : c ≠ .startSession) (hops : ops.length = c.operandBytes) :
    Taken n s (s.toOwner n c ops) := by
  cases c with
  | startSession => exact absurd rfl hc
  | readPart => exact .short (.ownReadPart ops)
  | partReset => exact .ownPartReset ops
  | setGrantRefresh => exact .short (.refresh _)
  | loadProfile => exact .short (.ownLoadProfile ops hops)
  | readProfile => exact .short (.ownReadProfile ops)
  | bindLine => exact .short (.ownBindLine ops)
  | openLine => exact .short (.ownOpenLine ops)
  | closeLine => exact .closeLine ops
  | flush => exact .ownFlush ops
  | resume => exact .short (.ownResume ops)
  | discardBlocks => exact .short (.ownDiscardBlocks ops)
  | readLine => exact .short (.ownReadLine ops)
  | sendBreak => exact .ownSendBreak ops
  | pauseInbound => exact .short (.setPaused ops true)
  | resumeInbound => exact .short (.setPaused ops false)
  | setAux => exact .short (.ownSetAux ops)
  | loadPattern => exact .short (.ownLoadPattern ops)
  | clearPattern => exact .short (.ownClearPattern ops)
  | readPattern => exact .short (.ownReadPattern ops)
  | ackEvent => exact .short (.ownAckEvent ops)
  | setEventMask => exact .short (.events _ (.mask _))
  | setEventOrder => exact .short (.ownSetEventOrder ops)
  | setRepeatInterval => exact .short (.events _ (.interval _))
  | readEvents => exact .short .same

/-! ## The arbiter's choice (R175) -/

/-- What sending leaves of the Trunk Port's record: its counters, the link state, and, while the link is UP, the announce timer. -/
structure Trunk.Sends (t u : Trunk) : Prop where
  counters : u.counters = t.counters
  link : u.link = t.link
  quiet : t.link = .up → u.announceTimer = t.announceTimer ∧ u.announceDue = t.announceDue

/-- What the building of a frame changes beside the Trunk Port's record. -/
inductive Built (s : State) : State → Prop
  | same : Built s s
  | pop : Built s { s with reqs := s.reqs.popOrder }
  | slot (n : Fin 4) : Built s { s with reqs := { s.reqs.popOrder with
      slots := s.reqs.slots.map (fun (x : Slot) => if x.num = n then x.send else x) } }
  | repeated (c : Fin 8) (h : s.events.inService c = true) : Built s { s with events := s.events.repeatSent c }
  | reported (c : Fin 8) (h : s.events.eligible c = true) : Built s { s with events := (s.events.newReport c).1 }
  | grant : Built s (s.mapLines Line.granted)
  | data (l : Fin 8) : Built s (s.mapLine l (fun ln => { ln with inQ := markInFrame (s.line l).frameCells.length ln.inQ }))

/-- A frame built: a change of the parts it is built from, and of the Trunk Port's record. -/
def State.Builds (s t : State) : Prop := ∃ u k, Built s u ∧ u.trunk = s.trunk ∧ s.trunk.Sends k ∧ t = { u with trunk := k }

/-- A frame built while the link is UP. -/
theorem Trunk.sends_tx (t : Trunk) (tx) (q : Byte) (r) (p : Fin 8) : t.Sends { t with tx := tx, txSeq := q, session := r, pointer := p } :=
  ⟨rfl, rfl, fun _ => ⟨rfl, rfl⟩⟩

theorem Trunk.Sends.refl (t : Trunk) : t.Sends t := ⟨rfl, rfl, fun _ => ⟨rfl, rfl⟩⟩

theorem builds_slot (s : State) (n : Fin 4) : s.Builds (s.buildSlot n) := by
  unfold State.buildSlot
  split
  · split
    · exact ⟨_, _, (.slot n), rfl, s.trunk.sends_tx _ _ s.trunk.session s.trunk.pointer, rfl⟩
    · exact ⟨_, _, .pop, rfl, .refl _, rfl⟩
  · exact ⟨_, _, .pop, rfl, .refl _, rfl⟩

theorem builds_refusal (s : State) : s.Builds s.buildRefusal := by
  unfold State.buildRefusal
  split
  · exact ⟨_, _, .pop, rfl, s.trunk.sends_tx _ _ s.trunk.session s.trunk.pointer, rfl⟩
  · exact ⟨_, _, .pop, rfl, .refl _, rfl⟩

theorem builds_report (s : State) {x : EventUnit × Report} (h : s.events.turn = some x) : s.Builds (s.buildReport x) := by
  have hs := s.trunk.sends_tx (some ⟨.report, 15#4, s.trunk.txSeq, x.2.payload, .nothing⟩) (s.trunk.txSeq + 1) s.trunk.session s.trunk.pointer
  unfold EventUnit.turn at h
  split at h
  · next c hc =>
    obtain ⟨r, hr, rfl⟩ := Option.map_eq_some_iff.mp h
    have hi := List.find?_some hc
    simp only [Bool.and_eq_true] at hi
    exact ⟨_, _, (.repeated c hi.2), rfl, hs, rfl⟩
  · obtain ⟨c, hc, rfl⟩ := Option.map_eq_some_iff.mp h
    exact ⟨_, _, (.reported c (List.find?_some hc)), rfl, hs, rfl⟩

theorem builds_arbitrateUp (s : State) : s.Builds s.arbitrateUp := by
  unfold State.arbitrateUp State.buildResponse
  split
  · exact ⟨_, _, .same, rfl, s.trunk.sends_tx _ _ none s.trunk.pointer, rfl⟩
  split
  · split
    · exact builds_slot s _
    · exact builds_refusal s
  split
  next h => exact builds_report s h
  split
  · exact ⟨_, _, .grant, rfl, s.trunk.sends_tx _ _ s.trunk.session s.trunk.pointer, rfl⟩
  split
  next l _ => exact ⟨_, _, (.data l), rfl, s.trunk.sends_tx _ _ s.trunk.session (l + 1), rfl⟩
  · exact ⟨_, _, .same, rfl, .refl _, rfl⟩

theorem builds_arbiterChoice (s : State) : s.Builds s.arbiterChoice := by
  unfold State.arbiterChoice
  split
  · exact ⟨_, _, .same, rfl, .refl _, rfl⟩
  split
  next hl =>
    split
    · exact ⟨s, s.buildAnnounce.trunk, .same, rfl, ⟨rfl, rfl, fun hu => by rw [hl] at hu; cases hu⟩, rfl⟩
    · exact ⟨_, _, .same, rfl, .refl _, rfl⟩
  · exact builds_arbitrateUp s

end Sys2Proof.Machine
end

section
/-!
PROOF. Properties that ask nothing of how the changes follow each other: every step keeps one that every change keeps.
-/
namespace Sys2Proof.Machine

theorem length_markInFrame (q : List InCell) (n : Nat) : (markInFrame n q).length = q.length := by
  have := congrArg List.length (markInFrame_contents q n)
  simpa using this

theorem Line.Still.markedInFrame (x : Line) (n : Nat) : x.Still { x with inQ := markInFrame n x.inQ } := by
  refine .of_eq ?_ rfl rfl id
  simp only [Line.ledger, length_markInFrame]

/-- A property of states kept by every change in whatever order. A change of nothing it reads keeps it by itself. -/
structure KeptWide (P : State → Prop) : Prop where
  powerOn : ∀ s a b, P s → P (s.powerOn a b) := by intros; assumption
  noted : ∀ s t, Noted s t → P s → P t
  linkRestart : ∀ s c, P s → P (s.linkRestart c) := by intros; assumption
  sends : ∀ s k, s.trunk.Sends k → P s → P { s with trunk := k } := by intros; assumption
  sessionBegins : ∀ s k, k.counters = s.trunk.counters → k.announceTimer = .stopped → k.announceDue = false → P s →
    P { s with trunk := k } := by intros; assumption
  dropRequest : ∀ s, P s → P s.dropRequest := by intros; assumption
  listRefusal : ∀ s e, s.reqs.refusals.length < Config.maxRefusals → P s → P (s.listRefusal e) := by intros; assumption
  holdSlot : ∀ s c tag ops n, s.reqs.tagHeld tag = false → s.reqs.freeSlot = some n → P s → P (s.holdSlot n c tag ops) := by intros; assumption
  complete : ∀ s n reply, P s → P (s.complete n reply) := by intros; assumption
  sendSlot : ∀ s n, P s →
    P { s with reqs := { s.reqs with slots := s.reqs.slots.map (fun (x : Slot) => if x.num = n then x.send else x) } } := by intros; assumption
  releaseSlot : ∀ s (n : Fin 4), P s →
    P { s with reqs := { s.reqs with slots := s.reqs.slots.filter (fun k => k.num != n) } } := by intros; assumption
  releaseRefusal : ∀ s, P s → P { s with reqs := { s.reqs with refusals := s.reqs.refusals.tail } } := by intros; assumption
  emptyRefusals : ∀ s, P s → P s.emptyRefusals := by intros; assumption
  order : ∀ s o, P s → P { s with reqs := { s.reqs with order := o } } := by intros; assumption
  partReset : ∀ s p, P s → P { s with reqs := { s.reqs with partReset := p } } := by intros; assumption
  completePartReset : ∀ s p, P s → P (s.completePartReset p)
  clearPart : ∀ s, P s →
    P { s with trunk := { s.trunk with counters := TrunkCounters.zero }, reqs := { s.reqs with dropped := 0 } } := by intros; assumption
  refresh : ∀ s n t, P s → P { s with pool := { s.pool with refresh := n, refreshTimer := t } } := by intros; assumption
  announceExpiry : ∀ s, P s → P s.announceExpiry
  everyLine : ∀ s f, (∀ x : Line, x.Still (f x)) → P s → P (s.mapLines f) := by intros; assumption
  granted : ∀ s, P s → P (s.mapLines Line.granted) := by intros; assumption
  move : ∀ l s t, LineMove l False s t → P s → P t
  enterClosed : ∀ s l, P s → P (s.enterClosed l) := by intros; assumption
  opened : ∀ s l, (s.line l).state = .closed → (s.prof l).outQuota + (s.prof l).inQuota ≤ s.pool.unreserved → P s →
    P { s.mapLine l (Line.opened (s.prof l)) with pool := { s.pool with unreserved := s.pool.unreserved - ((s.prof l).outQuota + (s.prof l).inQuota) } } := by intros; assumption
  bind : ∀ s l i, (s.line l).state = .closed → P s → P (s.mapLine l (fun ln => { ln with binding := i })) := by intros; assumption
  profile : ∀ s (i : Fin 8) (rec : List Byte), rec.length = 46 → profileFail rec = none → P s →
    P { s with profiles := s.profiles.set i.val (Profile.ofBytes rec) i.isLt } := by intros; assumption
  pattern : ∀ s (i : Fin 16) (e : Pattern), e.Valid → P s → P { s with patterns := s.patterns.set i.val e i.isLt } := by intros; assumption
  clearPatterns : ∀ s, P s → P { s with patterns := Vector.replicate 16 Pattern.cleared } := by intros; assumption
  eventChange : ∀ s e, EventChange s.events e → P s → P { s with events := e }
  repeated : ∀ s c, s.events.inService c = true → P s → P { s with events := s.events.repeatSent c } := by intros; assumption
  reported : ∀ s c, s.events.eligible c = true → P s → P { s with events := (s.events.newReport c).1 } := by intros; assumption
  repeatExpiry : ∀ s c, P s → P { s with events := s.events.repeatExpiry c }

namespace KeptWide
variable {P : State → Prop} {s t : State} {l : Fin 8}

theorem moves (h : KeptWide P) (hm : LineMoves l False s t) (hs : P s) : P t := by
  induction hm with
  | refl => exact hs
  | tail _ hstep ih => exact h.move _ _ _ hstep ih

theorem testPartReset (h : KeptWide P) (hs : P s) : P s.testPartReset := by
  unfold State.testPartReset
  split
  · split
    · exact h.completePartReset _ _ hs
    · exact hs
  · exact hs

theorem testClose (h : KeptWide P) (hs : P s) : P (s.testClose l) := by
  unfold State.testClose State.closeLine
  split
  · split
    · exact h.enterClosed _ _ (h.move l _ _ (.finishLong s _) hs)
    · exact h.enterClosed _ _ hs
  · exact hs

theorem lineEvent (h : KeptWide P) (he : LineEvent l False s t) (hs : P s) : P t := by
  obtain ⟨u, hm, rfl | rfl⟩ := he
  · exact h.moves hm hs
  · exact h.testPartReset (h.testClose (h.moves hm hs))

/-- A line with the decoder started (R117). -/
theorem openNow (h : KeptWide P) (hc : (s.line l).state = .closed) (hr : (s.prof l).outQuota + (s.prof l).inQuota ≤ s.pool.unreserved)
    (hs : P s) : P (s.openNow l) := by
  unfold State.openNow State.openDecoder
  have h0 := h.opened s l hc hr hs
  have hm := fun u : State => LineMoves.refl (l := l) (keep := False) (s := u)
  simp only
  split
  · split
    · exact h.moves ((hm _).mapLine (.of_eq rfl rfl rfl id)).reportCondition h0
    · exact h.moves ((hm _).mapLine (.of_eq rfl rfl rfl id)) h0
  · exact h0

theorem change (h : KeptWide P) (hc : Change s t) (hs : P s) : P t := by
  have hm := fun l => LineMoves.refl (l := l) (keep := False) (s := s)
  cases hc with
  | same => exact hs
  | clearPart => exact h.clearPart s hs
  | refresh n => exact h.refresh _ _ _ (h.everyLine s (fun ln => { ln with recentGrant := false }) (fun _ => .of_eq rfl rfl rfl id) hs)
  | profile i rec hlen hf => exact h.profile s i rec hlen hf hs
  | bind l i hc => exact h.bind s l i hc hs
  | openLine l hc hr => exact h.openNow hc hr hs
  | counters l => exact h.moves ((hm l).mapLine ⟨rfl, fun _ => Counters.bounded_zero, id, id⟩) hs
  | paused l v => exact h.moves ((hm l).mapLine (.of_eq rfl rfl rfl id)) hs
  | aux l v => exact h.moves ((hm l).mapLine (.of_eq rfl rfl rfl id)) hs
  | release l => exact h.lineEvent (hm l).release hs
  | resumeStalled l => exact h.lineEvent (hm l).resumeStalled hs
  | discard l => exact h.lineEvent (hm l).discardBlocks hs
  | pattern i e he => exact h.pattern s i e he hs
  | clearPatterns => exact h.clearPatterns s hs
  | events e he => exact h.eventChange s e he hs

/-- One line under PART RESET (R163). -/
theorem resetLine (h : KeptWide P) (hs : P s) : P (s.resetLine l) := by
  unfold State.resetLine
  simp only
  split
  · exact hs
  next ho =>
  split
  · exact hs
  split
  · exact h.move l s _ (.line s { s.line l with long := (s.line l).long.map (fun g => { g with slot := none }) } s.pool.free
      ⟨rfl, id, id, id, fun h => by rw [h]; rfl⟩ False.elim (fun ha => ⟨rfl, rfl, ha.2.2 l⟩)) hs
  · exact h.lineEvent (LineMoves.refl.abortLine ho False.elim none).settle hs

theorem completes (h : KeptWide P) (reply : Reply) : ∀ (ns : List (Fin 4)) {s : State}, P s → P (ns.foldl (fun (t : State) k => t.complete k reply) s)
  | [], _, hs => hs
  | n :: ns, _, hs => h.completes reply ns (h.complete _ n reply hs)

theorem resetLines (h : KeptWide P) : ∀ (ls : List (Fin 8)) {s : State}, P s → P (ls.foldl State.resetLine s)
  | [], _, hs => hs
  | _ :: ls, _, hs => h.resetLines ls (h.resetLine hs)

theorem beginPartReset (h : KeptWide P) (n : Fin 4) (clear : Bool) (hs : P s) : P (s.beginPartReset n clear) := by
  unfold State.beginPartReset
  simp only
  apply h.testPartReset
  apply h.resetLines
  apply h.partReset
  apply h.emptyRefusals
  exact h.completes _ _ hs

theorem taken (h : KeptWide P) {n : Fin 4} (ht : Taken n s t) (hs : P s) : P t := by
  have hm := fun l => LineMoves.refl (l := l) (keep := False) (s := s)
  cases ht with
  | answered hc reply => exact h.complete _ n reply (h.change hc hs)
  | drain l ho => exact h.lineEvent ((hm l).beginDrain ho False.elim _) hs
  | abort l ho => exact h.lineEvent ((hm l).abort ho _) hs
  | flush l ho hd hn out inn => exact h.lineEvent ((hm l).flush ho False.elim n out inn) hs
  | sendBreak l ho => exact h.lineEvent ((hm l).sendBreak ho False.elim n) hs
  | partReset clear => exact h.beginPartReset n clear hs

theorem built (h : KeptWide P) (hb : Built s t) (hs : P s) : P t := by
  cases hb with
  | same => exact hs
  | pop => exact h.order s _ hs
  | slot n => exact h.order _ _ (h.sendSlot s n hs)
  | repeated c hc => exact h.repeated s c hc hs
  | reported c hc => exact h.reported s c hc hs
  | grant => exact h.granted s hs
  | data l => exact h.moves (LineMoves.refl.mapLine (.markedInFrame _ _)) hs

theorem builds (h : KeptWide P) (hb : s.Builds t) (hs : P s) : P t := by
  obtain ⟨u, k, hu, he, hk, rfl⟩ := hb
  exact h.sends u k (he ▸ hk) (h.built hu hs)

/-- The end of the frame on TTX (R22, R158, R159). -/
theorem frameEnd (h : KeptWide P) (hs : P s) : P s.frameEnd := by
  have h1 : P (s.mapTrunk (fun t => { t with tx := none })) := h.sends s _ (s.trunk.sends_tx none s.trunk.txSeq s.trunk.session s.trunk.pointer) hs
  unfold State.frameEnd
  split
  · exact hs
  simp only
  split
  · exact h1
  · exact h.lineEvent (LineMoves.refl.dropInbound _).settle h1
  · exact h.releaseSlot _ _ h1
  · exact h.releaseRefusal _ h1

theorem refreshExpiry (h : KeptWide P) (hs : P s) : P s.refreshExpiry := by
  unfold State.refreshExpiry
  split
  · exact hs
  · exact h.refresh _ _ _ (h.everyLine s (fun ln => { ln with
      grantDue := ln.grantDue || (ln.state != .closed && !ln.recentGrant)
      recentGrant := false }) (fun _ => .of_eq rfl rfl rfl id) hs)

/-- What every change keeps, every command keeps. -/
theorem kept (h : KeptWide P) : Kept P where
  powerOn := h.powerOn
  noted := h.noted
  linkRestart := h.linkRestart
  beginSession := fun s _ _ hs => h.sessionBegins _ _ rfl rfl rfl (h.everyLine s _ (fun _ => .of_eq rfl rfl rfl id) hs)
  takeData := fun _ _ payload hs => h.lineEvent (LineMoves.refl.takeData payload) hs
  dropRequest := h.dropRequest
  listRefusal := h.listRefusal
  admitted := fun s c tag ops n hc hops htag _ hn hs => h.taken (toOwner_taken _ n c ops hc hops) (h.holdSlot s c tag ops n htag hn hs)
  testPartReset := fun _ hs => h.testPartReset hs
  arbiterChoice := fun s hs => h.builds (builds_arbiterChoice s) hs
  frameEnd := fun _ hs => h.frameEnd hs
  refreshExpiry := fun _ hs => h.refreshExpiry hs
  announceExpiry := h.announceExpiry
  repeatExpiry := h.repeatExpiry
  lineEvent := fun _ _ _ _ hl hd hs ht => h.lineEvent (.of_exec False hl hd ht) hs

theorem step (h : KeptWide P) (hq : ∀ s q, P s → P { s with pending := q }) (hs : P s) (ht : step s = .next t) : P t := h.kept.step hq hs ht

end KeptWide

end Sys2Proof.Machine
end

section
/-!
PROOF. The invariants of the Event Unit (O54): its order, the places of its records, and its repeat timers.
-/
namespace Sys2Proof.Machine

/-! ## Properties of the Event Unit -/

/-- A property of the Event Unit kept by every change made of it. -/
structure KeptEvents (Q : EventUnit → Prop) : Prop where
  powerOn : Q EventUnit.powerOn
  raise : ∀ e (l : Fin 8) (r : EventRec), r.cls ≠ 0 → Q e → Q (e.raise l.castSucc r)
  raiseTrunk : ∀ e (r : EventRec), r.cls = 0 → Q e → Q (e.raise 8 r)
  removeLine : ∀ e l, Q e → Q (e.removeLine l)
  restart : ∀ e, Q e → Q e.restart
  change : ∀ e u, EventChange e u → Q e → Q u
  repeated : ∀ e c, e.inService c = true → Q e → Q (e.repeatSent c)
  reported : ∀ e c, Q e → Q (e.newReport c).1
  repeatExpiry : ∀ e c, Q e → Q (e.repeatExpiry c)

/-- Nothing else of the state changes it. -/
theorem KeptEvents.wide {Q : EventUnit → Prop} (h : KeptEvents Q) : KeptWide (fun s => Q s.events) where
  powerOn _ _ _ _ := h.powerOn
  noted s t hn hs := by
    cases hn with
    | port => exact hs
    | raise a b c d e f => exact h.raiseTrunk s.events (.trunk a b c d e f) rfl hs
  linkRestart s c hs := by
    have : (s.linkRestart c).events = s.events.restart := rfl
    rw [this]; exact h.restart s.events hs
  dropRequest s hs := h.raiseTrunk s.events (.trunk 0 0 0 0 0 1) rfl hs
  completePartReset s p _ := by
    have : (s.completePartReset p).events = EventUnit.powerOn := by
      unfold State.completePartReset; simp only; split <;> rfl
    rw [this]; exact h.powerOn
  announceExpiry s hs := by unfold State.announceExpiry; split <;> exact hs
  move l s t hm hs := by
    cases hm with
    | line => exact hs
    | raise r hr => exact h.raise s.events l r hr hs
    | removeLine => exact h.removeLine _ l hs
    | finishLong reply => rw [finishLong_eq]; exact hs
    | take => exact hs
  eventChange _ e he hs := h.change _ e he hs
  repeated _ c hc hs := h.repeated _ c hc hs
  reported _ c _ hs := h.reported _ c hs
  repeatExpiry _ c hs := h.repeatExpiry _ c hs

/-! ## The order (R141) -/

/-- The order is 0 to 7 started at some class, and is 0 to 7 in mode FIXED (R141). -/
def EventUnit.OrderCyclic (e : EventUnit) : Prop := (∃ c, e.order = rotated c) ∧ (e.mode = .fixed → e.order = fixedOrder)

theorem fixedOrder_eq_rotated : fixedOrder = rotated 7 := rfl

/-- An Event Unit of the same order and mode. -/
theorem EventUnit.OrderCyclic.of_eq {e u : EventUnit} (ho : u.order = e.order) (hm : u.mode = e.mode) (h : e.OrderCyclic) : u.OrderCyclic := by
  unfold OrderCyclic; rw [ho, hm]; exact h

/-- What a link restart makes of the Event Unit (R154). -/
theorem EventUnit.restart_frame (e : EventUnit) : e.restart.order = e.order ∧ e.restart.mode = e.mode ∧ e.restart.interval = e.interval
    ∧ (∀ d, e.restart.cls d = { e.cls d with report := none, timer := .stopped, due := false })
    ∧ ∀ d src, e.restart.place d src = restoredRow (e.cls d).report (e.place d) src := by
  obtain ⟨ho, hm, hi, hc, hp⟩ := foldl_returnClass allClasses e (by decide)
  have hall : ∀ d, d ∈ allClasses := by decide
  exact ⟨ho, hm, hi, fun d => (hc d).trans (if_pos (hall d)), fun d src => (hp d src).trans (if_pos (hall d))⟩

theorem EventUnit.orderCyclic_kept : KeptEvents EventUnit.OrderCyclic where
  powerOn := ⟨⟨7, rfl⟩, fun _ => rfl⟩
  raise _ _ _ _ h := h.of_eq rfl rfl
  raiseTrunk _ _ _ h := h.of_eq rfl rfl
  removeLine _ _ h := h.of_eq rfl rfl
  restart e h := h.of_eq e.restart_frame.1 e.restart_frame.2.1
  change e u hc h := by
    cases hc with
    | clear c =>
      unfold EventUnit.clear
      simp only
      split
      · next hm => exact ⟨⟨c, rfl⟩, fun hf => absurd (hf.symm.trans hm) (by decide)⟩
      · exact h.of_eq rfl rfl
    | mask m => exact h.of_eq rfl rfl
    | fixed => exact ⟨⟨7, rfl⟩, fun _ => rfl⟩
    | rotating o ho =>
      refine ⟨?_, fun hf => by cases hf⟩
      rcases ho with rfl | ⟨c, rfl⟩
      · exact h.1
      · exact ⟨c, rfl⟩
    | interval n => exact h.of_eq rfl rfl
  repeated _ _ _ h := h.of_eq rfl rfl
  reported _ _ h := h.of_eq rfl rfl
  repeatExpiry e c h := by
    unfold EventUnit.repeatExpiry; split
    · exact h
    · exact h.of_eq rfl rfl

/-! ## The places of records (R138, R139) -/

/-- A record of a class and a source that its place admits. -/
def EventRec.At (r : EventRec) (c : Fin 8) (src : Fin 9) : Prop := r.cls = c ∧ (c = 0 ↔ src = 8)

/-- A new report empties its class's places (R144). -/
theorem place_newReport (e : EventUnit) (c d : Fin 8) (src : Fin 9) : (e.newReport c).1.place d src = if d = c then none else e.place d src := by
  simp only [EventUnit.newReport, EventUnit.place]
  by_cases h : d = c
  · subst h; simp
  · have : c.val ≠ d.val := fun e => h (Fin.ext e.symm)
    simp [h, Vector.getElem_set_ne, this]

/-- A new report goes into service with its timer started (R144). -/
theorem cls_newReport (e : EventUnit) (c d : Fin 8) : (e.newReport c).1.cls d = if d = c then
    { e.cls c with
      number := (e.cls c).number + 1
      report := some ⟨c, (e.cls c).number + 1, e.records c⟩
      timer := e.repeatTimer
      due := false }
    else e.cls d :=
  cls_setCls e c d _

/-- A class entry under a new mask (R150). -/
theorem cls_mask (e : EventUnit) (m : Byte) (c : Fin 8) :
    ({ e with classes := Vector.ofFn (fun c : Fin 8 => { e.cls c with mask := m.getLsbD c.val }) } : EventUnit).cls c
      = { e.cls c with mask := m.getLsbD c.val } := by
  simp [EventUnit.cls]

/-- A class entry under a new repeat interval (R146). -/
theorem cls_interval (e : EventUnit) (n : Nat) (c : Fin 8) :
    ({ e with interval := n, classes := e.classes.map (fun x => x.underInterval n) } : EventUnit).cls c = (e.cls c).underInterval n := by
  simp [EventUnit.cls]

theorem cls_powerOn (c : Fin 8) : EventUnit.powerOn.cls c = ClassEntry.powerOn := by
  simp [EventUnit.cls, EventUnit.powerOn]

/-- Every pending record, and every record of a report in service, is of its place's class and source. -/
def EventUnit.RecordsInPlace (e : EventUnit) : Prop :=
  (∀ c src r, e.place c src = some r → r.At c src)
    ∧ ∀ c rep, (e.cls c).report = some rep → rep.cls = c ∧ ∀ sr ∈ rep.records, sr.2.At c sr.1

namespace EventUnit.RecordsInPlace
variable {e : EventUnit}

/-- Places that lose records, or keep them, and reports that go. -/
theorem of_le {u : EventUnit} (h : e.RecordsInPlace) (hp : ∀ c src, u.place c src = none ∨ u.place c src = e.place c src)
    (hr : ∀ c, (u.cls c).report = none ∨ (u.cls c).report = (e.cls c).report) : u.RecordsInPlace := by
  refine ⟨fun c src r h1 => ?_, fun c rep h1 => ?_⟩
  · rcases hp c src with h2 | h2
    · rw [h2] at h1; cases h1
    · exact h.1 c src r (h2 ▸ h1)
  · rcases hr c with h2 | h2
    · rw [h2] at h1; cases h1
    · exact h.2 c rep (h2 ▸ h1)

/-- A place set to a record of its class and source. -/
theorem setPlace (h : e.RecordsInPlace) {c : Fin 8} {src : Fin 9} {r : EventRec} (hr : r.At c src) :
    (e.setPlace c src (some r)).RecordsInPlace := by
  refine ⟨fun c' src' r' hr' => ?_, h.2⟩
  by_cases hp : c' = c ∧ src' = src
  · obtain ⟨rfl, rfl⟩ := hp
    rw [place_setPlace_same] at hr'
    cases hr'; exact hr
  · rw [place_setPlace_ne _ _ (Decidable.not_and_iff_or_not.mp hp)] at hr'
    exact h.1 c' src' r' hr'

/-- An event raised at a source its class admits (R139). -/
theorem raise (h : e.RecordsInPlace) {src : Fin 9} {r : EventRec} (hr : r.cls = 0 ↔ src = 8) : (e.raise src r).RecordsInPlace := by
  unfold EventUnit.raise
  apply h.setPlace
  split
  · exact ⟨rfl, hr⟩
  · exact ⟨EventRec.cls_merge _ _, hr⟩

/-- A class entry with its report gone or kept. -/
theorem setCls (h : e.RecordsInPlace) {c : Fin 8} {x : ClassEntry} (hx : x.report = none ∨ x.report = (e.cls c).report) :
    (e.setCls c x).RecordsInPlace := by
  refine h.of_le (fun _ _ => Or.inr rfl) fun d => ?_
  rw [cls_setCls]
  split
  · next hd => rw [hd]; exact hx
  · exact Or.inr rfl

/-- The records a report is made of are in their places (R144). -/
theorem records (h : e.RecordsInPlace) (c : Fin 8) : ∀ sr ∈ e.records c, sr.2.At c sr.1 := by
  intro sr hsr
  simp only [EventUnit.records, List.mem_filterMap, Option.map_eq_some_iff] at hsr
  obtain ⟨src, -, r, hr, rfl⟩ := hsr
  exact h.1 c src r hr

/-- The records of a report return to places of their class and source (R154). -/
theorem foldl_restorePlace {c : Fin 8} : ∀ (rs : List (Fin 9 × EventRec)) (f : Fin 9 → Option EventRec), (∀ sr ∈ rs, sr.2.At c sr.1) →
    (∀ src r, f src = some r → r.At c src) → ∀ src r, rs.foldl restorePlace f src = some r → r.At c src
  | [], _, _, hf => hf
  | sr :: rs, f, hrs, hf => by
    refine foldl_restorePlace rs _ (fun x hx => hrs x (List.mem_cons_of_mem _ hx)) fun src r hr => ?_
    change (if src = sr.1 then _ else _) = _ at hr
    split at hr
    · next hs =>
      subst hs
      have hat := hrs sr (List.mem_cons_self)
      split at hr
      · cases hr; exact hat
      · next p hp => cases hr; exact ⟨(EventRec.cls_merge _ _).trans (hf _ p hp).1, (hf _ p hp).2⟩
    · exact hf src r hr

end EventUnit.RecordsInPlace

theorem EventUnit.recordsInPlace_kept : KeptEvents EventUnit.RecordsInPlace where
  powerOn := by
    refine ⟨fun c src r h => ?_, fun c rep h => ?_⟩
    · simp [EventUnit.powerOn, EventUnit.place] at h
    · rw [cls_powerOn] at h; cases h
  raise e l r hr h := h.raise ⟨fun h0 => absurd h0 hr, fun h8 => absurd (congrArg Fin.val h8) (Nat.ne_of_lt l.isLt)⟩
  raiseTrunk e r hr h := h.raise ⟨fun _ => rfl, fun _ => hr⟩
  removeLine e l h := h.of_le (fun c src => by rw [place_removeLine]; split <;> simp) fun _ => Or.inr rfl
  restart e h := by
    obtain ⟨-, -, -, hc, hp⟩ := e.restart_frame
    refine ⟨fun c src r hr => ?_, fun c rep hr => ?_⟩
    · rw [hp] at hr
      cases hrep : (e.cls c).report with
      | none => rw [hrep] at hr; exact h.1 c src r hr
      | some rep =>
        rw [hrep] at hr
        exact RecordsInPlace.foldl_restorePlace rep.records _ (h.2 c rep hrep).2 (h.1 c) src r hr
    · rw [hc] at hr; cases hr
  change e u hc h := by
    cases hc with
    | clear c =>
      unfold EventUnit.clear
      have h1 : (e.setCls c { e.cls c with report := none, timer := .stopped, due := false }).RecordsInPlace := h.setCls (Or.inl rfl)
      simp only
      split
      · exact ⟨h1.1, h1.2⟩
      · exact h1
    | mask m => exact h.of_le (fun _ _ => Or.inr rfl) fun c => Or.inr (by rw [cls_mask])
    | fixed => exact ⟨h.1, h.2⟩
    | rotating o => exact ⟨h.1, h.2⟩
    | interval n =>
      refine h.of_le (fun _ _ => Or.inr rfl) fun c => Or.inr ?_
      rw [cls_interval, ClassEntry.underInterval]
      split
      · rfl
      · split <;> rfl
  repeated e c _ h := h.setCls (Or.inr rfl)
  reported e c h := by
    refine ⟨fun d src r hr => ?_, fun d rep hr => ?_⟩
    · rw [place_newReport] at hr
      split at hr
      · cases hr
      · exact h.1 d src r hr
    · rw [cls_newReport] at hr
      split at hr
      · next hd => subst hd; cases hr; exact ⟨rfl, h.records d⟩
      · exact h.2 d rep hr
  repeatExpiry e c h := by
    unfold EventUnit.repeatExpiry; split
    · exact h
    · exact h.setCls (Or.inr rfl)

/-! ## Repeats (R144 to R147) -/

/-- A class entry whose timer and due flag are those of its report, under a repeat interval. -/
structure ClassEntry.Repeats (x : ClassEntry) (interval : Nat) : Prop where
  idle : x.report = none → x.timer = .stopped ∧ x.due = false
  serving : x.report ≠ none → interval ≠ 0 → x.timer ≠ .stopped ∨ x.due = true
  due : x.due = true → x.timer = .stopped
  off : interval = 0 → x.timer = .stopped ∧ x.due = false

/-- An entry with no report, its timer stopped and nothing due. -/
theorem ClassEntry.Repeats.of_idle {x : ClassEntry} (n : Nat) (hr : x.report = none) (ht : x.timer = .stopped) (hd : x.due = false) :
    x.Repeats n := ⟨fun _ => ⟨ht, hd⟩, fun h => absurd hr h, fun _ => ht, fun _ => ⟨ht, hd⟩⟩

/-- An entry with a report just sent: its timer is started (R144, R145). -/
theorem ClassEntry.Repeats.of_sent {x : ClassEntry} (e : EventUnit) (hr : x.report ≠ none) (ht : x.timer = e.repeatTimer) (hd : x.due = false) :
    x.Repeats e.interval := by
  refine ⟨fun h => absurd h hr, fun _ hi => Or.inl ?_, fun h => absurd (hd.symm.trans h) (by decide), fun hi => ⟨?_, hd⟩⟩
  · rw [ht, EventUnit.repeatTimer, if_neg hi]; simp
  · rw [ht, EventUnit.repeatTimer, if_pos hi]

/-- A new repeat interval (R146). -/
theorem ClassEntry.Repeats.underInterval {x : ClassEntry} {k : Nat} (h : x.Repeats k) (n : Nat) : (x.underInterval n).Repeats n := by
  unfold ClassEntry.underInterval
  split
  · next hn => exact ⟨fun _ => ⟨rfl, rfl⟩, fun _ hn' => absurd hn hn', fun _ => rfl, fun _ => ⟨rfl, rfl⟩⟩
  next hn =>
  split
  · next hs =>
    obtain ⟨hs, hd⟩ := hs
    refine ⟨fun hr => ?_, fun _ _ => Or.inl (by simp), fun h => ?_, fun h => absurd h hn⟩
    · change x.report = none at hr; rw [hr] at hs; cases hs
    · rw [hd] at h; cases h
  · next hs =>
    refine ⟨h.idle, fun hr _ => Or.inr ?_, h.due, fun h => absurd h hn⟩
    have : x.report.isSome = true := Option.isSome_iff_ne_none.mpr hr
    simpa [this] using hs

/-- Every class entry's timer and due flag are those of its report. -/
def EventUnit.RepeatsMatch (e : EventUnit) : Prop := ∀ c, (e.cls c).Repeats e.interval

theorem EventUnit.RepeatsMatch.setCls {e : EventUnit} (h : e.RepeatsMatch) {c : Fin 8} {x : ClassEntry} (hx : x.Repeats e.interval) :
    (e.setCls c x).RepeatsMatch := by
  intro d
  rw [cls_setCls]
  split
  · exact hx
  · exact h d

theorem EventUnit.repeatsMatch_kept : KeptEvents EventUnit.RepeatsMatch where
  powerOn c := by rw [cls_powerOn]; exact .of_idle _ rfl rfl rfl
  raise _ _ _ _ h := h
  raiseTrunk _ _ _ h := h
  removeLine _ _ h := h
  restart e _ c := by
    obtain ⟨-, -, -, hc, -⟩ := e.restart_frame
    rw [hc]; exact .of_idle _ rfl rfl rfl
  change e u hc h := by
    cases hc with
    | clear c =>
      unfold EventUnit.clear
      have h1 : (e.setCls c { e.cls c with report := none, timer := .stopped, due := false }).RepeatsMatch := h.setCls (.of_idle _ rfl rfl rfl)
      simp only
      split <;> exact h1
    | mask m => intro c; rw [cls_mask]; exact ⟨(h c).idle, (h c).serving, (h c).due, (h c).off⟩
    | fixed => exact h
    | rotating o => exact h
    | interval n => intro c; rw [cls_interval]; exact (h c).underInterval n
  repeated e c hc h := h.setCls (.of_sent e (Option.isSome_iff_ne_none.mp hc) rfl rfl)
  reported e c h d := by
    rw [cls_newReport]
    split
    · exact .of_sent e (by simp) rfl rfl
    · exact h d
  repeatExpiry e c h := by
    unfold EventUnit.repeatExpiry
    split
    · exact h
    next hrun =>
    refine h.setCls ⟨fun hr => absurd ((h c).idle hr).1 hrun, fun _ _ => Or.inr rfl, fun _ => rfl, fun hi => absurd ((h c).off hi).1 hrun⟩

/-! ## The obligation -/

theorem State.repeatsMatch_iff (s : State) : s.repeatsMatch ↔ s.events.RepeatsMatch :=
  forall_congr' fun _ => ⟨fun ⟨h1, h2, h3, h4⟩ => ⟨h1, h2, h3, h4⟩, fun ⟨h1, h2, h3, h4⟩ => ⟨h1, h2, h3, h4⟩⟩

/-- Settles O54: each of the three is kept by every change of the Event Unit. -/
theorem eventUnitStaysSound : Obligations.EventUnitStaysSound := by
  refine ⟨fun s t hs ht => ?_, fun s t hs ht => ?_, fun s t hs ht => ?_⟩
  · exact EventUnit.orderCyclic_kept.wide.step (fun _ _ h => h) hs ht
  · exact EventUnit.recordsInPlace_kept.wide.step (fun _ _ h => h) hs ht
  · rw [State.repeatsMatch_iff] at *
    exact EventUnit.repeatsMatch_kept.wide.step (fun _ _ h => h) hs ht

end Sys2Proof.Machine
end

section
/-!
PROOF. Bounds (O58): the counters, the marker lists, the slots and refusals, and the announce timer.
-/
namespace Sys2Proof.Machine

/-! ## What a completed PART RESET and a link restart make of a line -/

theorem State.line_powerOn (s : State) (a b : Bool) (l : Fin 8) :
    (s.powerOn a b).line l = Line.powerOn (s.line l).rxd (s.line l).rdyi (s.line l).st := by
  simp [State.powerOn, State.line]

theorem State.line_linkRestart (s : State) (c : ResetCause) (l : Fin 8) : (s.linkRestart c).line l = (s.line l).unanswered := by
  simp [State.linkRestart, State.line]

theorem State.line_completePartReset (s : State) (p : PartReset) (l : Fin 8) : (s.completePartReset p).line l = { s.line l with
    counters := Counters.zero
    auxo := false
    binding := if p.clear then 0 else (s.line l).binding } := by
  obtain ⟨-, -, -, -, -, -, -, hl⟩ := completePartReset_resetCompleted s p
  exact hl l

theorem State.trunk_completePartReset (s : State) (p : PartReset) :
    (s.completePartReset p).trunk = { s.trunk with counters := TrunkCounters.zero } := by
  obtain ⟨-, -, ht, -⟩ := completePartReset_resetCompleted s p
  exact ht

theorem State.pool_completePartReset (s : State) (p : PartReset) :
    (s.completePartReset p).pool = { s.pool with refresh := 0, refreshTimer := .stopped } := by
  obtain ⟨-, -, -, hp, -⟩ := completePartReset_resetCompleted s p
  exact hp

/-- The slots of a state in which PART RESET has completed (R164). -/
theorem State.reqs_completePartReset (s : State) (p : PartReset) : (s.completePartReset p).reqs
    = (match p.slot with
      | some n => ({ s.reqs with dropped := 0, partReset := none } : RequestUnit).complete n ⟨.ok, []⟩
      | none => { s.reqs with dropped := 0, partReset := none }) := by
  obtain ⟨hr, -⟩ := completePartReset_resetCompleted s p
  exact hr

/-! ## Properties of every line -/

/-- Every line has a property. -/
def State.EachLine (Q : Line → Prop) (s : State) : Prop := ∀ l, Q (s.line l)

/-- A property of lines kept by every change of a line, in whatever order. -/
structure KeptLine (Q : Line → Prop) : Prop where
  powerOn : ∀ a b c, Q (Line.powerOn a b c)
  tame : ∀ x y : Line, x.Tame y → Q x → Q y
  closed : ∀ x : Line, Q x → Q x.closedFrom
  take : ∀ (x : Line) k slot a b, Q x → Q (x.setLong k slot a b)
  opened : ∀ (p : Profile) (x : Line), Q (x.opened p)
  reset : ∀ (x : Line) (b : Fin 8), Q x → Q { x with counters := Counters.zero, auxo := false, binding := b }
  bind : ∀ (x : Line) (b : Fin 8), Q x → Q { x with binding := b }

namespace KeptLine
variable {Q : Line → Prop} {s : State}

/-- A change of one line. -/
theorem setLine {u : State} {l : Fin 8} {y : Line} (hs : s.EachLine Q) (hy : Q y) (hu : ∀ k, u.line k = (s.setLine l y).line k) :
    u.EachLine Q := by
  intro k
  rw [hu]
  by_cases hk : k = l
  · subst hk; rw [State.line_setLine_same]; exact hy
  · rw [State.line_setLine_ne _ _ hk]; exact hs k

theorem wide (h : KeptLine Q) : KeptWide (State.EachLine Q) where
  powerOn s a b _ l := by rw [s.line_powerOn]; exact h.powerOn _ _ _
  noted s t hn hs := by cases hn <;> exact hs
  linkRestart s c hs l := by rw [s.line_linkRestart]; exact h.tame (s.line l) _ ⟨rfl, id, id, id, fun h => by simp [Line.unanswered, h]⟩ (hs l)
  completePartReset s p hs l := by rw [s.line_completePartReset]; exact h.reset _ _ (hs l)
  announceExpiry s hs := by unfold State.announceExpiry; split <;> exact hs
  everyLine s f hf hs l := by rw [State.line_mapLines]; exact h.tame _ _ (hf _).tame (hs l)
  granted s hs l := by
    rw [State.line_mapLines]
    refine h.tame _ _ ?_ (hs l)
    unfold Line.granted
    split <;> exact ⟨rfl, id, id, id, id⟩
  move l s t hm hs := by
    cases hm with
    | line y f ht => exact setLine hs (h.tame _ _ ht (hs l)) (fun _ => rfl)
    | raise r => exact hs
    | removeLine => exact hs
    | finishLong reply => rw [finishLong_eq]; exact setLine (y := { s.line l with long := none }) hs (h.tame (s.line l) _ ⟨rfl, id, id, id, fun _ => rfl⟩ (hs l)) (fun _ => rfl)
    | take y hy _ _ k slot a b => exact setLine (y := y.setLong k slot a b) hs (h.take _ k slot a b (h.tame _ _ hy.tame (hs l))) (fun _ => rfl)
  enterClosed s l hs := setLine hs (h.closed _ (hs l)) (fun _ => rfl)
  opened s l _ _ hs := setLine hs (h.opened (s.prof l) (s.line l)) (fun _ => rfl)
  bind s l i _ hs := setLine hs (h.bind _ i (hs l)) (fun _ => rfl)
  eventChange _ _ _ hs := hs
  repeatExpiry _ _ hs := hs

end KeptLine

theorem Line.countersBounded_kept : KeptLine (fun x => x.counters.Bounded) where
  powerOn _ _ _ := Counters.bounded_zero
  tame _ _ ht hx := ht.counters hx
  closed _ hx := hx
  take _ _ _ _ _ hx := hx
  opened _ _ := Counters.bounded_zero
  reset _ _ _ := Counters.bounded_zero
  bind _ _ hx := hx

theorem Line.markersBounded_kept : KeptLine (fun x => x.markers.length ≤ Config.maxMarkers) where
  powerOn _ _ _ := Nat.zero_le _
  tame _ _ ht hx := ht.markers hx
  closed _ _ := Nat.zero_le _
  take _ _ _ _ _ hx := hx
  opened _ _ := Nat.zero_le _
  reset _ _ hx := hx
  bind _ _ hx := hx

/-! ## The trunk counters and the dropped-request count (R156, R177) -/

theorem TrunkCounters.bounded_zero : TrunkCounters.zero.Bounded := by rw [TrunkCounters.bounded_iff]; decide

theorem State.trunkCounters_kept : KeptWide (fun s => s.trunk.counters.Bounded ∧ s.reqs.dropped ≤ Config.counterTop) where
  powerOn _ _ _ _ := ⟨TrunkCounters.bounded_zero, Nat.zero_le _⟩
  noted s t hn hs := by
    cases hn with
    | port f hf => exact ⟨hf.2 hs.1, hs.2⟩
    | raise => exact hs
  linkRestart _ _ hs := ⟨TrunkCounters.bounded_addRestart _ hs.1, hs.2⟩
  sends s k hk hs := ⟨hk.counters ▸ hs.1, hs.2⟩
  sessionBegins s k hk _ _ hs := ⟨hk ▸ hs.1, hs.2⟩
  dropRequest s hs := ⟨hs.1, bump_le_top _⟩
  completePartReset s p _ := by
    rw [s.trunk_completePartReset, s.reqs_completePartReset]
    refine ⟨TrunkCounters.bounded_zero, ?_⟩
    split <;> exact Nat.zero_le _
  emptyRefusals _ hs := ⟨hs.1, Nat.zero_le _⟩
  clearPart _ _ := ⟨TrunkCounters.bounded_zero, Nat.zero_le _⟩
  announceExpiry s hs := by unfold State.announceExpiry; split <;> exact hs
  move l s t hm hs := by
    cases hm with
    | line => exact hs
    | raise => exact hs
    | removeLine => exact hs
    | take => exact hs
    | finishLong reply =>
      rw [finishLong_eq]
      refine ⟨hs.1, ?_⟩
      cases (s.line l).long with
      | none => exact hs.2
      | some g => unfold RequestUnit.answerLong; simp only; split <;> exact hs.2
  eventChange _ _ _ hs := hs
  repeatExpiry _ _ hs := hs

/-! ## Slots and refusals (R158, R159) -/

/-- The bounds on slots and refusals, of the Request Unit's record. -/
def RequestUnit.Within (r : RequestUnit) : Prop :=
  r.slots.length ≤ Config.maxSlots ∧ (r.slots.map Slot.num).Nodup ∧ (r.slots.map Slot.tag).Nodup ∧ r.refusals.length ≤ Config.maxRefusals

/-- Slots of the same numbers and tags, and no more refusals. -/
theorem RequestUnit.Within.of_le {r q : RequestUnit} (h : r.Within) (hs : (q.slots.map (fun k => (k.num, k.tag))).Sublist (r.slots.map (fun k => (k.num, k.tag))))
    (hr : q.refusals.length ≤ r.refusals.length) : q.Within := by
  obtain ⟨h1, h2, h3, h4⟩ := h
  have num := hs.map Prod.fst
  have tag := hs.map Prod.snd
  simp only [List.map_map] at num tag
  exact ⟨by simpa using (Nat.le_trans hs.length_le (by simpa using h1)), num.nodup h2, tag.nodup h3, Nat.le_trans hr h4⟩

/-- Slots whose numbers and tags stay. -/
theorem RequestUnit.Within.of_map {r : RequestUnit} (h : r.Within) (f : Slot → Slot) (hf : ∀ k, (f k).num = k.num ∧ (f k).tag = k.tag)
    {q : RequestUnit} (hs : q.slots = r.slots.map f) (hr : q.refusals = r.refusals) : q.Within := by
  refine h.of_le ?_ (hr ▸ Nat.le_refl _)
  have : (fun k : Slot => (k.num, k.tag)) ∘ f = fun k => (k.num, k.tag) := funext fun k => by simp [hf k]
  have heq : q.slots.map (fun k => (k.num, k.tag)) = r.slots.map (fun k => (k.num, k.tag)) := by rw [hs, List.map_map, this]
  exact heq ▸ List.Sublist.refl _

/-- An answered slot keeps its number and tag (R160). -/
theorem RequestUnit.Within.complete {r : RequestUnit} (h : r.Within) (n : Fin 4) (reply : Reply) : (r.complete n reply).Within :=
  h.of_map (fun k => if k.num = n then { k with phase := .completed reply } else k) (fun k => by split <;> exact ⟨rfl, rfl⟩) rfl rfl

/-- A free slot's number is no held slot's (R159). -/
theorem RequestUnit.freeSlot_free {r : RequestUnit} {n : Fin 4} (h : r.freeSlot = some n) : n ∉ r.slots.map Slot.num := by
  have := List.find?_some h
  simp only [List.all_eq_true, bne_iff_ne] at this
  intro hn
  obtain ⟨k, hk, he⟩ := List.mem_map.mp hn
  exact this k hk he

/-- Different slot numbers, all of them of a list. -/
theorem length_le_of_nodup_subset : ∀ {ns ms : List (Fin 4)}, ns.Nodup → ns ⊆ ms → ns.length ≤ ms.length
  | [], _, _, _ => Nat.zero_le _
  | n :: ns, ms, h, hsub => by
    obtain ⟨hn, hns⟩ := List.nodup_cons.mp h
    have hmem : n ∈ ms := hsub List.mem_cons_self
    have hne : ∀ m ∈ ns, m ≠ n := fun m hm he => hn (by rw [← he]; exact hm)
    have hle := length_le_of_nodup_subset (ms := ms.erase n) hns fun m hm =>
      (List.mem_erase_of_ne (hne m hm)).mpr (hsub (List.mem_cons_of_mem _ hm))
    have := List.length_pos_of_mem hmem
    rw [List.length_erase_of_mem hmem] at hle
    rw [List.length_cons]; omega

theorem mem_slotNumbers : ∀ n : Fin 4, n ∈ [(0 : Fin 4), 1, 2, 3] := by decide

/-- Four different slot numbers are all there are. -/
theorem length_le_of_nodup_fin {ns : List (Fin 4)} (h : ns.Nodup) : ns.length ≤ 4 :=
  length_le_of_nodup_subset (ms := [0, 1, 2, 3]) h fun n _ => mem_slotNumbers n

theorem RequestUnit.Within.holdSlot {s : State} (h : s.reqs.Within) {n : Fin 4} {tag : Byte} (c : ReqCode) (ops : List Byte)
    (ht : s.reqs.tagHeld tag = false) (hn : s.reqs.freeSlot = some n) : (s.holdSlot n c tag ops).reqs.Within := by
  obtain ⟨-, h2, h3, h4⟩ := h
  have tags : tag ∉ s.reqs.slots.map Slot.tag := by
    intro hm
    obtain ⟨k, hk, he⟩ := List.mem_map.mp hm
    simp only [RequestUnit.tagHeld, List.any_eq_false, beq_iff_eq] at ht
    exact ht k hk he
  have nums : ((s.reqs.slots.map Slot.num) ++ [n]).Nodup :=
    List.perm_append_comm.nodup_iff.mp (List.nodup_cons.mpr ⟨RequestUnit.freeSlot_free hn, h2⟩)
  refine ⟨?_, ?_, ?_, h4⟩
  · have := length_le_of_nodup_fin nums
    simpa [State.holdSlot, Config.maxSlots] using this
  · simpa [State.holdSlot] using nums
  · have : ((s.reqs.slots.map Slot.tag) ++ [tag]).Nodup := List.perm_append_comm.nodup_iff.mp (List.nodup_cons.mpr ⟨tags, h3⟩)
    simpa [State.holdSlot] using this

theorem RequestUnit.within_kept : KeptWide (fun s => s.reqs.Within) where
  powerOn _ _ _ _ := by
    show RequestUnit.powerOn.Within
    exact ⟨Nat.zero_le _, List.nodup_nil, List.nodup_nil, Nat.zero_le _⟩
  noted s t hn hs := by cases hn <;> exact hs
  linkRestart s c hs := hs.of_le (List.nil_sublist _) (Nat.zero_le _)
  listRefusal s e hlt hs := by
    obtain ⟨h1, h2, h3, -⟩ := hs
    exact ⟨h1, h2, h3, by simpa [State.listRefusal] using Nat.succ_le_of_lt hlt⟩
  holdSlot s c tag ops n ht hn hs := hs.holdSlot c ops ht hn
  complete s n reply hs := hs.complete n reply
  sendSlot s n hs := by
    refine hs.of_map (fun x => if x.num = n then x.send else x) (fun k => ?_) rfl rfl
    split
    · unfold Slot.send; split <;> exact ⟨rfl, rfl⟩
    · exact ⟨rfl, rfl⟩
  releaseSlot s n hs := hs.of_le (List.Sublist.map _ (List.filter_sublist)) (Nat.le_refl _)
  releaseRefusal s hs := hs.of_le (List.Sublist.refl _) (by simp)
  emptyRefusals s hs := by
    refine hs.of_le (List.Sublist.refl _) ?_
    unfold State.emptyRefusals
    simp only
    split
    · split
      · exact List.length_take_le' _ _
      · exact Nat.zero_le _
    · exact Nat.zero_le _
  completePartReset s p hs := by
    rw [s.reqs_completePartReset]
    have h0 : ({ s.reqs with dropped := 0, partReset := none } : RequestUnit).Within := hs
    split
    · exact h0.complete _ _
    · exact h0
  announceExpiry s hs := by unfold State.announceExpiry; split <;> exact hs
  move l s t hm hs := by
    cases hm with
    | line => exact hs
    | raise => exact hs
    | removeLine => exact hs
    | take => exact hs
    | finishLong reply =>
      rw [finishLong_eq]
      cases (s.line l).long with
      | none => exact hs
      | some g =>
        show (s.reqs.answerLong g reply).Within
        unfold RequestUnit.answerLong
        split
        · exact hs.complete _ _
        · exact hs
  eventChange _ _ _ hs := hs
  repeatExpiry _ _ hs := hs

/-! ## The announce timer (R172) -/

/-- While the link is UP no announce is due and the timer is stopped, of the Trunk Port's record. -/
def Trunk.Quiet (t : Trunk) : Prop := t.link = .up → t.announceTimer = .stopped ∧ t.announceDue = false

theorem Trunk.quiet_kept : KeptWide (fun s => s.trunk.Quiet) where
  powerOn _ _ _ _ h := by cases h
  noted s t hn hs := by
    cases hn with
    | port f hf => obtain ⟨⟨r, x, a, c, he⟩, -⟩ := hf; show (f s.trunk).Quiet; rw [he]; exact hs
    | raise => exact hs
  linkRestart _ _ _ h := by cases h
  sends s k hk hs h := by
    have hup := hk.link ▸ h
    obtain ⟨h1, h2⟩ := hk.quiet hup
    exact ⟨h1.trans (hs hup).1, h2.trans (hs hup).2⟩
  sessionBegins s k _ ht hd _ _ := ⟨ht, hd⟩
  completePartReset s p hs := by rw [s.trunk_completePartReset]; exact hs
  announceExpiry s hs := by
    unfold State.announceExpiry
    split
    · exact hs
    · next hrun => exact fun hup => absurd (hs hup).1 hrun
  move l s t hm hs := by
    cases hm with
    | finishLong reply => rw [finishLong_eq]; exact hs
    | _ => exact hs
  eventChange _ _ _ hs := hs
  repeatExpiry _ _ hs := hs

/-! ## The obligation -/

/-- Settles O58: each bound is kept by every change of what it reads. -/
theorem countsStayBounded : Obligations.CountsStayBounded := by
  refine ⟨fun s t hs ht => ?_, fun s t hs ht => ?_, fun s t hs ht => ?_, fun s t hs ht => ?_⟩
  · obtain ⟨hl, hr⟩ := hs
    exact ⟨Line.countersBounded_kept.wide.step (fun _ _ h => h) hl ht, State.trunkCounters_kept.step (fun _ _ h => h) hr ht⟩
  · exact Line.markersBounded_kept.wide.step (fun _ _ h => h) hs ht
  · exact RequestUnit.within_kept.step (fun _ _ h => h) hs ht
  · exact Trunk.quiet_kept.step (fun _ _ h => h) hs ht

end Sys2Proof.Machine
end

section
/-!
PROOF. Profile records (O52): a record that passes the checks of LOAD PROFILE is read back as it was loaded, the byte of an absent code
apart; and the tables stay valid (O59).
-/
namespace Sys2Proof.Machine

/-! ## The fields of a record, read and written (Tables 2-2, 10-8) -/

theorem byteOf_u8 (r : List Byte) (o : Nat) : byteOf (u8 r o) = r.getD o 0#8 := by simp [byteOf, u8]

theorem be16_u16 (r : List Byte) (o : Nat) : be16 (u16 r o) = [r.getD o 0#8, r.getD (o + 1) 0#8] := by
  have h1 := (r.getD o 0#8).isLt
  have h2 := (r.getD (o + 1) 0#8).isLt
  simp only [be16, u16, u8, List.cons.injEq, and_true]
  constructor
  · apply BitVec.eq_of_toNat_eq; rw [BitVec.toNat_ofNat]; omega
  · apply BitVec.eq_of_toNat_eq; rw [BitVec.toNat_ofNat]; omega

/-- A listed code is written as it was read. -/
theorem byteOf_of_eq {r : List Byte} {o n : Nat} (h : n = u8 r o) : byteOf n = r.getD o 0#8 := by rw [h, byteOf_u8]

theorem Parity.code_ofCode : ∀ n, n ≤ 4 → (Parity.ofCode n).code = n := by decide
theorem StopBits.code_ofCode : ∀ n, n ≤ 2 → (StopBits.ofCode n).code = n := by decide
theorem OutPacing.num_ofNum : ∀ n, n ≤ 2 → (OutPacing.ofNum n).num = n := by decide
theorem InPacing.num_ofNum : ∀ n, n ≤ 2 → (InPacing.ofNum n).num = n := by decide
theorem BreakAction.code_ofCode : ∀ n, n ≤ 1 → (BreakAction.ofCode n).code = n := by decide

theorem bitByte_u8 (r : List Byte) (o : Nat) (h : u8 r o ≤ 1) : bitByte (u8 r o == 1) = r.getD o 0#8 := by
  rw [← byteOf_u8]
  generalize u8 r o = n at h
  rcases Nat.le_one_iff_eq_zero_or_eq_one.mp h with rfl | rfl
  · rfl
  · rfl

theorem optCodeBytes_optCodeOf (r : List Byte) (o : Nat) (h : u8 r o ≤ 1) :
    optCodeBytes (optCodeOf r o) = [r.getD o 0#8, if u8 r o = 0 then 0#8 else r.getD (o + 1) 0#8] := by
  unfold optCodeOf optCodeBytes
  rw [← byteOf_u8 r o]
  rcases Nat.le_one_iff_eq_zero_or_eq_one.mp h with h0 | h1
  · simp [h0, byteOf]
  · simp [h1, byteOf]

theorem MapEntry.byte_ofByte (b : Byte) (h : mapByteOk b = true) : (MapEntry.ofByte b).byte = b := by
  revert b; decide

/-- What a record that passes the range checks is read back as: an absent code's byte is 00h (R26). -/
def readBack (r : List Byte) (i : Nat) : Byte :=
  if (i = 12 ∧ u8 r 11 = 0) ∨ (i = 28 ∧ u8 r 27 = 0) then 0#8 else r.getD i 0#8

/-- Every field of a record is in its range (R31, Tables 2-1 and 2-2). -/
structure InRange (r : List Byte) : Prop where
  rate : u8 r 0 ≤ 12
  dataBits : 5 ≤ u8 r 1 ∧ u8 r 1 ≤ 8
  parity : u8 r 2 ≤ 4
  stopBits : u8 r 3 ≤ 2
  outPacing : u8 r 4 ≤ 2
  readyGate : u8 r 5 ≤ 1
  goOnAny : u8 r 8 ≤ 1
  nakCode : u8 r 11 ≤ 1
  blockLimit : 1 ≤ u16 r 13 ∧ u16 r 13 ≤ 1024
  window : 1 ≤ u8 r 15 ∧ u8 r 15 ≤ 4
  ackTimeout : 10 ≤ u16 r 16 ∧ u16 r 16 ≤ 65535
  retryLimit : u8 r 18 ≤ 7
  pauseTimeout : u16 r 21 = 0 ∨ (10 ≤ u16 r 21 ∧ u16 r 21 ≤ 65535)
  inPacing : u8 r 24 ≤ 2
  highMark : 2 ≤ u8 r 25 ∧ u8 r 25 ≤ 64
  lowMark : 1 ≤ u8 r 26 ∧ u8 r 26 ≤ 63
  flushCode : u8 r 27 ≤ 1
  inboundIdle : 1 ≤ u8 r 29 ∧ u8 r 29 ≤ 255
  outQuota : 2 ≤ u8 r 30 ∧ u8 r 30 ≤ 128
  inQuota : 2 ≤ u8 r 31 ∧ u8 r 31 ≤ 64
  decoding : u8 r 32 ≤ 1
  map : ∀ i, i < 8 → mapByteOk (r.getD (34 + i) 0#8) = true
  breakTime : 1 ≤ u8 r 42 ∧ u8 r 42 ≤ 255
  breakAction : u8 r 43 ≤ 1
  grantStep : 16 ≤ u16 r 44 ∧ u16 r 44 ≤ 2048

/-- No field fails its range check when every field is in its range (R31). -/
theorem rangeFail_eq_none_iff (r : List Byte) : rangeFail r = none ↔ InRange r := by
  have hall : rangeFail r = none ↔ (rangeChecks r).all id = true := by simp [rangeFail]
  rw [hall]
  simp only [rangeChecks, within, List.all_append, List.all_cons, List.all_nil, List.all_map, List.all_eq_true, List.mem_range, id,
    Function.comp, Bool.and_eq_true, Bool.or_eq_true, decide_eq_true_eq, beq_iff_eq, and_true, true_and, Nat.zero_le]
  constructor
  · rintro ⟨⟨⟨h0, h1, h2, h3, h4, h5, h8, h11, h13, h15, h16, h18, h21, h24, h25, h26, h27, h29, h30, h31, h32⟩, hm⟩, h42, h43, h44⟩
    exact ⟨h0, h1, h2, h3, h4, h5, h8, h11, h13, h15, h16, h18, h21, h24, h25, h26, h27, h29, h30, h31, h32, hm, h42, h43, h44⟩
  · rintro ⟨h0, h1, h2, h3, h4, h5, h8, h11, h13, h15, h16, h18, h21, h24, h25, h26, h27, h29, h30, h31, h32, hm, h42, h43, h44⟩
    exact ⟨⟨⟨h0, h1, h2, h3, h4, h5, h8, h11, h13, h15, h16, h18, h21, h24, h25, h26, h27, h29, h30, h31, h32⟩, hm⟩, h42, h43, h44⟩

/-- The decode map's eight bytes (R26). -/
theorem mapBytes_ofBytes (r : List Byte) (h : ∀ i, i < 8 → mapByteOk (r.getD (34 + i) 0#8) = true) :
    (Profile.ofBytes r).map.toList.map MapEntry.byte = (List.range 8).map (fun i => r.getD (34 + i) 0#8) := by
  apply List.ext_getElem
  · simp
  · intro i hi _
    have hi8 : i < 8 := by simpa using hi
    simp only [Profile.ofBytes, List.getElem_map, Vector.getElem_toList, Vector.getElem_ofFn, List.getElem_range]
    exact MapEntry.byte_ofByte _ (h i hi8)

/-- A record in range is read back with the byte of an absent code 00h (R26, R36). -/
theorem bytes_ofBytes (r : List Byte) (h : InRange r) : (Profile.ofBytes r).bytes = (List.range 46).map (readBack r) := by
  have hm := mapBytes_ofBytes r h.map
  unfold Profile.bytes
  rw [hm]
  simp only [Profile.ofBytes, byteOf_u8, be16_u16, Parity.code_ofCode _ h.parity, StopBits.code_ofCode _ h.stopBits,
    OutPacing.num_ofNum _ h.outPacing, InPacing.num_ofNum _ h.inPacing, BreakAction.code_ofCode _ h.breakAction,
    bitByte_u8 r _ h.readyGate, bitByte_u8 r _ h.goOnAny, bitByte_u8 r _ h.decoding,
    optCodeBytes_optCodeOf r _ h.nakCode, optCodeBytes_optCodeOf r _ h.flushCode]
  simp [readBack, List.range_succ]

/-! ## The round trip (O52) -/

/-- Records that agree in every byte that counts: the byte of a code only where the code is present. -/
structure SameRecord (a b : List Byte) : Prop where
  bytes : ∀ i, i ≠ 12 → i ≠ 28 → a.getD i 0#8 = b.getD i 0#8
  nak : u8 b 11 = 1 → a.getD 12 0#8 = b.getD 12 0#8
  flush : u8 b 27 = 1 → a.getD 28 0#8 = b.getD 28 0#8

namespace SameRecord
variable {a b : List Byte}

theorem u8 (h : SameRecord a b) {i : Nat} (h1 : i ≠ 12) (h2 : i ≠ 28) : Machine.u8 a i = Machine.u8 b i := by
  unfold Machine.u8; rw [h.bytes i h1 h2]

theorem u16 (h : SameRecord a b) {i : Nat} (h1 : i ≠ 12 ∧ i + 1 ≠ 12) (h2 : i ≠ 28 ∧ i + 1 ≠ 28) : Machine.u16 a i = Machine.u16 b i := by
  unfold Machine.u16; rw [h.u8 h1.1 h2.1, h.u8 h1.2 h2.2]

/-- They carry the same profile (R26). -/
theorem ofBytes (h : SameRecord a b) : Profile.ofBytes a = Profile.ofBytes b := by
  have nak : optCodeOf a 11 = optCodeOf b 11 := by
    unfold optCodeOf
    rw [h.u8 (by decide) (by decide)]
    split
    · next h1 => rw [h.nak h1]
    · rfl
  have flush : optCodeOf a 27 = optCodeOf b 27 := by
    unfold optCodeOf
    rw [h.u8 (by decide) (by decide)]
    split
    · next h1 => rw [h.flush h1]
    · rfl
  have map : ∀ i : Fin 8, a.getD (34 + i.val) 0#8 = b.getD (34 + i.val) 0#8 := fun i => h.bytes _ (by omega) (by omega)
  unfold Profile.ofBytes
  simp only [nak, flush, map, h.u8, h.u16, h.bytes, ne_eq, Nat.reduceEqDiff, Nat.reduceAdd,
    not_false_eq_true, and_self]

/-- They pass the same checks (R31 to R34). -/
theorem profileFail (h : SameRecord a b) : profileFail a = profileFail b := by
  have map : ∀ i : Nat, a.getD (34 + i) 0#8 = b.getD (34 + i) 0#8 := fun i => h.bytes _ (by omega) (by omega)
  have range : rangeFail a = rangeFail b := by
    unfold rangeFail rangeChecks
    simp only [map, h.u8, h.u16, ne_eq, Nat.reduceEqDiff, Nat.reduceAdd, not_false_eq_true, and_self]
  unfold Machine.profileFail
  rw [range, h.ofBytes]

end SameRecord

theorem profileFail_range {r : List Byte} (h : profileFail r = none) : InRange r := by
  rw [← rangeFail_eq_none_iff]
  unfold profileFail at h
  split at h
  · cases h
  · assumption

theorem getD_readBack (r : List Byte) (i : Nat) (hlen : r.length = 46) : ((List.range 46).map (readBack r)).getD i 0#8 = readBack r i := by
  by_cases hi : i < 46
  · simp [hi]
  · have : readBack r i = r.getD i 0#8 := if_neg (by omega)
    have hover : ∀ l : List Byte, l.length ≤ i → l.getD i 0#8 = 0#8 := fun l hl => by rw [List.getD_eq_getElem?_getD, List.getElem?_eq_none hl]; rfl
    rw [this, hover _ (by simpa using hi), hover _ (by omega)]

/-- A record that passes, and what it is read back as, are the same in all that counts (R26). -/
theorem sameRecord_readBack (r : List Byte) (hlen : r.length = 46) (h : InRange r) : SameRecord (Profile.ofBytes r).bytes r := by
  rw [bytes_ofBytes r h]
  refine ⟨fun i h12 h28 => ?_, fun h11 => ?_, fun h27 => ?_⟩ <;> rw [getD_readBack r _ hlen] <;> refine if_neg ?_ <;> omega

/-- Settles O52: a record in range is written back byte by byte, the byte of an absent code apart. -/
theorem profileRecordsRoundTrip : Obligations.ProfileRecordsRoundTrip := by
  intro rec hlen hf
  have hr := profileFail_range hf
  have hb := bytes_ofBytes rec hr
  have hsame := sameRecord_readBack rec hlen hr
  have at_ : ∀ i, i < 46 → (Profile.ofBytes rec).bytes[i]? = some (readBack rec i) := fun i hi => by rw [hb]; simp [hi]
  have of_ : ∀ i, i < 46 → rec[i]? = some (rec.getD i 0#8) := fun i hi => by simp [List.getElem?_eq_getElem (show i < rec.length by omega)]
  have flag : ∀ {i : Nat} {v : Byte}, rec[i]? = some v → u8 rec i = v.toNat := fun h => by simp [u8, List.getD, h]
  refine ⟨by rw [hb]; simp, fun i hi h12 h28 => ?_, fun h => ?_, fun h => ?_, fun h => ?_, fun h => ?_, hsame.profileFail.trans hf, hsame.ofBytes⟩
  · rw [at_ i hi, of_ i hi]
    exact congrArg some (if_neg (by omega))
  · rw [at_ 12 (by decide)]
    exact congrArg some (if_pos (Or.inl ⟨rfl, flag h⟩))
  · rw [at_ 28 (by decide)]
    exact congrArg some (if_pos (Or.inr ⟨rfl, flag h⟩))
  · have := flag h
    rw [at_ 12 (by decide), of_ 12 (by decide)]
    exact congrArg some (if_neg (by rw [this]; simp))
  · have := flag h
    rw [at_ 28 (by decide), of_ 28 (by decide)]
    exact congrArg some (if_neg (by rw [this]; simp))

/-! ## The tables stay valid (O59) -/

/-- Every profile passes the checks of LOAD PROFILE, and every pattern entry is valid. -/
def TablesValid (ps : Vector Profile 8) (qs : Vector Pattern 16) : Prop :=
  (∀ i : Fin 8, profileFail (ps[i]).bytes = none) ∧ ∀ i : Fin 16, (qs[i]).Valid

/-- A table's entries after one is set. -/
theorem getElem_set_cases {α : Type} {n : Nat} {Q : α → Prop} (v : Vector α n) (k : Fin n) (x : α) (hv : ∀ i : Fin n, Q v[i]) (hx : Q x)
    (i : Fin n) : Q (v.set k.val x k.isLt)[i] := by
  by_cases h : i = k
  · subst h; simpa using hx
  · have : k.val ≠ i.val := fun e => h (Fin.ext e.symm)
    simpa [Vector.getElem_set_ne, this] using hv i

theorem profileFail_default : profileFail Profile.default.bytes = none := by decide +kernel

theorem tablesValid_kept : KeptWide (fun s => TablesValid s.profiles s.patterns) where
  powerOn s a b _ := ⟨fun i => by simpa [State.powerOn, State.reset] using profileFail_default,
    fun i => Or.inl (by simp [State.powerOn, State.reset])⟩
  noted s t hn hs := by cases hn <;> exact hs
  completePartReset s p hs := by
    obtain ⟨-, -, -, -, -, hclear, hkeep, -⟩ := completePartReset_resetCompleted s p
    cases hp : p.clear with
    | true =>
      obtain ⟨h1, h2⟩ := hclear hp
      exact ⟨fun i => by rw [h1]; exact profileFail_default, fun i => Or.inl (h2 i)⟩
    | false =>
      obtain ⟨h1, h2⟩ := hkeep hp
      rw [h1, h2]; exact hs
  announceExpiry s hs := by unfold State.announceExpiry; split <;> exact hs
  move l s t hm hs := by
    cases hm with
    | finishLong reply => rw [finishLong_eq]; exact hs
    | _ => exact hs
  profile s i rec hlen hf hs := by
    have hp : profileFail (Profile.ofBytes rec).bytes = none := (sameRecord_readBack rec hlen (profileFail_range hf)).profileFail.trans hf
    refine And.intro (fun j => ?_) hs.2
    exact getElem_set_cases (Q := fun p : Profile => profileFail p.bytes = none) s.profiles i _ hs.1 hp j
  pattern s i e he hs := ⟨hs.1, getElem_set_cases s.patterns i e hs.2 he⟩
  clearPatterns s hs := ⟨hs.1, fun i => Or.inl (by simp)⟩
  eventChange _ _ _ hs := hs
  repeatExpiry _ _ hs := hs

/-- Settles O59: a profile is only set from a record that passes, and a pattern only to a valid entry. -/
theorem tablesStayValid : Obligations.TablesStayValid := fun _ _ hs ht => tablesValid_kept.step (fun _ _ h => h) hs ht

end Sys2Proof.Machine
end

section
/-!
PROOF. The pool's accounts (O56): no cell and no reserved cell is lost or made, and the credit given never exceeds the room.
-/
namespace Sys2Proof.Machine

/-! ## Sums over changed lines -/

/-- A sum over the lines of one state is one over the lines of another that agree term by term. -/
theorem State.sumLines_congr {s t : State} {f : Line → Nat} (h : ∀ l, f (t.line l) = f (s.line l)) : t.sumLines f = s.sumLines f := by
  unfold State.sumLines
  congr 1
  apply List.ext_getElem
  · simp
  · intro i hi _
    have hi8 : i < 8 := by simpa using hi
    simpa [State.line] using h ⟨i, hi8⟩

theorem sum_map_zero {α : Type} : ∀ xs : List α, (xs.map (fun _ => 0)).sum = 0
  | [] => rfl
  | _ :: xs => by rw [List.map_cons, List.sum_cons, sum_map_zero xs]

theorem State.sumLines_zero {s : State} {f : Line → Nat} (h : ∀ l, f (s.line l) = 0) : s.sumLines f = 0 := by
  have hle := s.sumLines_le f (fun _ => 0) (fun l => Nat.le_of_eq (h l))
  have hzero : s.sumLines (fun _ => 0) = 0 := sum_map_zero _
  omega

/-! ## Accounts kept -/

/-- The accounts, with nothing reserved for a CLOSED line. -/
def State.Balanced (s : State) : Prop := s.Accounts ∧ ∀ l, (s.line l).state = .closed → (s.line l).reserved = 0

/-- What the accounts read of a line, where no cell moves. -/
structure Line.SameShare (x y : Line) : Prop where
  cells : y.cells = x.cells
  reserved : y.reserved = x.reserved
  fits : x.Fits → y.Fits
  closed : y.state = .closed → x.state = .closed

theorem Line.Still.sameShare {x y : Line} (h : x.Still y) : x.SameShare y :=
  ⟨h.cells_eq, h.reserved_eq, h.fits, fun hy => Classical.byContradiction fun hx => h.isOpen hx hy⟩

namespace State.Balanced
variable {s t : State}

/-- Every line changed with no cell moved. -/
theorem of_lines (h : s.Balanced) (hl : ∀ l, (s.line l).SameShare (t.line l)) (hf : t.pool.free = s.pool.free)
    (hu : t.pool.unreserved = s.pool.unreserved) : t.Balanced := by
  obtain ⟨⟨hcells, hres, hfits⟩, hclosed⟩ := h
  refine ⟨⟨?_, ?_, fun l => (hl l).fits (hfits l)⟩, fun l hc => ?_⟩
  · rw [hf, State.sumLines_congr (fun l => (hl l).cells)]; exact hcells
  · rw [hu, State.sumLines_congr (fun l => (hl l).reserved)]; exact hres
  · rw [(hl l).reserved]; exact hclosed l ((hl l).closed hc)

/-- One line changed, with the cells it takes or gives back and the reservations it makes or gives up. -/
theorem setLine (h : s.Balanced) {l : Fin 8} {y : Line} (hlines : ∀ k, t.line k = (s.setLine l y).line k) (hfits : y.Fits)
    (hf : t.pool.free + y.cells = s.pool.free + (s.line l).cells)
    (hu : t.pool.unreserved + y.reserved = s.pool.unreserved + (s.line l).reserved) (hc : y.state = .closed → y.reserved = 0) : t.Balanced := by
  obtain ⟨⟨h1, h2, h3⟩, h4⟩ := h
  have hcells := sumLines_setLine s l y Line.cells
  have hres := sumLines_setLine s l y Line.reserved
  rw [← State.sumLines_congr (t := t) (fun k => by rw [hlines])] at hcells hres
  have each : ∀ k, (k = l ∧ t.line k = y) ∨ (k ≠ l ∧ t.line k = s.line k) := by
    intro k
    by_cases hk : k = l
    · subst hk; exact Or.inl ⟨rfl, (hlines k).trans (State.line_setLine_same s k y)⟩
    · exact Or.inr ⟨hk, (hlines k).trans (State.line_setLine_ne s y hk)⟩
  refine ⟨⟨by omega, by omega, fun k => ?_⟩, fun k hk => ?_⟩
  · rcases each k with ⟨-, he⟩ | ⟨-, he⟩ <;> rw [he]
    · exact hfits
    · exact h3 k
  · rcases each k with ⟨-, he⟩ | ⟨-, he⟩ <;> rw [he] at hk ⊢
    · exact hc hk
    · exact h4 k hk

end State.Balanced

/-- A line with no cell and nothing reserved, and no credit. -/
theorem Line.fits_of_empty {x : Line} (hq : x.outQ = []) (hi : x.inQ = []) (hc : x.credit = 0) : x.Fits :=
  ⟨by simp [hq], by simp [hi], by omega, by simp [hq]⟩

/-- What a line is granted is its room (R13, R19). -/
theorem Line.granted_sameShare (x : Line) : x.SameShare x.granted := by
  unfold Line.granted
  split
  · refine ⟨rfl, rfl, fun ⟨h1, h2, _, h4⟩ => ⟨h1, h2, ?_, h4⟩, id⟩
    show (x.A + BitVec.ofNat 32 x.room - x.A).toNat ≤ x.room
    rw [BitVec.add_comm, BitVec.add_sub_cancel, BitVec.toNat_ofNat]
    exact Nat.mod_le _ _
  · exact ⟨rfl, rfl, id, id⟩

/-- A line just opened has the credit of its whole quota (R43). -/
theorem Line.opened_fits (p : Profile) (x : Line) : (x.opened p).Fits := by
  refine ⟨Nat.zero_le _, Nat.zero_le _, ?_, fun c hc => by simp [Line.opened, Line.closedFrom] at hc⟩
  have hcredit : (x.opened p).credit = (BitVec.ofNat 32 (Config.cellBytes * p.outQuota) - 0#32 : Pos).toNat := rfl
  have hroom : (x.opened p).room = Config.cellBytes * p.outQuota := rfl
  rw [hcredit, hroom, BitVec.sub_zero, BitVec.toNat_ofNat]
  exact Nat.mod_le _ _

/-- Both positions at 0. -/
theorem credit_zero : ((0 : Pos) - 0).toNat = 0 := by decide

theorem State.balanced_kept : KeptWide State.Balanced where
  powerOn s a b _ := by
    have hl : ∀ l, (s.powerOn a b).line l = Line.powerOn (s.line l).rxd (s.line l).rdyi (s.line l).st := s.line_powerOn a b
    refine ⟨⟨?_, ?_, fun l => ?_⟩, fun l _ => by rw [hl]; rfl⟩
    · rw [State.sumLines_zero (fun l => by rw [hl]; rfl)]; rfl
    · rw [State.sumLines_zero (fun l => by rw [hl]; rfl)]; rfl
    · rw [hl]; exact Line.fits_of_empty rfl rfl credit_zero
  noted s t hn hs := by cases hn <;> exact hs
  linkRestart s c hs := hs.of_lines (fun l => by rw [s.line_linkRestart]; exact ⟨rfl, rfl, id, id⟩) rfl rfl
  completePartReset s p hs := by
    refine hs.of_lines (fun l => by rw [s.line_completePartReset]; exact ⟨rfl, rfl, id, id⟩) ?_ ?_ <;> rw [s.pool_completePartReset]
  announceExpiry s hs := by unfold State.announceExpiry; split <;> exact hs
  everyLine s f hf hs := hs.of_lines (fun l => by rw [State.line_mapLines]; exact (hf _).sameShare) rfl rfl
  granted s hs := hs.of_lines (fun l => by rw [State.line_mapLines]; exact (s.line l).granted_sameShare) rfl rfl
  move l s t hm hs := by
    cases hm with
    | line y f ht _ ha =>
      obtain ⟨hf, hr, hy⟩ := ha hs.1
      refine hs.setLine (y := y) (fun _ => rfl) hy hf (by rw [hr]) fun hc => ?_
      rw [hr]
      exact hs.2 l (Classical.byContradiction fun hx => ht.isOpen hx hc)
    | raise => exact hs
    | removeLine => exact hs
    | finishLong reply =>
      rw [finishLong_eq]
      exact hs.setLine (y := { s.line l with long := none }) (fun _ => rfl) (hs.1.2.2 l) rfl rfl (hs.2 l)
    | take y hy ho _ k slot a b =>
      exact hs.setLine (y := y.setLong k slot a b) (fun _ => rfl) (hy.fits (hs.1.2.2 l)) (congrArg (s.pool.free + ·) hy.cells_eq)
        (congrArg (s.pool.unreserved + ·) hy.reserved_eq) (fun hc => absurd hc (hy.isOpen ho))
  enterClosed s l hs := hs.setLine (y := (s.line l).closedFrom) (fun _ => rfl) (Line.fits_of_empty rfl rfl credit_zero) rfl rfl (fun _ => rfl)
  opened s l hc hroom hs := by
    have hres := hs.2 l hc
    have hcells : (s.line l).cells = 0 := by
      obtain ⟨h1, h2, -⟩ := hs.1.2.2 l
      have : (s.line l).cells ≤ (s.line l).reserved := Nat.add_le_add h1 h2
      omega
    refine hs.setLine (y := (s.line l).opened (s.prof l)) (fun _ => rfl) ((s.line l).opened_fits _) (by rw [hcells]; rfl) ?_ (fun h => by cases h)
    rw [hres]
    show s.pool.unreserved - ((s.prof l).outQuota + (s.prof l).inQuota) + ((s.prof l).outQuota + (s.prof l).inQuota) = s.pool.unreserved + 0
    omega
  bind s l i _ hs := hs.setLine (y := { s.line l with binding := i }) (fun _ => rfl) (hs.1.2.2 l) rfl rfl (hs.2 l)
  eventChange _ _ _ hs := hs
  repeatExpiry _ _ hs := hs

end Sys2Proof.Machine
end

section
/-!
PROOF. CLOSED lines stay at rest (O55): a line event on a CLOSED line at its CLOSED values changes only what is free there.
-/
namespace Sys2Proof.Machine

/-! ## A line at rest -/

/-- The line is CLOSED and at its CLOSED values (R52, R62, R93, R113). -/
def Line.Rests (x : Line) : Prop := x = x.closedFrom

theorem Line.rests_closedFrom (x : Line) : x.closedFrom.Rests := rfl

/-- Nothing changes a line at rest within an event but the pins, the counters, AUXOn and the binding. -/
theorem Line.Rests.of_free {x y : Line} (h : x.Rests)
    (hy : y = { x with binding := y.binding, counters := y.counters, auxo := y.auxo, rxd := y.rxd, rdyi := y.rdyi, st := y.st }) : y.Rests := by
  unfold Line.Rests at *
  rw [hy, h]; rfl

theorem Line.Rests.closed {x : Line} (h : x.Rests) : x.state = .closed := by rw [h]; rfl

section
variable {x : Line} (h : x.Rests)
include h

theorem Line.Rests.standing (p : Profile) : x.standing p = x := by
  have hd : x.drainEnd = x := by rw [h]; rfl
  have hl : x.lingerUpdate p = x := by
    unfold Line.lingerUpdate
    rw [if_neg (by rw [h]; simp [Line.lingers, Line.closedFrom])]
    rw [h]; rfl
  have hp : x.pauseUpdate p = x := by
    have hw : x.workWaits p = false := by rw [h]; rfl
    unfold Line.pauseUpdate
    rw [hw]
    rw [h]; rfl
  rw [Line.standing, hd, hl, hp]

/-- No character goes from a line at rest (R64). -/
theorem Line.Rests.choose (p : Profile) : x.choose p = x := by
  have hc : x.codeMayGo p = false := by
    have : x.working = false := by rw [h]; rfl
    simp [Line.codeMayGo, this]
  have he : x.endMayGo p = false := by
    have : x.endWaiting = false := by rw [h]; rfl
    simp [Line.endMayGo, this]
  have hd : x.dataMayGo p = false := by
    have : x.dataReady p = false := by rw [h]; rfl
    simp [Line.dataMayGo, this]
  simp [Line.choose, hc, he, hd]

theorem Line.Rests.flushDone : x.flushDone = false := by rw [h]; rfl
theorem Line.Rests.underDrain : x.underDrain = false := by rw [h]; rfl
theorem Line.Rests.closesNow : x.closesNow = false := by rw [h]; rfl
theorem Line.Rests.working : x.working = false := by rw [h]; rfl
theorem Line.Rests.inQ : x.inQ = [] := by rw [h]; rfl

end

/-! ## Events on a line at rest -/

/-- A line event on a line at rest: it rests with what is free there changed, an event may be raised, and PART RESET may complete. -/
def RestEvent (l : Fin 8) (s t : State) : Prop :=
  ∃ y e, y.Rests ∧ (t = { s.setLine l y with events := e } ∨ t = ({ s.setLine l y with events := e } : State).testPartReset)

namespace RestEvent
variable {l : Fin 8} {s : State}

theorem setLine {y : Line} (hy : y.Rests) : RestEvent l s (s.setLine l y) := ⟨y, s.events, hy, Or.inl rfl⟩

theorem same (hs : (s.line l).Rests) : RestEvent l s s := ⟨s.line l, s.events, hs, Or.inl (by rw [State.setLine_line])⟩

theorem testPartReset (hs : (s.line l).Rests) : RestEvent l s s.testPartReset :=
  ⟨s.line l, s.events, hs, Or.inr (by rw [State.setLine_line])⟩

/-- What follows within the event is the completion of PART RESET alone. -/
theorem settle_eq (hs : (s.line l).Rests) : s.settle l = s.testPartReset := by
  have h1 : s.mapLine l (Line.standing (s.prof l)) = s := by
    unfold State.mapLine
    rw [hs.standing, State.setLine_line]
  have h2 : s.testFlush l = s := if_neg (by simp [hs.flushDone])
  have h3 : s.testDrain l = s := if_neg (by simp [hs.underDrain])
  have h4 : s.testClose l = s := if_neg (by simp [hs.closesNow])
  rw [State.settle, h1, h2, h3, h4]

theorem settle {y : Line} (hy : y.Rests) : RestEvent l s ((s.setLine l y).settle l) := by
  rw [settle_eq (l := l) (by rw [State.line_setLine_same]; exact hy)]
  exact ⟨y, s.events, hy, Or.inr rfl⟩

end RestEvent

/-- The pins, the counters, AUXOn and the binding of a line at rest are free. -/
theorem RestEvent.mapLine {l : Fin 8} {s : State} (hs : (s.line l).Rests) {f : Line → Line}
    (hf : f (s.line l) = { s.line l with
      binding := (f (s.line l)).binding
      counters := (f (s.line l)).counters
      auxo := (f (s.line l)).auxo
      rxd := (f (s.line l)).rxd
      rdyi := (f (s.line l)).rdyi
      st := (f (s.line l)).st }) : RestEvent l s (s.mapLine l f) := .setLine (hs.of_free hf)

/-- A command of a line at rest, DATA apart. -/
theorem RestEvent.of_exec {i : Instr} {l : Fin 8} {s t : State} (hs : (s.line l).Rests) (hl : i.eventLine = some l)
    (hd : ∀ seq payload, i ≠ .data l seq payload) (ht : exec i s = .next t) : RestEvent l s t := by
  have same : RestEvent l s s := .same hs
  have tx : (s.line l).tx = .idle := by rw [hs]; rfl
  have long : (s.line l).long = none := by rw [hs]; rfl
  have brk : (s.line l).brk = .none := by rw [hs]; rfl
  have flush : s.testFlush l = s := if_neg (by simp [hs.flushDone])
  have drain : s.testDrain l = s := if_neg (by simp [hs.underDrain])
  have close : s.testClose l = s := if_neg (by simp [hs.closesNow])
  cases i with
  | data k seq payload => cases hl; exact absurd rfl (hd seq payload)
  | flushComplete k => cases hl; cases ht; rw [flush]; exact same
  | breakBegin k =>
    cases hl; cases ht
    rw [State.beginPendingBreak, if_neg (by simp [brk])]; exact same
  | transmitterChoice k =>
    cases hl; cases ht
    rw [State.transmitterChoice, if_pos tx, State.mapLine, hs.choose]; exact .settle hs
  | characterCompletion k => cases hl; cases ht; rw [State.characterCompletion, tx]; exact same
  | gapTimerExpiry k => cases hl; cases ht; rw [State.gapExpiry, if_neg (by simp [tx])]; exact same
  | ackTimerExpiry k =>
    have : (s.line l).ackTimer = .stopped := by rw [hs]; rfl
    cases hl; cases ht; rw [State.ackExpiry, this]; exact same
  | pauseTimerExpiry k =>
    have : (s.line l).pause = .none := by rw [hs]; rfl
    cases hl; cases ht; rw [State.pauseExpiry, if_neg (by simp [this])]; exact same
  | lingerTimerExpiry k =>
    have : (s.line l).lingerTimer = .stopped := by rw [hs]; rfl
    cases hl; cases ht; rw [State.lingerExpiry, if_neg (by simp [this])]; exact same
  | breakTimerExpiry k => cases hl; cases ht; rw [State.endBreak, if_neg (by simp [brk])]; exact same
  | rdyiChange k a => cases hl; cases ht; exact .settle (hs.of_free rfl)
  | characterReceived k a b c =>
    cases hl; cases ht
    rw [State.characterReceived, if_neg (by simp [hs.working])]; exact .mapLine hs rfl
  | receiverBreakEnd k =>
    cases hl; cases ht
    refine .mapLine hs ?_
    rw [Line.breakEnd, if_neg (by simp [hs.working])]
  | idleTimerExpiry k =>
    have : (s.line l).idleTimer = .stopped := by rw [hs]; rfl
    cases hl; cases ht; rw [State.idleExpiry, if_neg (by simp [this])]; exact same
  | statusChange k c =>
    cases hl; cases ht
    rw [State.statusChange, if_neg (by simp [Line.decodes, hs.working])]; exact .mapLine hs rfl
  | debounceTimerExpiry k =>
    have : (s.line l).candidate = none := by rw [hs]; rfl
    cases hl; cases ht; rw [State.debounceExpiry]; simp only [this]; exact same
  | drainComplete k => cases hl; cases ht; rw [drain, close]; exact .testPartReset hs
  | abortComplete k =>
    have : (s.line l).underAbort = false := by rw [hs]; rfl
    cases hl; cases ht; rw [if_neg (by simp [this])]; exact same
  | entryToClosed k => cases hl; cases ht; rw [close]; exact .testPartReset hs
  | startEdge k =>
    cases hl; cases ht
    refine .mapLine hs ?_
    rw [Line.startEdge, if_neg (by simp [hs.working])]
  | falseStart k =>
    cases hl; cases ht
    refine .mapLine hs ?_
    rw [Line.falseStart, if_neg (by simp [hs.working])]
  | receiverArmed k =>
    cases hl; cases ht
    refine .mapLine hs ?_
    rw [Line.arm, if_neg (by simp [hs.working])]
  | _ => simp [Instr.eventLine] at hl

/-- A DATA frame for a line at rest is refused (R14, R15). -/
theorem RestEvent.takeData {l : Fin 8} {s : State} (hs : (s.line l).Rests) (payload : List Byte) : RestEvent l s (s.takeData l payload) := by
  rw [State.takeData, if_pos (Or.inl hs.closed)]
  exact ⟨_, _, hs.of_free rfl, Or.inl rfl⟩

/-- No inbound cell of a line at rest leaves its queue (R22, R23). -/
theorem RestEvent.dropInbound_settle {l : Fin 8} {s : State} (hs : (s.line l).Rests) (k : InCell → Bool) :
    RestEvent l s ((s.dropInbound l k).settle l) := by
  have hd : s.dropInbound l k = s := by
    have hidle : (s.line l).idleTimer = .stopped := by rw [hs]; rfl
    have hkeep : ({ s.line l with inQ := (s.line l).inQ.filter k, idleTimer := .stopped } : Line) = s.line l := by rw [hs]; rfl
    have hnone : Line.currentCell { s.line l with inQ := (s.line l).inQ.filter k } = none := by simp [Line.currentCell, hs.inQ]
    unfold State.dropInbound
    simp only [hnone, Option.isSome_none, Bool.false_eq_true, if_false, hkeep]
    simp only [hs.inQ, List.filter_nil, List.length_nil, if_true, State.setLine_line, Nat.sub_self]
    rfl
  rw [hd, RestEvent.settle_eq hs]
  exact .testPartReset hs

theorem markInFrame_nil (n : Nat) : markInFrame n [] = [] := by cases n <;> rfl

/-! ## Every line -/

/-- Every CLOSED line is at rest. -/
theorem State.closedAtRest_iff (s : State) : s.closedAtRest ↔ ∀ l, (s.line l).state = .closed → (s.line l).Rests := Iff.rfl

namespace State.closedAtRest
variable {s t : State} {l : Fin 8}

/-- One line changed into one that rests if it is CLOSED. -/
theorem setLine (h : s.closedAtRest) {y : Line} (hy : y.state = .closed → y.Rests) (ht : ∀ k, t.line k = (s.setLine l y).line k) :
    t.closedAtRest := by
  intro k hk
  by_cases hkl : k = l
  · subst hkl
    rw [ht, State.line_setLine_same] at hk ⊢
    exact hy hk
  · rw [ht, State.line_setLine_ne _ _ hkl] at hk ⊢
    exact h k hk

theorem completePartReset (h : s.closedAtRest) (p) : (s.completePartReset p).closedAtRest := by
  intro k hk
  rw [s.line_completePartReset] at hk ⊢
  exact Line.Rests.of_free (h k hk) rfl

theorem testPartReset (h : s.closedAtRest) : s.testPartReset.closedAtRest := by
  unfold State.testPartReset
  split
  · split
    · exact h.completePartReset _
    · exact h
  · exact h

/-- Every line changed alike, a CLOSED one only in what is free there. -/
theorem of_lines (h : s.closedAtRest) (hl : ∀ k, (t.line k).state = .closed → (s.line k).state = .closed ∧ ((s.line k).Rests → (t.line k).Rests)) :
    t.closedAtRest := by
  intro k hk
  obtain ⟨hc, hr⟩ := hl k hk
  exact hr (h k hc)

theorem restEvent (h : s.closedAtRest) (he : RestEvent l s t) : t.closedAtRest := by
  obtain ⟨y, e, hy, rfl | rfl⟩ := he
  · exact h.setLine (fun _ => hy) (fun _ => rfl)
  · exact testPartReset (h.setLine (t := { s.setLine l y with events := e }) (fun _ => hy) (fun _ => rfl))

/-- A line not CLOSED that changes enters CLOSED only at its CLOSED values. -/
theorem moves (h : s.closedAtRest) {keep : Prop} (ho : (s.line l).state ≠ .closed) (hm : LineMoves l keep s t) : t.closedAtRest := by
  induction hm with
  | refl => exact h
  | @tail u v hm hstep ih =>
    have hu := LineMoves.isOpen hm ho
    cases hstep with
    | line y f ht => exact ih.setLine (y := y) (fun hc => absurd hc (ht.isOpen hu)) (fun _ => rfl)
    | raise => exact ih
    | removeLine => exact ih
    | finishLong reply =>
      rw [finishLong_eq]
      exact ih.setLine (y := { u.line l with long := none }) (fun hc => absurd hc hu) (fun _ => rfl)
    | take y hy _ _ k slot a b => exact ih.setLine (y := y.setLong k slot a b) (fun hc => absurd hc (hy.isOpen hu)) (fun _ => rfl)

theorem lineEvent (h : s.closedAtRest) {keep : Prop} (ho : (s.line l).state ≠ .closed) (he : LineEvent l keep s t) : t.closedAtRest := by
  obtain ⟨u, hm, rfl | rfl⟩ := he
  · exact h.moves ho hm
  · apply testPartReset
    have hu := h.moves ho hm
    unfold State.testClose
    split
    · rw [State.closeLine]
      split
      · refine setLine (l := l) (y := ((u.finishLong l _).line l).closedFrom) ?_ (fun _ => rfl) (fun _ => rfl)
        exact h.moves ho (hm.finishLong _)
      · exact hu.setLine (y := (u.line l).closedFrom) (fun _ => rfl) (fun _ => rfl)
    · exact hu

/-- A line event, whatever the line's state. -/
theorem event (h : s.closedAtRest) {keep : Prop} (hr : (s.line l).Rests → RestEvent l s t) (he : LineEvent l keep s t) : t.closedAtRest := by
  by_cases hc : (s.line l).state = .closed
  · exact h.restEvent (hr (h l hc))
  · exact h.lineEvent hc he

/-- A line opened is not CLOSED (R42). -/
theorem openNow (h : s.closedAtRest) : (s.openNow l).closedAtRest := by
  let u : State := { s.mapLine l (Line.opened (s.prof l)) with
    pool := { s.pool with unreserved := s.pool.unreserved - ((s.prof l).outQuota + (s.prof l).inQuota) } }
  have hl : u.line l = (s.line l).opened (s.prof l) := State.line_setLine_same s l _
  have ho : (u.line l).state ≠ .closed := by rw [hl]; simp [Line.opened]
  have hu : u.closedAtRest := h.setLine (y := (s.line l).opened (s.prof l)) (fun hc => by cases hc) (fun _ => rfl)
  have hm : LineMoves l False u u := .refl
  show (u.openDecoder l).closedAtRest
  unfold State.openDecoder
  simp only
  split
  · split
    · exact hu.moves ho (hm.mapLine (.of_eq rfl rfl rfl id)).reportCondition
    · exact hu.moves ho (hm.mapLine (.of_eq rfl rfl rfl id))
  · exact hu

theorem change (h : s.closedAtRest) (hc : Change s t) : t.closedAtRest := by
  have hm := fun l => LineMoves.refl (l := l) (keep := False) (s := s)
  have free : ∀ (l : Fin 8) (f : Line → Line), ((s.line l).Rests → (f (s.line l)).Rests) → (f (s.line l)).state = (s.line l).state →
      (s.mapLine l f).closedAtRest := fun l f hf he => h.setLine (fun hc => hf (h l (he ▸ hc))) (fun _ => rfl)
  cases hc with
  | refresh n =>
    refine h.of_lines fun k hk => ?_
    have e : ({ s.mapLines (fun ln => { ln with recentGrant := false }) with
      pool := { s.pool with refresh := n, refreshTimer := refreshTimer n } } : State).line k = { s.line k with recentGrant := false } := s.line_mapLines k _
    rw [e] at hk ⊢
    exact ⟨hk, fun hr => by rw [hr]; rfl⟩
  | openLine l => exact h.openNow
  | bind l i => exact free l _ (fun hr => hr.of_free rfl) rfl
  | counters l => exact free l _ (fun hr => hr.of_free rfl) rfl
  | paused l v ho => exact h.setLine (y := { s.line l with paused := v }) (fun hc => absurd hc ho) (fun _ => rfl)
  | aux l v => exact free l _ (fun hr => hr.of_free rfl) rfl
  | release l hl => exact h.lineEvent (by rw [hl]; decide) (hm l).release
  | resumeStalled l hl => exact h.lineEvent (by rw [hl]; decide) (hm l).resumeStalled
  | discard l hl => exact h.lineEvent (by rw [hl]; decide) (hm l).discardBlocks
  | _ => exact h

theorem resetLine (h : s.closedAtRest) (l : Fin 8) : (s.resetLine l).closedAtRest := by
  unfold State.resetLine
  simp only
  split
  · exact h
  next ho =>
  split
  · exact h
  split
  · exact h.setLine (y := { s.line l with long := (s.line l).long.map (fun g => { g with slot := none }) }) (fun hc => absurd hc ho)
      (fun _ => rfl)
  · exact h.lineEvent ho (LineMoves.refl.abortLine ho False.elim none).settle

theorem resetLines : ∀ (ls : List (Fin 8)) {s : State}, s.closedAtRest → (ls.foldl State.resetLine s).closedAtRest
  | [], _, h => h
  | l :: ls, _, h => resetLines ls (h.resetLine l)

/-- Slots completed change no line. -/
theorem completes (reply : Reply) : ∀ (ns : List (Fin 4)) {s : State}, s.closedAtRest →
    (ns.foldl (fun (t : State) k => t.complete k reply) s).closedAtRest
  | [], _, h => h
  | _ :: ns, s, h => completes reply ns (s := s.complete _ reply) h

theorem beginPartReset (h : s.closedAtRest) (n : Fin 4) (clear : Bool) : (s.beginPartReset n clear).closedAtRest := by
  unfold State.beginPartReset
  simp only
  apply testPartReset
  apply resetLines
  exact completes _ _ h

theorem taken (h : s.closedAtRest) {n : Fin 4} (ht : Taken n s t) : t.closedAtRest := by
  have hm := fun l => LineMoves.refl (l := l) (keep := False) (s := s)
  cases ht with
  | @answered u hc reply =>
    have hu : u.closedAtRest := h.change hc
    exact hu
  | drain l ho => exact h.lineEvent ho ((hm l).beginDrain ho False.elim _)
  | abort l ho => exact h.lineEvent ho ((hm l).abort ho _)
  | flush l ho hd hn out inn => exact h.lineEvent ho ((hm l).flush ho False.elim n out inn)
  | sendBreak l ho => exact h.lineEvent ho ((hm l).sendBreak ho False.elim n)
  | partReset clear => exact h.beginPartReset n clear

/-- What is built into a frame leaves CLOSED lines at rest (R19, R22). -/
theorem built (h : s.closedAtRest) (hb : Built s t) : t.closedAtRest := by
  cases hb with
  | grant =>
    refine h.of_lines fun k hk => ?_
    rw [State.line_mapLines] at hk ⊢
    unfold Line.granted at hk ⊢
    split at hk
    · next hd => exact ⟨hk, fun hr => by rw [hr] at hd; cases hd⟩
    · next hd => exact ⟨hk, fun hr => by rw [if_neg hd]; exact hr⟩
  | data l => exact h.setLine (fun hc => by rw [h l hc]; simp [Line.Rests, Line.closedFrom, markInFrame_nil]) (fun _ => rfl)
  | _ => exact h

theorem frameEnd (h : s.closedAtRest) : s.frameEnd.closedAtRest := by
  unfold State.frameEnd
  split
  · exact h
  simp only
  split
  · exact h
  · exact event (s := s.mapTrunk (fun t => { t with tx := none })) (keep := False) h (fun hr => .dropInbound_settle hr _) (LineMoves.refl.dropInbound _).settle
  · exact h
  · exact h

end State.closedAtRest

theorem State.closedAtRest_kept : Kept State.closedAtRest where
  powerOn s a b _ l _ := by rw [s.line_powerOn]; rfl
  noted s t hn hs := by cases hn <;> exact hs
  linkRestart s c hs := hs.of_lines fun k hk => by
    rw [s.line_linkRestart] at hk ⊢
    exact ⟨hk, fun hr => by rw [hr]; rfl⟩
  beginSession s seq tag hs := hs.of_lines fun k hk => by
    have e : (s.beginSession seq tag).line k = { s.line k with grantDue := (s.line k).grantDue || (s.line k).state != .closed } := s.line_mapLines k _
    rw [e] at hk ⊢
    exact ⟨hk, fun hr => by rw [hr]; rfl⟩
  takeData s l payload hs := hs.event (keep := False) (fun hr => .takeData hr payload) (LineMoves.refl.takeData payload)
  dropRequest _ hs := hs
  listRefusal _ _ _ hs := hs
  admitted s c tag ops n hc hops _ _ _ hs := by
    have h : (s.holdSlot n c tag ops).closedAtRest := hs
    exact h.taken (toOwner_taken _ n c ops hc hops)
  testPartReset _ hs := hs.testPartReset
  arbiterChoice s hs := by
    obtain ⟨u, k, hu, -, -, he⟩ := builds_arbiterChoice s
    have h : u.closedAtRest := hs.built hu
    rw [he]; exact h
  frameEnd _ hs := hs.frameEnd
  refreshExpiry s hs := by
    unfold State.refreshExpiry
    split
    · exact hs
    · refine hs.of_lines fun k hk => ?_
      change ((s.mapLines _).line k).state = _ at hk
      change _ ∧ ((s.line k).Rests → ((s.mapLines _).line k).Rests)
      rw [State.line_mapLines] at hk ⊢
      exact ⟨hk, fun hr => by rw [hr]; rfl⟩
  announceExpiry s hs := by unfold State.announceExpiry; split <;> exact hs
  repeatExpiry _ _ hs := hs
  lineEvent i l s t hl hd hs ht := hs.event (fun hr => .of_exec hr hl hd ht) (.of_exec False hl hd ht)

/-- Settles O55: a line event leaves a line at rest at rest, and a line enters CLOSED only at its CLOSED values. -/
theorem closedLinesStayAtRest : Obligations.ClosedLinesStayAtRest := by
  refine ⟨fun s t hs ht => State.closedAtRest_kept.step (fun _ _ h => h) hs ht, fun s => ?_⟩
  exact forall_congr' fun l => Iff.rfl

/-- Settles O56: no change of a line moves a cell that the pool does not account for, and CLOSED lines stay at rest. -/
theorem poolAccountsKept : Obligations.PoolAccountsKept := by
  intro s t hs ht
  rw [State.poolAccounts_iff] at hs ⊢
  obtain ⟨ha, hc⟩ := hs
  have hb : s.Balanced := ⟨ha, fun l hl => by rw [hc l hl]; rfl⟩
  exact ⟨(State.balanced_kept.step (fun _ _ h => h) hb ht).1, State.closedAtRest_kept.step (fun _ _ h => h) hc ht⟩

end Sys2Proof.Machine
end

section
/-!
PROOF. Responses stay owed (O57): every held slot is completed and in the response order, sending and on TTX, or in progress for a line's
long request or PART RESET.
-/
namespace Sys2Proof.Machine

/-! ## What is owed -/

/-- The slot of a PART RESET in progress. -/
def RequestUnit.resetSlot (r : RequestUnit) : Option (Fin 4) := r.partReset.bind PartReset.slot

/-- A held slot is owed: in the response order, on TTX, or in progress for a line or for PART RESET. -/
theorem State.owed_iff (s : State) (k : Slot) : s.owed k ↔ match k.phase with
    | .completed _ => .slot k.num ∈ s.reqs.order
    | .sending _ => ∃ f, s.trunk.tx = some f ∧ f.carries = .slot k.num
    | .inProgress => (∃ l, (s.line l).longSlot = some k.num) ∨ s.reqs.resetSlot = some k.num := by
  unfold State.owed
  cases k.phase with
  | completed r => rfl
  | sending r => rfl
  | inProgress =>
    simp only [Line.longSlot, RequestUnit.resetSlot, Option.bind_eq_some_iff]

/-- The slots of a set of numbers are owed, and every other that is no longer in progress; slots have different numbers, and CLOSED lines have no long request. -/
structure State.Owing (w : Fin 4 → Prop) (s : State) : Prop where
  slots : ∀ k ∈ s.reqs.slots, w k.num ∨ k.phase ≠ .inProgress → s.owed k
  nums : (s.reqs.slots.map Slot.num).Nodup
  closed : ∀ l, (s.line l).state = .closed → (s.line l).long = none

theorem State.responsesOwed_iff (s : State) : s.responsesOwed ↔ s.Owing (fun _ => True) :=
  ⟨fun ⟨h1, h2, h3⟩ => ⟨fun k hk _ => h1 k hk, h2, h3⟩, fun ⟨h1, h2, h3⟩ => ⟨fun k hk => h1 k hk (Or.inl trivial), h2, h3⟩⟩

/-- Nothing that is owed is lost: the order keeps its slots, the frame on TTX what it carries, and every slot in progress its owner. -/
structure State.KeepsOwed (s t : State) : Prop where
  order : ∀ n, .slot n ∈ s.reqs.order → .slot n ∈ t.reqs.order
  tx : ∀ f, s.trunk.tx = some f → ∃ g, t.trunk.tx = some g ∧ ∀ n, f.carries = .slot n → g.carries = .slot n
  owner : ∀ k ∈ s.reqs.slots, k.phase = .inProgress → (∃ l, (s.line l).longSlot = some k.num) ∨ s.reqs.resetSlot = some k.num →
    (∃ l, (t.line l).longSlot = some k.num) ∨ t.reqs.resetSlot = some k.num

theorem State.KeepsOwed.owed {s t : State} (h : s.KeepsOwed t) {k : Slot} (hm : k ∈ s.reqs.slots) (hk : s.owed k) : t.owed k := by
  rw [State.owed_iff] at *
  split at hk
  · exact h.order _ hk
  · obtain ⟨f, hf, hc⟩ := hk
    obtain ⟨g, hg, hgc⟩ := h.tx f hf
    exact ⟨g, hg, hgc _ hc⟩
  · next hp => exact h.owner k hm hp hk

namespace State.Owing
variable {w : Fin 4 → Prop} {s t : State} {l : Fin 8}

/-- Nothing owed is lost and no slot changes. -/
theorem of_keeps (h : s.Owing w) (hs : t.reqs.slots = s.reqs.slots) (hk : s.KeepsOwed t)
    (hc : ∀ l, (t.line l).state = .closed → (t.line l).long = none) : t.Owing w :=
  ⟨fun k hm hw => hk.owed (hs ▸ hm) (h.slots k (hs ▸ hm) hw), hs ▸ h.nums, hc⟩

/-- The lines' long requests, and all the rest that is read, stay. -/
theorem of_same (h : s.Owing w) (hr : t.reqs.slots = s.reqs.slots) (ho : ∀ n, RespItem.slot n ∈ s.reqs.order → .slot n ∈ t.reqs.order)
    (hp : t.reqs.resetSlot = s.reqs.resetSlot) (htx : t.trunk.tx = s.trunk.tx)
    (hl : ∀ l, (t.line l).long = (s.line l).long ∧ (t.line l).state = (s.line l).state) : t.Owing w := by
  refine h.of_keeps hr ⟨ho, fun f hf => ⟨f, htx ▸ hf, fun _ => id⟩, fun _ _ _ hn => ?_⟩
    fun l hc => (hl l).1.trans (h.closed l ((hl l).2 ▸ hc))
  rw [hp]
  refine hn.imp_left fun ⟨l, hs⟩ => ⟨l, ?_⟩
  rw [Line.longSlot, (hl l).1]; exact hs

/-- A slot completed is owed by its place in the response order (R160). -/
theorem complete (h : s.Owing w) (n : Fin 4) (reply : Reply) : (s.complete n reply).Owing (fun m => w m ∨ m = n) := by
  have keeps : s.KeepsOwed (s.complete n reply) :=
    ⟨fun m hm => List.mem_append_left _ hm, fun f hf => ⟨f, hf, fun _ => id⟩, fun _ _ _ => id⟩
  refine ⟨fun k hk hw => ?_, ?_, h.closed⟩
  · obtain ⟨k', hk', rfl⟩ := List.mem_map.mp hk
    by_cases hn : k'.num = n
    · rw [if_pos hn, State.owed_iff]
      exact List.mem_append_right _ (List.mem_singleton.mpr (congrArg RespItem.slot hn))
    · rw [if_neg hn] at hw ⊢
      exact keeps.owed hk' (h.slots k' hk' (hw.imp_left fun hw => hw.resolve_right hn))
  · have : (s.complete n reply).reqs.slots.map Slot.num = s.reqs.slots.map Slot.num := by
      show (s.reqs.slots.map _).map Slot.num = _
      rw [List.map_map]
      exact List.map_congr_left fun k _ => by simp only [Function.comp]; split <;> rfl
    rw [this]; exact h.nums

theorem mono (h : s.Owing w) {v : Fin 4 → Prop} (hv : ∀ n, v n → w n) : s.Owing v := ⟨fun k hk hw => h.slots k hk (hw.imp_left (hv _)), h.nums, h.closed⟩

/-- One line changed, its long request's slot kept, its long request not begun on a CLOSED line. -/
theorem setLine (h : s.Owing w) {y : Line} (hr : t.reqs = s.reqs) (htx : t.trunk.tx = s.trunk.tx) (hl : ∀ k, t.line k = (s.setLine l y).line k)
    (hslot : ∀ k ∈ s.reqs.slots, k.phase = .inProgress → (s.line l).longSlot = some k.num → y.longSlot = some k.num)
    (hc : y.state = .closed → y.long = none) : t.Owing w := by
  have each : ∀ k, (k = l ∧ t.line k = y) ∨ (k ≠ l ∧ t.line k = s.line k) := by
    intro k
    by_cases hk : k = l
    · subst hk; exact Or.inl ⟨rfl, (hl k).trans (State.line_setLine_same s k y)⟩
    · exact Or.inr ⟨hk, (hl k).trans (State.line_setLine_ne s y hk)⟩
  refine h.of_keeps (by rw [hr]) ⟨fun n hn => hr ▸ hn, fun f hf => ⟨f, htx ▸ hf, fun _ => id⟩, fun k hm hp hn => ?_⟩ fun k hk => ?_
  · rw [hr]
    refine hn.imp_left fun ⟨j, hj⟩ => ⟨j, ?_⟩
    rcases each j with ⟨rfl, he⟩ | ⟨-, he⟩ <;> rw [he]
    · exact hslot k hm hp hj
    · exact hj
  · rcases each k with ⟨rfl, he⟩ | ⟨-, he⟩ <;> rw [he] at hk ⊢
    · exact hc hk
    · exact h.closed k hk

/-- No slot of a completed number is in progress. -/
theorem complete_not_inProgress {n : Fin 4} {reply : Reply} {k : Slot} (hk : k ∈ (s.complete n reply).reqs.slots) (hn : k.num = n) :
    k.phase ≠ .inProgress := by
  obtain ⟨k', -, rfl⟩ := List.mem_map.mp hk
  split
  · intro hp; cases hp
  · next hne =>
    rw [if_neg hne] at hn
    exact absurd hn hne

/-- A long request that ends is answered, or nothing is sent when it is unanswered (R40, R45). -/
theorem finishLong (h : s.Owing w) (reply : Reply) : (s.finishLong l reply).Owing w := by
  unfold State.finishLong
  cases hg : (s.line l).long with
  | none =>
    exact h.setLine (y := { s.line l with long := none }) rfl rfl (fun _ => rfl)
      (fun k _ _ hk => by rw [Line.longSlot, hg] at hk; cases hk) (fun _ => rfl)
  | some g =>
    have hslot : (s.line l).longSlot = g.slot := by rw [Line.longSlot, hg]; rfl
    simp only
    split
    · next n hn =>
      have hc := setLine (t := (s.complete n reply).mapLine l (fun ln => { ln with long := none })) (h.complete n reply) rfl rfl (fun _ => rfl)
        (fun k hm hp hk => ?_) (fun _ => rfl)
      · exact hc.mono (fun _ => Or.inl)
      have hk' : g.slot = some k.num := hslot ▸ hk
      exact absurd hp (complete_not_inProgress hm (Option.some.inj (hk'.symm.trans hn)))
    · next hn =>
      exact h.setLine (y := { s.line l with long := none }) rfl rfl (fun _ => rfl)
        (fun k _ _ hk => by rw [hslot, hn] at hk; cases hk) (fun _ => rfl)

/-- The changes of a line that keep its long request's slot. -/
theorem moves (h : s.Owing w) (hm : LineMoves l True s t) : t.Owing w := by
  induction hm with
  | refl => exact h
  | @tail u v _ hstep ih =>
    cases hstep with
    | line y f ht hs =>
      exact ih.setLine (y := y) rfl rfl (fun _ => rfl) (fun k _ _ hk => hs trivial _ hk)
        fun hc => ht.long (ih.closed l (Classical.byContradiction fun hx => ht.isOpen hx hc))
    | raise => exact ih.of_same rfl (fun _ => id) rfl rfl (fun _ => ⟨rfl, rfl⟩)
    | removeLine => exact ih.of_same rfl (fun _ => id) rfl rfl (fun _ => ⟨rfl, rfl⟩)
    | finishLong reply => exact ih.finishLong reply
    | take y hy ho hfree k slot a b =>
      exact ih.setLine (y := y.setLong k slot a b) rfl rfl (fun _ => rfl)
        (fun m _ _ hm => by rw [hfree trivial] at hm; cases hm) (fun hc => absurd hc (hy.isOpen ho))

/-- Every line changed, its long request as it was. -/
theorem of_lines (h : s.Owing w) (hr : t.reqs = s.reqs) (htx : t.trunk.tx = s.trunk.tx)
    (hl : ∀ l, (t.line l).long = (s.line l).long ∧ (t.line l).state = (s.line l).state) : t.Owing w :=
  h.of_same (by rw [hr]) (fun _ hn => by rw [hr]; exact hn) (by rw [hr]) htx hl

/-- The completion of PART RESET answers its request (R164). -/
theorem completePartReset (h : s.Owing w) {p : PartReset} (hp : s.reqs.partReset = some p) : (s.completePartReset p).Owing w := by
  have hlines : ∀ l, ((s.completePartReset p).line l).long = (s.line l).long ∧ ((s.completePartReset p).line l).state = (s.line l).state :=
    fun l => by rw [s.line_completePartReset]; exact ⟨rfl, rfl⟩
  have htx : (s.completePartReset p).trunk.tx = s.trunk.tx := by rw [s.trunk_completePartReset]
  have hclosed : ∀ l, ((s.completePartReset p).line l).state = .closed → ((s.completePartReset p).line l).long = none :=
    fun l hc => (hlines l).1.trans (h.closed l ((hlines l).2 ▸ hc))
  have owner : ∀ {n}, (∃ l, (s.line l).longSlot = some n) → ∃ l, ((s.completePartReset p).line l).longSlot = some n :=
    fun ⟨l, hl⟩ => ⟨l, by rw [Line.longSlot, (hlines l).1]; exact hl⟩
  have hreqs := s.reqs_completePartReset p
  have hreset : s.reqs.resetSlot = p.slot := by rw [RequestUnit.resetSlot, hp]; rfl
  cases hs : p.slot with
  | none =>
    rw [hs] at hreqs
    refine h.of_keeps (by rw [hreqs]) ⟨fun n hn => by rw [hreqs]; exact hn, fun f hf => ⟨f, htx ▸ hf, fun _ => id⟩, fun k _ _ hk => ?_⟩ hclosed
    exact Or.inl (owner (hk.resolve_right (by rw [hreset, hs]; simp)))
  | some n =>
    rw [hs] at hreqs
    refine mono ((h.complete n ⟨.ok, []⟩).of_keeps (by rw [hreqs]; rfl)
      ⟨fun m hm => by rw [hreqs]; exact hm, fun f hf => ⟨f, htx ▸ hf, fun _ => id⟩, fun k hm hph hk => ?_⟩ hclosed) (fun _ => Or.inl)
    refine Or.inl (owner (hk.resolve_right fun hr => ?_))
    have : some n = some k.num := by rw [← hs, ← hreset]; exact hr
    exact complete_not_inProgress hm (Option.some.inj this).symm hph

theorem testPartReset (h : s.Owing w) : s.testPartReset.Owing w := by
  unfold State.testPartReset
  split
  · next p hp =>
    split
    · exact h.completePartReset hp
    · exact h
  · exact h

theorem testClose (h : s.Owing w) : (s.testClose l).Owing w := by
  have entered : ∀ {u : State}, u.Owing w → (u.line l).long = none → (u.enterClosed l).Owing w := fun hu hn =>
    hu.setLine (y := (State.line _ l).closedFrom) rfl rfl (fun _ => rfl) (fun k _ _ hk => by rw [Line.longSlot, hn] at hk; cases hk)
      (fun _ => rfl)
  unfold State.testClose State.closeLine
  split
  · split
    · refine entered (h.finishLong _) ?_
      rw [finishLong_eq]; exact congrArg Line.long (State.line_setLine_same s l _)
    · next hn => exact entered h hn
  · exact h

theorem lineEvent (h : s.Owing w) (he : LineEvent l True s t) : t.Owing w := by
  obtain ⟨u, hm, rfl | rfl⟩ := he
  · exact h.moves hm
  · exact ((h.moves hm).testClose).testPartReset

/-- A line whose long request takes the slot n owes it. -/
theorem take {n : Fin 4} (h : s.Owing (· ≠ n)) {y : Line} (hn : (s.line l).longSlot = none) (ho : y.state ≠ .closed) (k a b) :
    (s.setLine l (y.setLong k (some n) a b)).Owing (fun _ => True) := by
  let t : State := s.setLine l (y.setLong k (some n) a b)
  have hother : t.Owing (· ≠ n) := h.setLine (y := y.setLong k (some n) a b) rfl rfl (fun _ => rfl)
    (fun m _ _ hm => by rw [hn] at hm; cases hm) (fun hc => absurd hc ho)
  refine ⟨fun m hm _ => ?_, hother.nums, hother.closed⟩
  by_cases hp : m.num ≠ n ∨ m.phase ≠ .inProgress
  · exact hother.slots m hm hp
  · simp only [ne_eq, not_or, Classical.not_not] at hp
    rw [State.owed_iff, hp.2, hp.1]
    exact Or.inl ⟨l, congrArg Line.longSlot (State.line_setLine_same s l (y.setLong k (some n) a b))⟩

/-- Every line changed, its long request left as it is. -/
theorem mapLines (h : s.Owing w) {f : Line → Line} (hf : ∀ x, (f x).long = x.long ∧ (f x).state = x.state) : (s.mapLines f).Owing w :=
  h.of_lines rfl rfl fun l => by rw [State.line_mapLines]; exact hf _

theorem openNow (h : s.Owing w) (hc : (s.line l).state = .closed) : (s.openNow l).Owing w := by
  let u : State := { s.mapLine l (Line.opened (s.prof l)) with
    pool := { s.pool with unreserved := s.pool.unreserved - ((s.prof l).outQuota + (s.prof l).inQuota) } }
  have hu : u.Owing w := h.setLine (y := (s.line l).opened (s.prof l)) rfl rfl (fun _ => rfl)
    (fun k _ _ hk => by rw [Line.longSlot, h.closed l hc] at hk; cases hk) (fun _ => rfl)
  have hm : LineMoves l True u u := .refl
  show (u.openDecoder l).Owing w
  unfold State.openDecoder
  simp only
  split
  · split
    · exact hu.moves (hm.mapLine (.of_eq rfl rfl rfl id)).reportCondition
    · exact hu.moves (hm.mapLine (.of_eq rfl rfl rfl id))
  · exact hu

theorem change (h : s.Owing w) (hc : Change s t) : t.Owing w := by
  have hm := fun l => LineMoves.refl (l := l) (keep := True) (s := s)
  cases hc with
  | same => exact h
  | clearPart => exact h.of_same rfl (fun _ => id) rfl rfl (fun _ => ⟨rfl, rfl⟩)
  | refresh n =>
    exact (h.mapLines (f := fun ln => { ln with recentGrant := false }) (fun _ => ⟨rfl, rfl⟩)).of_same rfl (fun _ => id) rfl rfl (fun _ => ⟨rfl, rfl⟩)
  | openLine l hc => exact h.openNow hc
  | bind l i hc => exact h.setLine (y := { s.line l with binding := i }) rfl rfl (fun _ => rfl) (fun _ _ _ hk => hk) (fun hc => h.closed l hc)
  | counters l => exact h.moves ((hm l).mapLine ⟨rfl, fun _ => Counters.bounded_zero, id, id⟩)
  | paused l v => exact h.moves ((hm l).mapLine (.of_eq rfl rfl rfl id))
  | aux l v => exact h.moves ((hm l).mapLine (.of_eq rfl rfl rfl id))
  | release l => exact h.lineEvent (hm l).release
  | resumeStalled l => exact h.lineEvent (hm l).resumeStalled
  | discard l => exact h.lineEvent (hm l).discardBlocks
  | _ => exact h.of_same rfl (fun _ => id) rfl rfl (fun _ => ⟨rfl, rfl⟩)

/-! ## PART RESET (R163) -/

/-- The slots that PART RESET answers at once: those in progress, its own and a taken drain's apart. -/
theorem completes (reply : Reply) : ∀ (ns : List (Fin 4)) {s : State} {w : Fin 4 → Prop}, s.Owing w →
    (ns.foldl (fun (t : State) k => t.complete k reply) s).Owing (fun m => w m ∨ m ∈ ns)
  | [], _, _, h => h.mono (fun m hm => hm.resolve_right (by simp))
  | n :: ns, s, w, h => by
    refine (completes reply ns (h.complete n reply)).mono fun m hm => ?_
    rcases hm with hm | hm
    · exact Or.inl (Or.inl hm)
    · rcases List.mem_cons.mp hm with rfl | hm
      · exact Or.inl (Or.inr rfl)
      · exact Or.inr hm

/-- Slots completed change nothing else, and those left in progress are none of them. -/
theorem completes_frame (reply : Reply) : ∀ (ns : List (Fin 4)) (s : State),
    let t := ns.foldl (fun (t : State) k => t.complete k reply) s
    (∀ l, t.line l = s.line l) ∧ ∀ k ∈ t.reqs.slots, k.phase = .inProgress → k ∈ s.reqs.slots ∧ k.num ∉ ns
  | [], s => ⟨fun _ => rfl, fun k hk _ => ⟨hk, by simp⟩⟩
  | n :: ns, s => by
    obtain ⟨hl, hs⟩ := completes_frame reply ns (s.complete n reply)
    refine ⟨hl, fun k hk hp => ?_⟩
    obtain ⟨hm, hns⟩ := hs k hk hp
    have hne : k.num ≠ n := fun he => complete_not_inProgress hm he hp
    obtain ⟨k', hk', rfl⟩ := List.mem_map.mp hm
    by_cases hn : k'.num = n
    · rw [if_pos hn] at hp; cases hp
    · rw [if_neg hn] at hne hns ⊢
      exact ⟨hk', by simp [hne, hns]⟩

/-- The slot of a drain whose completion has been taken is its line's (R48). -/
theorem slotOfTakenDrain_iff (s : State) (n : Fin 4) : s.slotOfTakenDrain n = true ↔ ∃ l, (s.line l).drainTaken = true ∧ (s.line l).longSlot = some n := by
  simp only [State.slotOfTakenDrain, List.any_eq_true, Bool.and_eq_true]
  have slot : ∀ x : Line, (match x.long with | some g => g.slot == some n | none => false) = true ↔ x.longSlot = some n := by
    intro x
    unfold Line.longSlot
    cases x.long <;> simp
  constructor
  · rintro ⟨x, hx, hd, hs⟩
    rw [Vector.mem_toList_iff, Vector.mem_iff_getElem] at hx
    obtain ⟨i, hi, rfl⟩ := hx
    exact ⟨⟨i, hi⟩, hd, (slot _).mp hs⟩
  · rintro ⟨l, hd, hs⟩
    exact ⟨s.line l, by simp [State.line], hd, (slot _).mpr hs⟩

theorem mem_allLines : ∀ l, l ∈ allLines := by decide

/-- PART RESET taken: what is in progress is answered ABORTED, its own slot and a taken drain's apart (R163). -/
theorem beginPartReset {n : Fin 4} (h : s.Owing (· ≠ n)) (clear : Bool) : (s.beginPartReset n clear).Owing (fun _ => True) := by
  let doomed := (s.reqs.slots.filter (s.slotAborted n)).map Slot.num
  let a := doomed.foldl (fun (t : State) k => t.complete k (.plain .aborted)) s
  let u : State := { a.emptyRefusals with reqs := { a.emptyRefusals.reqs with partReset := some ⟨some n, clear⟩ } }
  have ha : a.Owing (· ≠ n) := (h.completes (.plain .aborted) doomed).mono fun _ => Or.inl
  obtain ⟨hal, has⟩ := completes_frame (.plain .aborted) doomed s
  obtain ⟨v, hv, he⟩ := resetLines_frame allLines u (by decide)
  have hvl : ∀ l, (s.line l).resetTo (u.prof l) (v.line l) := fun l => by
    have hl : u.line l = s.line l := hal l
    rw [← hl]; exact hv.line l (mem_allLines l)
  have hslots : v.reqs.slots = a.reqs.slots := by rw [hv.reqs]; rfl
  have horder : ∀ m, RespItem.slot m ∈ a.reqs.order → .slot m ∈ v.reqs.order := fun m hm => by
    rw [hv.reqs]; exact List.mem_filter.mpr ⟨hm, rfl⟩
  have htx : v.trunk.tx = a.trunk.tx := by rw [hv.trunk]; rfl
  have hreset : v.reqs.resetSlot = some n := by rw [hv.reqs]; rfl
  suffices hall : v.Owing (fun _ => True) by
    have := hall.testPartReset
    rwa [← he] at this
  refine ⟨fun k hk _ => ?_, hslots ▸ ha.nums, fun l hl => ?_⟩
  · rw [hslots] at hk
    cases hp : k.phase with
    | inProgress =>
      rw [State.owed_iff, hp]
      by_cases hn : k.num = n
      · exact Or.inr (hn ▸ hreset)
      · obtain ⟨hks, hnd⟩ := has k hk hp
        have htaken : s.slotOfTakenDrain k.num = true := by
          refine Classical.byContradiction fun hnot => ?_
          refine hnd (List.mem_map.mpr ⟨k, List.mem_filter.mpr ⟨hks, ?_⟩, rfl⟩)
          simp [State.slotAborted, hn, hp, Bool.eq_false_iff.mpr hnot]
        obtain ⟨l, hd, hs⟩ := (slotOfTakenDrain_iff s k.num).mp htaken
        refine Or.inl ⟨l, ?_⟩
        obtain ⟨hsame, -⟩ := hvl l
        rw [hsame (Or.inr hd)]; exact hs
    | completed r =>
      have := ha.slots k hk (Or.inr (by simp [hp]))
      rw [State.owed_iff, hp] at this ⊢
      exact horder _ this
    | sending r =>
      have := ha.slots k hk (Or.inr (by simp [hp]))
      rw [State.owed_iff, hp] at this ⊢
      rw [htx]; exact this
  · obtain ⟨hsame, -, hcl, -⟩ := hvl l
    rcases (Line.resetTo_closed (hvl l)).mp hl with hc | ⟨hab, hw⟩
    · rw [hsame (Or.inl hc)]; exact h.closed l hc
    · rw [hcl hab hw]; rfl

/-! ## Requests taken (R157, R159) -/

theorem holdSlot (h : s.Owing (fun _ => True)) {n : Fin 4} (hn : s.reqs.freeSlot = some n) (c : ReqCode) (tag : Byte) (ops : List Byte) :
    (s.holdSlot n c tag ops).Owing (· ≠ n) := by
  have keeps : s.KeepsOwed (s.holdSlot n c tag ops) := ⟨fun _ => id, fun f hf => ⟨f, hf, fun _ => id⟩, fun _ _ _ => id⟩
  refine ⟨fun k hk hw => ?_, ?_, h.closed⟩
  · rcases List.mem_append.mp hk with hk | hk
    · exact keeps.owed hk (h.slots k hk (Or.inl trivial))
    · rw [List.mem_singleton.mp hk] at hw
      simp at hw
  · have : ((s.reqs.slots.map Slot.num) ++ [n]).Nodup :=
      List.perm_append_comm.nodup_iff.mp (List.nodup_cons.mpr ⟨RequestUnit.freeSlot_free hn, h.nums⟩)
    simpa [State.holdSlot] using this

theorem taken {n : Fin 4} (h : s.Owing (· ≠ n)) (ht : Taken n s t) : t.Owing (fun _ => True) := by
  cases ht with
  | answered hc reply => exact ((h.change hc).complete n reply).mono fun m _ => (Classical.em (m = n)).symm
  | drain l ho hs hn =>
    exact (h.take (y := { s.line l with state := .draining, markers := (s.line l).markers.filter (fun m => m.kind != .hold) })
      (by rw [Line.longSlot, hn]; rfl) (by simp) .closeDrain 0 0).lineEvent LineMoves.refl.settle
  | abort l ho ha =>
    have h1 : LineMoves l True s (s.finishLong l (.plain .aborted)) := LineMoves.refl.finishLong _
    have hm := h1.giveUpOutbound.dropInbound (fun c => c.inFrame)
    have hslot : ((((s.finishLong l (.plain .aborted)).giveUpOutbound l).dropInbound l (fun c => c.inFrame)).line l).longSlot = none := by
      rw [LineMoves.longSlot_dropInbound, LineMoves.longSlot_giveUpOutbound, finishLong_eq]
      exact congrArg Line.longSlot (State.line_setLine_same s l _)
    exact ((h.moves hm).take hslot (by simp) .closeAbort _ _).lineEvent
      (LineMoves.settle (LineMoves.refl.tail (.removeLine _)))
  | flush l ho hd hn out inn =>
    have hm : LineMoves l True s (s.flushDiscard l out inn) := LineMoves.refl.flushDiscard out inn
    exact ((h.moves hm).take (y := (s.flushDiscard l out inn).line l)
      ((LineMoves.longSlot_flushDiscard s l out inn).trans (by rw [Line.longSlot, hn]; rfl)) (hm.isOpen ho) .flush _ _).lineEvent LineMoves.refl.settle
  | sendBreak l ho hn =>
    exact (h.take (y := { s.line l with brk := .pending }) (by rw [Line.longSlot, hn]; rfl) ho .sendBreak 0 0).lineEvent
      LineMoves.refl.beginPendingBreak
  | partReset clear => exact h.beginPartReset clear

/-! ## Frames (R22, R158 to R160, R175) -/

/-- With no frame on TTX a frame is put there that carries no slot. -/
theorem sends (h : s.Owing w) (htx : s.trunk.tx = none) (hr : t.reqs = s.reqs) (hl : ∀ l, (t.line l).long = (s.line l).long ∧ (t.line l).state = (s.line l).state) :
    t.Owing w := by
  refine h.of_keeps (by rw [hr]) ⟨fun _ hn => by rw [hr]; exact hn, fun f hf => (by rw [htx] at hf; cases hf), fun k _ _ hk => ?_⟩
    fun l hc => (hl l).1.trans (h.closed l ((hl l).2 ▸ hc))
  rw [hr]
  exact hk.imp_left fun ⟨l, hs⟩ => ⟨l, by rw [Line.longSlot, (hl l).1]; exact hs⟩

theorem eq_cons_tail_of_head? {α : Type} {a : α} : ∀ {xs : List α}, xs.head? = some a → xs = a :: xs.tail
  | _ :: xs, h => congrArg (· :: xs) (Option.some.inj h)

/-- The head of the response order taken off, when it is no completed slot's; a slot completed before may have become sending. -/
theorem pop (h : s.Owing (fun _ => True)) (htx : s.trunk.tx = none) {i : RespItem} (hi : s.reqs.order.head? = some i)
    (hlines : t.lines = s.lines) (horder : t.reqs.order = s.reqs.order.tail) (hreset : t.reqs.resetSlot = s.reqs.resetSlot)
    (hnums : t.reqs.slots.map Slot.num = s.reqs.slots.map Slot.num)
    (hslots : ∀ k ∈ t.reqs.slots, (k ∈ s.reqs.slots ∧ ((∃ r, k.phase = .completed r) → i ≠ .slot k.num)) ∨ t.owed k) : t.Owing (fun _ => True) := by
  have hline : ∀ l, t.line l = s.line l := fun l => by unfold State.line; rw [hlines]
  refine ⟨fun k hk _ => (hslots k hk).elim (fun ⟨hs, hne⟩ => ?_) id, hnums ▸ h.nums, fun l hc => by rw [hline] at hc ⊢; exact h.closed l hc⟩
  have how := h.slots k hs (Or.inl trivial)
  rw [State.owed_iff] at how ⊢
  cases hp : k.phase with
  | completed r =>
    rw [hp] at how
    have hcons : s.reqs.order = i :: s.reqs.order.tail := eq_cons_tail_of_head? hi
    rw [hcons] at how
    rw [horder]
    exact (List.mem_cons.mp how).resolve_left fun e => hne ⟨r, hp⟩ e.symm
  | sending r => rw [hp, htx] at how; obtain ⟨f, hf, -⟩ := how; cases hf
  | inProgress => rw [hp] at how; simpa only [hline, hreset] using how

theorem eq_of_nodup_map {α β : Type} {f : α → β} : ∀ {xs : List α} {a b : α}, (xs.map f).Nodup → a ∈ xs → b ∈ xs → f a = f b → a = b
  | x :: xs, a, b, h, ha, hb, he => by
    obtain ⟨hx, hxs⟩ := List.nodup_cons.mp h
    rcases List.mem_cons.mp ha with hax | hax <;> rcases List.mem_cons.mp hb with hbx | hbx
    · rw [hax, hbx]
    · exact absurd (List.mem_map.mpr ⟨b, hbx, by rw [← he, hax]⟩) hx
    · exact absurd (List.mem_map.mpr ⟨a, hax, by rw [he, hbx]⟩) hx
    · exact eq_of_nodup_map hxs hax hbx he

/-- Held slots of one number are one slot (R159). -/
theorem eq_of_num (h : s.Owing w) {j k : Slot} (hj : j ∈ s.reqs.slots) (hk : k ∈ s.reqs.slots) (he : j.num = k.num) : j = k :=
  eq_of_nodup_map h.nums hj hk he

/-- The response of a slot goes on TTX (R159, R160). -/
theorem buildSlot (h : s.Owing (fun _ => True)) (htx : s.trunk.tx = none) {n : Fin 4} (hi : s.reqs.order.head? = some (.slot n)) :
    (s.buildSlot n).Owing (fun _ => True) := by
  unfold State.buildSlot
  split
  next k hk =>
    have hkm := List.mem_of_find?_eq_some hk
    have hkn : k.num = n := by simpa using List.find?_some hk
    split
    next r hr =>
      have hnum : ∀ x : Slot, (if x.num = n then x.send else x).num = x.num := fun x => by
        split
        · unfold Slot.send; split <;> rfl
        · rfl
      refine h.pop htx hi rfl rfl rfl ?_ fun j hj => ?_
      · show (s.reqs.slots.map _).map Slot.num = _
        rw [List.map_map]
        exact List.map_congr_left fun x _ => hnum x
      · obtain ⟨j', hj', rfl⟩ := List.mem_map.mp hj
        by_cases hn : j'.num = n
        · right
          have hjk : j' = k := h.eq_of_num hj' hkm (hn.trans hkn.symm)
          rw [if_pos hn, hjk, State.owed_iff]
          have hsend : ∃ r, k.send.phase = .sending r := by
            unfold Slot.send
            cases hp : k.phase with
            | inProgress => rw [hp] at hr; cases hr
            | completed r' => exact ⟨r', rfl⟩
            | sending r' => exact ⟨r', hp⟩
          obtain ⟨r', hr'⟩ := hsend
          rw [hr']
          exact ⟨_, rfl, congrArg Carry.slot (by have := hnum k; rw [if_pos hkn] at this; rw [this, hkn])⟩
        · left
          rw [if_neg hn]
          exact ⟨hj', fun _ he => hn (RespItem.slot.inj he).symm⟩
    next hr =>
      refine h.pop htx hi rfl rfl rfl rfl fun j hj => Or.inl ⟨hj, fun ⟨r, hp⟩ he => ?_⟩
      have hjk : j = k := h.eq_of_num hj hkm ((RespItem.slot.inj he).symm.trans hkn.symm)
      rw [← hjk, hp] at hr; cases hr
  next hk =>
    refine h.pop htx hi rfl rfl rfl rfl fun j hj => Or.inl ⟨hj, fun _ he => ?_⟩
    have := List.find?_eq_none.mp hk j hj
    simp [RespItem.slot.inj he] at this

theorem buildRefusal (h : s.Owing (fun _ => True)) (htx : s.trunk.tx = none) (hi : s.reqs.order.head? = some .refusal) :
    s.buildRefusal.Owing (fun _ => True) := by
  unfold State.buildRefusal
  split <;> exact h.pop htx hi rfl rfl rfl rfl fun j hj => Or.inl ⟨hj, fun _ he => by cases he⟩

theorem arbiterChoice (h : s.Owing (fun _ => True)) : s.arbiterChoice.Owing (fun _ => True) := by
  unfold State.arbiterChoice
  split
  · exact h
  next htx =>
  have same : ∀ l, (s.line l).long = (s.line l).long ∧ (s.line l).state = (s.line l).state := fun _ => ⟨rfl, rfl⟩
  split
  · split
    · exact h.sends htx rfl same
    · exact h
  unfold State.arbitrateUp State.buildResponse
  split
  · exact h.sends htx rfl same
  split
  next i hi =>
    split
    · exact h.buildSlot htx hi
    · exact h.buildRefusal htx hi
  split
  · exact h.sends htx rfl same
  split
  · refine h.sends htx rfl fun l => ?_
    have e : (s.buildGrant).line l = (s.line l).granted := s.line_mapLines l _
    rw [e]
    unfold Line.granted
    split <;> exact ⟨rfl, rfl⟩
  split
  next l _ =>
    refine h.sends htx rfl fun k => ?_
    have e : (s.buildData l).line k = (s.mapLine l (fun ln => { ln with inQ := markInFrame (s.line l).frameCells.length ln.inQ })).line k := rfl
    rw [e]
    by_cases hk : k = l
    · subst hk; rw [State.line_mapLine_same]; exact ⟨rfl, rfl⟩
    · rw [State.line_mapLine_ne _ _ hk]; exact ⟨rfl, rfl⟩
  · exact h

/-- The end of a frame releases what it carries, and nothing else was sending (R158, R159). -/
theorem frameEnd (h : s.Owing (fun _ => True)) : s.frameEnd.Owing (fun _ => True) := by
  unfold State.frameEnd
  split
  · exact h
  next f hf =>
  have sending : ∀ k ∈ s.reqs.slots, ∀ r, k.phase = .sending r → f.carries = .slot k.num := by
    intro k hk r hp
    have := h.slots k hk (Or.inl trivial)
    rw [State.owed_iff, hp, hf] at this
    obtain ⟨g, hg, hc⟩ := this
    cases hg; exact hc
  have released : ∀ t : State, t.lines = s.lines → t.reqs.order = s.reqs.order → t.reqs.partReset = s.reqs.partReset →
      t.reqs.slots.Sublist s.reqs.slots → (∀ k ∈ t.reqs.slots, f.carries ≠ .slot k.num) → t.Owing (fun _ => True) := by
    intro t hlines horder hpr hsub hne
    have hline : ∀ l, t.line l = s.line l := fun l => by unfold State.line; rw [hlines]
    refine ⟨fun k hk _ => ?_, (hsub.map Slot.num).nodup h.nums, fun l hc => by rw [hline] at hc ⊢; exact h.closed l hc⟩
    have how := h.slots k (hsub.subset hk) (Or.inl trivial)
    rw [State.owed_iff] at how ⊢
    cases hp : k.phase with
    | completed r => rw [hp] at how; rw [horder]; exact how
    | sending r => exact absurd (sending k (hsub.subset hk) r hp) (hne k hk)
    | inProgress => rw [hp] at how; simpa only [hline, RequestUnit.resetSlot, hpr] using how
  simp only
  split
  next hc => exact released _ rfl rfl rfl (List.Sublist.refl _) fun k _ he => by rw [hc] at he; cases he
  next l hc =>
    exact (released (s.mapTrunk (fun t => { t with tx := none })) rfl rfl rfl (List.Sublist.refl _)
      fun k _ he => by rw [hc] at he; cases he).lineEvent (LineMoves.refl.dropInbound _).settle
  next n hc =>
    refine released _ rfl rfl rfl List.filter_sublist fun k hk he => ?_
    have hn := (List.mem_filter.mp hk).2
    rw [hc] at he
    simp [Carry.slot.inj he] at hn
  next hc => exact released _ rfl rfl rfl (List.Sublist.refl _) fun k _ he => by rw [hc] at he; cases he

end State.Owing

theorem State.owing_kept : Kept (State.Owing (fun _ => True)) where
  powerOn s a b _ := by
    refine ⟨fun k hk _ => absurd hk List.not_mem_nil, List.nodup_nil, fun l _ => ?_⟩
    rw [s.line_powerOn]; rfl
  noted s t hn hs := by
    cases hn with
    | port f hf =>
      obtain ⟨⟨r, x, a, c, he⟩, -⟩ := hf
      exact hs.of_same rfl (fun _ => id) rfl (by show (f s.trunk).tx = _; rw [he]) (fun _ => ⟨rfl, rfl⟩)
    | raise => exact hs.of_same rfl (fun _ => id) rfl rfl (fun _ => ⟨rfl, rfl⟩)
  linkRestart s c hs := by
    refine ⟨fun k hk _ => absurd hk List.not_mem_nil, List.nodup_nil, fun l hc => ?_⟩
    rw [s.line_linkRestart] at hc ⊢
    rw [Line.unanswered, hs.closed l hc]; rfl
  beginSession s seq tag hs := by
    have h1 := hs.mapLines (f := fun ln => { ln with grantDue := ln.grantDue || ln.state != .closed }) (fun _ => ⟨rfl, rfl⟩)
    exact h1.of_same rfl (fun _ => id) rfl rfl (fun _ => ⟨rfl, rfl⟩)
  takeData s l payload hs := hs.lineEvent (LineMoves.refl.takeData payload)
  dropRequest s hs := hs.of_same rfl (fun _ => id) rfl rfl (fun _ => ⟨rfl, rfl⟩)
  listRefusal s e _ hs := hs.of_same rfl (fun _ hn => List.mem_append_left _ hn) rfl rfl (fun _ => ⟨rfl, rfl⟩)
  admitted s c tag ops n hc hops _ _ hn hs := (hs.holdSlot hn c tag ops).taken (toOwner_taken _ n c ops hc hops)
  testPartReset _ hs := hs.testPartReset
  arbiterChoice _ hs := hs.arbiterChoice
  frameEnd _ hs := hs.frameEnd
  refreshExpiry s hs := by
    unfold State.refreshExpiry
    split
    · exact hs
    · exact (hs.mapLines (f := fun ln => { ln with
        grantDue := ln.grantDue || (ln.state != .closed && !ln.recentGrant)
        recentGrant := false }) (fun _ => ⟨rfl, rfl⟩)).of_same rfl (fun _ => id) rfl rfl (fun _ => ⟨rfl, rfl⟩)
  announceExpiry s hs := by
    unfold State.announceExpiry
    split
    · exact hs
    · exact hs.of_same rfl (fun _ => id) rfl rfl (fun _ => ⟨rfl, rfl⟩)
  repeatExpiry s c hs := hs.of_same rfl (fun _ => id) rfl rfl (fun _ => ⟨rfl, rfl⟩)
  lineEvent i l s t hl hd hs ht := hs.lineEvent (.of_exec True hl hd ht)

/-- Settles O57: a slot leaves the hands of a line or of PART RESET only when it is completed, and the response order only when it is sent. -/
theorem responsesStayOwed : Obligations.ResponsesStayOwed := by
  intro s t hs ht
  rw [State.responsesOwed_iff] at *
  exact State.owing_kept.step (fun _ _ h => h.of_same rfl (fun _ => id) rfl rfl (fun _ => ⟨rfl, rfl⟩)) hs ht

end Sys2Proof.Machine
end

section
/-!
PROOF. Long requests, breaks and the transmitter agree (O60). Within an event the break, the transmitter and the break timer agree with SEND
BREAK and a taken drain is DRAINING; what follows within the event makes a FLUSH or a drain that can complete do so.
-/
namespace Sys2Proof.Machine

/-! ## Within an event -/

/-- What holds of a line within an event (R48, R89, R90). -/
structure Line.Agrees (x : Line) : Prop where
  brk : x.brk ≠ .none ↔ x.longIs .sendBreak = true
  tx : x.tx = .brk ↔ x.brk = .inProgress
  timer : x.breakTimer ≠ .stopped ↔ x.brk = .inProgress
  taken : x.drainTaken = true → x.state = .draining

/-- What holds of a line between events besides (R48, R53). -/
structure Line.Matched (x : Line) : Prop extends x.Agrees where
  flush : x.flushDone = false
  drain : x.underDrain = true → x.drainDone = false

theorem State.longRequestsMatch_iff (s : State) : s.longRequestsMatch ↔ ∀ l, (s.line l).Matched :=
  forall_congr' fun _ => ⟨fun ⟨h1, h2, h3, h4, h5, h6⟩ => ⟨⟨h1, h2, h3, h5⟩, h4, h6⟩, fun ⟨⟨h1, h2, h3, h5⟩, h4, h6⟩ => ⟨h1, h2, h3, h4, h5, h6⟩⟩

/-- What is read of a long request. -/
def Line.request (x : Line) : Option (LongKind × Bool) := x.long.map (fun g => (g.kind, g.completing))

/-- A change that leaves a line's long request, break and break timer, does not start or end a BREAK, and leaves a DRAINING line so. -/
structure Line.KeepsBreak (x y : Line) : Prop where
  request : y.request = x.request
  brk : y.brk = x.brk
  timer : y.breakTimer = x.breakTimer
  tx : y.tx = .brk ↔ x.tx = .brk
  draining : x.state = .draining → y.state = .draining

theorem longIs_eq (x : Line) (k : LongKind) : x.longIs k = x.request.any (fun g => g.1 == k) := by
  unfold Line.longIs Line.request; cases x.long <;> rfl

theorem drainTaken_eq (x : Line) : x.drainTaken = x.request.any (fun g => g.1 == .closeDrain && g.2) := by
  unfold Line.drainTaken Line.request; cases x.long <;> rfl

namespace Line.KeepsBreak
variable {x y z : Line}

theorem refl (x : Line) : x.KeepsBreak x := ⟨rfl, rfl, rfl, Iff.rfl, id⟩

theorem after (h' : y.KeepsBreak z) (h : x.KeepsBreak y) : x.KeepsBreak z :=
  ⟨h'.request.trans h.request, h'.brk.trans h.brk, h'.timer.trans h.timer, h'.tx.trans h.tx, fun c => h'.draining (h.draining c)⟩

theorem ite {c : Prop} [Decidable c] (hy : x.KeepsBreak y) (hz : x.KeepsBreak z) : x.KeepsBreak (if c then y else z) := by split <;> assumption

/-- Fields of equal value are enough. -/
theorem of_eq (hl : y.long = x.long) (hb : y.brk = x.brk) (ht : y.breakTimer = x.breakTimer) (hx : y.tx = x.tx) (hs : y.state = x.state) :
    x.KeepsBreak y := ⟨by rw [Line.request, Line.request, hl], hb, ht, by rw [hx], fun h => hs.trans h⟩

theorem agrees (h : x.KeepsBreak y) (hx : x.Agrees) : y.Agrees where
  brk := by rw [h.brk, longIs_eq, h.request, ← longIs_eq]; exact hx.brk
  tx := by rw [h.tx, h.brk]; exact hx.tx
  timer := by rw [h.timer, h.brk]; exact hx.timer
  taken := fun hd => h.draining (hx.taken (by rw [drainTaken_eq, ← h.request, ← drainTaken_eq]; exact hd))

/-- The conditions of a drain's completion left too, all that holds between events still holds. -/
theorem matched (h : x.KeepsBreak y) (hs : y.state = x.state) (hc : y.inCharacter = x.inCharacter) (hd : y.drainDone = x.drainDone) (hx : x.Matched) :
    y.Matched where
  toAgrees := h.agrees hx.toAgrees
  flush := by rw [Line.flushDone, longIs_eq, h.request, ← longIs_eq, hc]; exact hx.flush
  drain := fun hu => by
    rw [hd]
    refine hx.drain ?_
    rw [Line.underDrain, longIs_eq, drainTaken_eq, ← h.request, ← longIs_eq, ← drainTaken_eq, ← hs]; exact hu

theorem standing (x : Line) (p : Profile) : x.KeepsBreak (x.standing p) := by
  obtain ⟨e, t, q, u, h⟩ := x.standing_frame p
  rw [h]; exact .of_eq rfl rfl rfl rfl rfl

theorem applyMarks (x : Line) (p : Profile) : x.KeepsBreak (x.applyMarks p) := by
  obtain ⟨a, b, c, h, -⟩ := x.applyMarks_frame p
  rw [h]; exact .of_eq rfl rfl rfl rfl rfl

theorem enterHeld (x : Line) : x.KeepsBreak x.enterHeld := by
  unfold Line.enterHeld
  split
  · next hr => exact ⟨rfl, rfl, rfl, Iff.rfl, fun hd => by rw [hr] at hd; cases hd⟩
  · exact .refl x

theorem sealCurrent (x : Line) : x.KeepsBreak x.sealCurrent := by
  unfold Line.sealCurrent; split <;> exact .of_eq rfl rfl rfl rfl rfl

theorem sealOrTime (x : Line) (p : Profile) (b : Byte) : x.KeepsBreak (x.sealOrTime p b) := by
  unfold Line.sealOrTime
  split
  · exact .ite (.sealCurrent x) (.of_eq rfl rfl rfl rfl rfl)
  · exact .refl x

theorem ackStart (x : Line) (p : Profile) : x.KeepsBreak (x.ackStart p) := .ite (.of_eq rfl rfl rfl rfl rfl) (.refl x)

theorem ackAfterRetire (x : Line) (p : Profile) : x.KeepsBreak (x.ackAfterRetire p) :=
  .ite (.of_eq rfl rfl rfl rfl rfl) (.ite (.refl x) (.of_eq rfl rfl rfl rfl rfl))

theorem ackOnCondition (x : Line) (p : Profile) : x.KeepsBreak (x.ackOnCondition p) := by
  rw [ackOnCondition_eq]; exact .of_eq rfl rfl rfl rfl rfl

theorem abandon_eq_brk (t : TxState) : t.abandon = .brk ↔ t = .brk := by cases t <;> simp [TxState.abandon]

theorem beginResend (x : Line) : x.KeepsBreak x.beginResend := ⟨rfl, rfl, rfl, abandon_eq_brk x.tx, id⟩

/-- A STALLED line leaves STALLED (R87). -/
theorem leaveStalled (x : Line) (h : x.state = .stalled) : x.KeepsBreak x.leaveStalled :=
  ⟨rfl, rfl, rfl, Iff.rfl, fun hd => by rw [h] at hd; cases hd⟩

theorem joinBlock (x : Line) (p : Profile) (k : EndKind) (b : OpenBlock) : x.KeepsBreak (x.joinBlock p k b) :=
  .after (.ackStart _ p) (.of_eq rfl rfl rfl rfl rfl)

theorem markSent (x : Line) (p : Profile) (e : Pos) : x.KeepsBreak (x.markSent p e) := .after (.ackStart _ p) (.of_eq rfl rfl rfl rfl rfl)

/-- A character starts on a line whose transmitter is IDLE (R63, R64). -/
theorem shifted (h : x.tx = .idle) (hl : y.long = x.long) (hb : y.brk = x.brk) (ht : y.breakTimer = x.breakTimer) (hs : y.state = x.state)
    {c : ShiftChar} (hy : y.tx = .character c) : x.KeepsBreak y :=
  ⟨by rw [Line.request, Line.request, hl], hb, ht, by rw [hy, h]; simp, fun hd => hs.trans hd⟩

theorem choose (x : Line) (p : Profile) (h : x.tx = .idle) : x.KeepsBreak (x.choose p) := by
  unfold Line.choose
  refine .ite (.shifted h rfl rfl rfl rfl rfl) (.ite ?_ (.ite ?_ (.refl x)))
  · unfold Line.startEnd
    split <;> exact .shifted h rfl rfl rfl rfl rfl
  · split
    · unfold Line.startData
      split
      · split <;> exact .shifted h rfl rfl rfl rfl rfl
      · exact .shifted h rfl rfl rfl rfl rfl
    · exact .refl x

end Line.KeepsBreak

/-! ## The shared operations within an event -/

/-- Line l keeps its break, its long request and its DRAINING. -/
def State.KeepsBreak (l : Fin 8) (s t : State) : Prop := (s.line l).KeepsBreak (t.line l)

namespace State.KeepsBreak
variable {l : Fin 8} {s t : State}

theorem refl : State.KeepsBreak l s s := Line.KeepsBreak.refl _

theorem setLine (h : State.KeepsBreak l s t) {y : Line} (hy : (t.line l).KeepsBreak y) : State.KeepsBreak l s (t.setLine l y) := by
  unfold State.KeepsBreak; rw [State.line_setLine_same]; exact hy.after h

theorem mapLine (h : State.KeepsBreak l s t) {f : Line → Line} (hf : (t.line l).KeepsBreak (f (t.line l))) :
    State.KeepsBreak l s (t.mapLine l f) := h.setLine hf

theorem raise (h : State.KeepsBreak l s t) (r : EventRec) : State.KeepsBreak l s (t.raise l r) := h

theorem ite {c : Prop} [Decidable c] {u : State} (ha : State.KeepsBreak l s t) (hb : State.KeepsBreak l s u) :
    State.KeepsBreak l s (if c then t else u) := by split <;> assumption

theorem dropInbound (h : State.KeepsBreak l s t) (k) : State.KeepsBreak l s (t.dropInbound l k) := by
  obtain ⟨i, a, b, c, he, -⟩ := t.dropInbound_frame l k
  rw [he]; exact h.setLine (.of_eq rfl rfl rfl rfl rfl)

theorem moveRt (h : State.KeepsBreak l s t) (rt) : State.KeepsBreak l s (t.moveRt l rt) := by
  obtain ⟨b, he, -⟩ := t.moveRt_frame l rt
  rw [he]; exact h.setLine (.of_eq rfl rfl rfl rfl rfl)

theorem reachMarks (h : State.KeepsBreak l s t) : State.KeepsBreak l s (t.reachMarks l) := by
  rw [reachMarks_eq]; exact h.setLine (.of_eq rfl rfl rfl rfl rfl)

theorem reachBarrier (h : State.KeepsBreak l s t) (p) : State.KeepsBreak l s (t.reachBarrier l p) := by
  unfold State.reachBarrier
  split
  · exact h
  · refine ite (ite (h.mapLine (.enterHeld _)) (raise (h.mapLine ?_) _)) h
    exact .after (.enterHeld _) (.of_eq rfl rfl rfl rfl rfl)

theorem endCompletes (h : State.KeepsBreak l s t) (c) : State.KeepsBreak l s (t.endCompletes l c) := by
  unfold State.endCompletes
  simp only
  split
  · exact h
  · split
    · exact (h.mapLine (.joinBlock _ _ _ _)).reachBarrier _
    · exact h
  · exact ite ((h.mapLine (.markSent _ _ _)).reachBarrier _) h

theorem pacerCompletes (h : State.KeepsBreak l s t) (c) : State.KeepsBreak l s (t.pacerCompletes l c) := by
  unfold State.pacerCompletes State.byteCompletes
  split
  · exact h
  · exact h.endCompletes _
  · exact ite (h.endCompletes _) (ite (((h.moveRt _).reachMarks).reachBarrier _) h)

end State.KeepsBreak

/-- Line l agrees. -/
def State.Agrees (l : Fin 8) (s : State) : Prop := (s.line l).Agrees

namespace State.Agrees
variable {l : Fin 8} {s : State}

theorem setLine {y : Line} (hy : y.Agrees) : (s.setLine l y).Agrees l := by
  unfold State.Agrees; rw [State.line_setLine_same]; exact hy

theorem change (h : s.Agrees l) {y : Line} (hy : (s.line l).KeepsBreak y) : (s.setLine l y).Agrees l := setLine (hy.agrees h)

theorem mapLine (h : s.Agrees l) {f : Line → Line} (hf : (s.line l).KeepsBreak (f (s.line l))) : (s.mapLine l f).Agrees l := setLine (hf.agrees h)

theorem raise (h : s.Agrees l) (r : EventRec) : (s.raise l r).Agrees l := h

theorem ite {c : Prop} [Decidable c] {t : State} (ha : s.Agrees l) (hb : t.Agrees l) : (if c then s else t).Agrees l := by split <;> assumption

theorem dropInbound (h : s.Agrees l) (k) : (s.dropInbound l k).Agrees l := (State.KeepsBreak.refl.dropInbound k).agrees h

theorem moveRt (h : s.Agrees l) (rt) : (s.moveRt l rt).Agrees l := (State.KeepsBreak.refl.moveRt rt).agrees h

theorem reachMarks (h : s.Agrees l) : (s.reachMarks l).Agrees l := (State.KeepsBreak.refl.reachMarks).agrees h

theorem reachBarrier (h : s.Agrees l) (p) : (s.reachBarrier l p).Agrees l := (State.KeepsBreak.refl.reachBarrier p).agrees h

theorem endCompletes (h : s.Agrees l) (c) : (s.endCompletes l c).Agrees l := (State.KeepsBreak.refl.endCompletes c).agrees h

theorem pacerCompletes (h : s.Agrees l) (c) : (s.pacerCompletes l c).Agrees l := (State.KeepsBreak.refl.pacerCompletes c).agrees h

/-- A line that enters STALLED is under no drain any more (R49, R86). -/
theorem stall (h : s.Agrees l) : (s.stall l).Agrees l := by
  have hfail : (s.failDrain l).Agrees l ∧ ((s.failDrain l).line l).drainTaken = false := by
    unfold State.failDrain
    split
    · next hd =>
      rw [finishLong_eq]
      have hne : (s.line l).longIs .sendBreak = false := by
        unfold Line.longIs at hd ⊢
        split at hd
        · rw [beq_iff_eq] at hd; rw [hd]; rfl
        · cases hd
      have hb : (s.line l).brk = .none := by
        refine Classical.byContradiction fun hb => ?_; rw [h.brk.mp hb] at hne; cases hne
      refine ⟨setLine ⟨?_, h.tx, h.timer, fun hd => by cases hd⟩, ?_⟩
      · simp [hb, Line.longIs]
      · exact congrArg Line.drainTaken (State.line_setLine_same s l _)
    · next hd =>
      refine ⟨h, ?_⟩
      unfold Line.drainTaken
      unfold Line.longIs at hd
      split
      · next g hg => rw [hg] at hd; simp only [Bool.not_eq_true] at hd; rw [hd]; rfl
      · rfl
  obtain ⟨ha, hd⟩ := hfail
  exact raise (setLine (y := ((s.failDrain l).line l).enterStalled) ⟨ha.brk, ha.tx, ha.timer, fun ht => by
    have : ((s.failDrain l).line l).drainTaken = true := ht
    rw [hd] at this; cases this⟩) _

theorem retryOrStall (h : s.Agrees l) : (s.retryOrStall l).Agrees l := by
  unfold State.retryOrStall
  exact ite (h.mapLine (.after (.beginResend _) (.of_eq rfl rfl rfl rfl rfl))) h.stall

theorem retireOldest (h : s.Agrees l) (b) : (s.retireOldest l b).Agrees l := by
  unfold State.retireOldest
  refine ((((h.mapLine (.of_eq rfl rfl rfl rfl rfl)).moveRt _).reachMarks).mapLine (.ackAfterRetire _ _)).mapLine ?_
  split
  · next hs => exact .leaveStalled _ hs.1
  · exact .refl _

theorem count (h : s.Agrees l) (f) (r : EventRec) : ((s.mapLine l (·.count f)).raise l r).Agrees l :=
  raise (h.mapLine (.of_eq rfl rfl rfl rfl rfl)) r

theorem takeAck (h : s.Agrees l) : (s.takeAck l).Agrees l := by
  unfold State.takeAck
  simp only
  split
  · exact h.count _ _
  · exact ite (h.retireOldest _) (h.count _ _)

theorem takeNak (h : s.Agrees l) : (s.takeNak l).Agrees l := by
  unfold State.takeNak
  simp only
  split
  · exact h.count _ _
  · exact ite h.retryOrStall (h.count _ _)

theorem adopt (h : s.Agrees l) (c) : (s.adopt l c).Agrees l := by
  have h1 : (s.mapLine l (fun ln => { ln with settled := c, candidate := none, debounceTimer := .stopped })).Agrees l :=
    h.mapLine (.of_eq rfl rfl rfl rfl rfl)
  have h2 := h1.mapLine (f := fun ln => Line.ackOnCondition (s.prof l) { ln with cond := ((s.prof l).entry c).cond, unreported := addCount ln.unreported 1 })
    (.after (.ackOnCondition _ _) (.of_eq rfl rfl rfl rfl rfl))
  exact ite h1 (ite (raise (h2.mapLine (.of_eq rfl rfl rfl rfl rfl)) _) h2)

theorem storeIn (h : s.Agrees l) (b) : (s.storeIn l b).Agrees l := by
  unfold State.storeIn
  simp only
  split
  · exact h.change (.after (.sealOrTime _ _ _) (.of_eq rfl rfl rfl rfl rfl))
  · refine ite (s := State.takeCells _ _) ?_ (h.count _ _)
    exact h.change (.after (.sealOrTime _ _ _) (.after (.applyMarks _ _) (.of_eq rfl rfl rfl rfl rfl)))

theorem goodCharacter (h : s.Agrees l) (b) : (s.goodCharacter l b).Agrees l := by
  have h1 : (s.mapLine l (fun ln => { ln.count Counters.addReceived with rx := .idle, armed := true })).Agrees l :=
    h.mapLine (.of_eq rfl rfl rfl rfl rfl)
  unfold State.goodCharacter State.goodUnderCode
  simp only
  split
  · exact h1.storeIn _
  · exact ite (h1.mapLine (.of_eq rfl rfl rfl rfl rfl)) (ite (h1.mapLine (.of_eq rfl rfl rfl rfl rfl))
      ((h1.mapLine (.of_eq rfl rfl rfl rfl rfl)).storeIn _))
  · exact ite h1.takeAck (ite h1.takeNak (h1.storeIn _))

theorem sortCharacter (h : s.Agrees l) (a b c) : (s.sortCharacter l a b c).Agrees l := by
  have hb := raise (h.mapLine (f := fun ln => Line.sealCurrent { ln.count Counters.addBreak with rx := .brk, armed := false })
    (.after (.sealCurrent _) (.of_eq rfl rfl rfl rfl rfl))) (.lineError { KindSet.empty with brk := true } 0 0 0)
  unfold State.sortCharacter State.breakDetected State.framingError State.parityError
  simp only
  exact ite (ite (hb.dropInbound _) hb) (ite (raise (h.mapLine (.of_eq rfl rfl rfl rfl rfl)) _)
    (ite (raise (h.mapLine (.of_eq rfl rfl rfl rfl rfl)) _) (h.goodCharacter _)))

end State.Agrees

end Sys2Proof.Machine
end

section
/-!
PROOF. Long requests, breaks and the transmitter agree (O60): what follows within an event, and every command.
-/
namespace Sys2Proof.Machine

/-! ## Other lines -/

/-- The changes of line l leave every other line as it was. -/
theorem LineMoves.other {l k : Fin 8} {keep : Prop} {s t : State} (h : LineMoves l keep s t) (hk : k ≠ l) : t.line k = s.line k := by
  induction h with
  | refl => rfl
  | tail _ hstep ih =>
    refine Eq.trans ?_ ih
    cases hstep with
    | line y f => exact State.line_setLine_ne _ y hk
    | raise => rfl
    | removeLine => rfl
    | finishLong reply => rw [finishLong_eq]; exact State.line_setLine_ne _ _ hk
    | take y _ _ _ k' slot a b => exact State.line_setLine_ne _ _ hk

/-- Every line agrees between events. -/
def State.Matches (s : State) : Prop := ∀ l, (s.line l).Matched

theorem Line.matched_closedFrom (x : Line) : x.closedFrom.Matched where
  brk := by simp [Line.closedFrom, Line.longIs]
  tx := by simp [Line.closedFrom]
  timer := by simp [Line.closedFrom]
  taken := fun h => by cases h
  flush := rfl
  drain := fun h => by cases h

/-- Without a long request there is no break, and the line agrees between events. -/
theorem Line.matched_of_none {x : Line} (hl : x.long = none) (hb : x.brk = .none) (ht : x.tx ≠ .brk) (hbt : x.breakTimer = .stopped) : x.Matched where
  brk := by simp [hb, Line.longIs, hl]
  tx := by simp [hb, ht]
  timer := by simp [hb, hbt]
  taken := fun h => by simp [Line.drainTaken, hl] at h
  flush := by simp [Line.flushDone, Line.longIs, hl]
  drain := fun h => by simp [Line.underDrain, Line.longIs, hl] at h

theorem longIs_unique {x : Line} {k k' : LongKind} (h : x.longIs k = true) (hne : k ≠ k') : x.longIs k' = false := by
  unfold Line.longIs at h ⊢
  split at h
  · rw [beq_iff_eq] at h; subst h; simpa using hne
  · cases h

/-- A line whose long request is another has no break. -/
theorem Line.Agrees.brk_none {x : Line} (h : x.Agrees) (hl : x.longIs .sendBreak = false) : x.brk = .none := by
  refine Classical.byContradiction fun hb => ?_; rw [h.brk.mp hb] at hl; cases hl

theorem Line.Agrees.calm_of_none {x : Line} (h : x.Agrees) (hb : x.brk = .none) : x.tx ≠ .brk ∧ x.breakTimer = .stopped := by
  refine ⟨fun ht => ?_, ?_⟩
  · have := h.tx.mp ht; rw [hb] at this; cases this
  · refine Classical.byContradiction fun ht => ?_; have := h.timer.mp ht; rw [hb] at this; cases this

/-- The end of a long request that is no break (R40). -/
theorem Line.Agrees.finished {x : Line} (h : x.Agrees) (hl : x.longIs .sendBreak = false) : ({ x with long := none } : Line).Matched := by
  have hb := h.brk_none hl
  obtain ⟨ht, hbt⟩ := h.calm_of_none hb
  exact Line.matched_of_none rfl hb ht hbt

/-! ## What follows within an event (R48, R53) -/

section
variable {l : Fin 8} {s u : State}

/-- A drain whose completion is taken (R48). -/
theorem Line.Agrees.taken_drain {x y : Line} (h : x.Agrees) {g : LongReq} (hx : x.long = some g) (hk : g.kind = .closeDrain) (hs : x.state = .draining)
    {g' : LongReq} (hy : y.long = some g') (hk' : g'.kind = .closeDrain) (hc : g'.completing = true) (hb : y.brk = x.brk) (ht : y.tx = x.tx)
    (hbt : y.breakTimer = x.breakTimer) (hst : y.state = x.state) : y.Matched := by
  have hxb : x.longIs .sendBreak = false := by simp [Line.longIs, hx, hk]
  have hyb : y.longIs .sendBreak = false := by simp [Line.longIs, hy, hk']
  exact {
    brk := by rw [hb, hyb, h.brk_none hxb]; simp
    tx := by rw [ht, hb]; exact h.tx
    timer := by rw [hbt, hb]; exact h.timer
    taken := fun _ => hst.trans hs
    flush := by simp [Line.flushDone, Line.longIs, hy, hk']
    drain := fun hu => by simp [Line.underDrain, Line.drainTaken, hy, hk', hc] at hu }

theorem matched_takeDrain (h : u.Agrees l) (hd : (u.line l).underDrain = true) : ((u.takeDrain l).line l).Matched := by
  simp only [Line.underDrain, Bool.and_eq_true, beq_iff_eq] at hd
  obtain ⟨⟨hs, hl⟩, -⟩ := hd
  have hg : ∃ g, (u.line l).long = some g ∧ g.kind = .closeDrain := by
    unfold Line.longIs at hl
    split at hl
    · next g hg => exact ⟨g, hg, by simpa using hl⟩
    · cases hl
  obtain ⟨g, hg, hk⟩ := hg
  unfold State.takeDrain
  simp only
  rw [State.line_mapLine_same]
  obtain ⟨i, a, b, c, he, -⟩ := u.dropInbound_frame l (fun c => c.inFrame)
  rw [he, State.line_freeCells, State.line_setLine_same]
  exact Line.Agrees.taken_drain (g' := { g with completing := true, inBytes := (u.line l).discardableBytes, outBytes := 0 }) h hg hk hs
    (by show Option.map _ (u.line l).long = _; rw [hg]; rfl) hk rfl rfl rfl rfl rfl

/-- A FLUSH that can complete does, and a drain too (R48, R53). -/
theorem matched_testDrain (h : u.Agrees l) : (((u.testFlush l).testDrain l).line l).Matched := by
  unfold State.testFlush State.completeFlush
  split
  next hf =>
    have hflush : (u.line l).longIs .flush = true := by
      simp only [Line.flushDone, Bool.and_eq_true] at hf; exact hf.1
    have hm : ({ u.line l with long := none } : Line).Matched := Line.Agrees.finished h (longIs_unique hflush (by decide))
    split
    · rw [finishLong_eq]
      unfold State.testDrain
      have hline : ∀ r, (({ u.setLine l { u.line l with long := none } with reqs := r } : State)).line l = { u.line l with long := none } :=
        fun _ => State.line_setLine_same u l _
      rw [hline, if_neg (by simp [Line.underDrain, Line.longIs]), hline]
      exact hm
    · next hn => simp [Line.longIs, hn] at hflush
  next hf =>
    unfold State.testDrain
    split
    next hd =>
      simp only [Bool.and_eq_true] at hd
      exact matched_takeDrain h hd.1
    next hd =>
      exact { toAgrees := h, flush := by simpa using hf, drain := fun hu => by simpa [hu] using hd }

theorem matches_testPartReset (h : s.Matches) : s.testPartReset.Matches := by
  unfold State.testPartReset
  split
  · split
    · intro l
      rw [State.line_completePartReset]
      exact Line.KeepsBreak.matched (x := s.line l) (.of_eq rfl rfl rfl rfl rfl) rfl rfl rfl (h l)
    · exact h
  · exact h

theorem matches_setLine (h : s.Matches) {y : Line} (hy : y.Matched) (hu : ∀ k, u.line k = (s.setLine l y).line k) : u.Matches := by
  intro k
  rw [hu]
  by_cases hk : k = l
  · subst hk; rw [State.line_setLine_same]; exact hy
  · rw [State.line_setLine_ne _ _ hk]; exact h k

theorem matches_testClose (h : s.Matches) : (s.testClose l).testPartReset.Matches := by
  apply matches_testPartReset
  unfold State.testClose State.closeLine
  split
  · split
    · rw [finishLong_eq]
      intro k
      by_cases hk : k = l
      · subst hk
        exact (State.line_setLine_same _ k _) ▸ Line.matched_closedFrom _
      · have e : ∀ r, (State.enterClosed { s.setLine l { s.line l with long := none } with reqs := r } l).line k = s.line k := fun r =>
          (State.line_setLine_ne _ _ hk).trans (State.line_setLine_ne s _ hk)
        rw [e]; exact h k
    · exact matches_setLine h (Line.matched_closedFrom (s.line l)) (fun _ => rfl)
  · exact h

/-- After an event in which a line agrees, what follows makes it so between events. -/
theorem State.Matches.settle (h : s.Matches) (hm : LineMoves l False s u) (ha : u.Agrees l) : (u.settle l).Matches := by
  have h1 : (u.mapLine l (Line.standing (u.prof l))).Agrees l := ha.mapLine (.standing _ _)
  have hm1 : LineMoves l False s ((((u.mapLine l (Line.standing (u.prof l))).testFlush l)).testDrain l) := (hm.standing _).testFlush.testDrain
  refine matches_testClose fun k => ?_
  by_cases hk : k = l
  · subst hk; exact matched_testDrain h1
  · rw [hm1.other hk]; exact h k

/-- A change of a line that leaves what is read of it. -/
theorem State.Matches.setLine (h : s.Matches) {y : Line} (hy : (s.line l).KeepsBreak y) (hs : y.state = (s.line l).state)
    (hc : y.inCharacter = (s.line l).inCharacter) (hd : y.drainDone = (s.line l).drainDone) : (s.setLine l y).Matches :=
  matches_setLine h (hy.matched hs hc hd (h l)) (fun _ => rfl)

end

/-! ## Every command of a line -/

namespace State.Matches
variable {l : Fin 8} {s t : State}

theorem beginBreak {x : Line} (p : Profile) (hp : x.brk = .pending) (h : x.Agrees) : (x.beginBreak p).Agrees where
  brk := by
    have : x.longIs .sendBreak = true := h.brk.mp (by simp [hp])
    exact ⟨fun _ => this, fun _ => by simp [Line.beginBreak]⟩
  tx := by simp [Line.beginBreak]
  timer := by simp [Line.beginBreak]
  taken := h.taken

/-- GAP or IDLE after a character or a break (R63, R90). -/
theorem enterGap {x : Line} (p : Profile) (h : x.Agrees) (ht : x.tx ≠ .brk) : (x.enterGap p).Agrees := by
  have hb : x.brk ≠ .inProgress := fun hb => ht (h.tx.mpr hb)
  unfold Line.enterGap
  split
  · exact ⟨h.brk, by simp [hb], h.timer, h.taken⟩
  · exact ⟨h.brk, by simp [hb], h.timer, h.taken⟩

theorem beginPendingBreak (h : s.Matches) : (s.beginPendingBreak l).Matches := by
  unfold State.beginPendingBreak
  simp only
  split
  next hp =>
    refine h.settle (LineMoves.refl.mapLine (.beginBreak _ _)) (State.Agrees.setLine (beginBreak (s.prof l) hp.1 (h l).toAgrees))
  · exact h

/-- The end of a break answers SEND BREAK (R90). -/
theorem endBreak (h : s.Matches) : (s.endBreak l).Matches := by
  unfold State.endBreak
  simp only
  split
  next hb =>
    let y := Line.enterGap (s.prof l) { s.line l with brk := .none, breakTimer := .stopped }
    have hy : y.long = (s.line l).long ∧ y.brk = .none ∧ y.tx ≠ .brk ∧ y.breakTimer = .stopped ∧ y.state = (s.line l).state := by
      unfold y Line.enterGap
      split <;> simp
    obtain ⟨h1, h2, h3, h4, h5⟩ := hy
    have hm : LineMoves l False s (s.mapLine l (fun x => Line.enterGap (s.prof l) { x with brk := .none, breakTimer := .stopped })) :=
      LineMoves.refl.mapLine (.after (.enterGap _ _) (.of_eq rfl rfl rfl id))
    split
    · refine h.settle (hm.finishLong _) ?_
      rw [finishLong_eq]
      refine State.Agrees.setLine (s := s.mapLine l _) (Line.Matched.toAgrees (Line.matched_of_none rfl ?_ ?_ ?_))
      all_goals rw [State.line_mapLine_same]
      · exact h2
      · exact h3
      · exact h4
    · next hl =>
      have hsb : y.longIs .sendBreak = false := by
        unfold Line.longIs at hl ⊢; rw [h1]; simpa using hl
      refine h.settle hm (State.Agrees.setLine (y := y) ⟨by simp [h2, hsb], by simp [h2, h3], by simp [h2, h4], fun ht => ?_⟩)
      rw [h5]
      exact (h l).taken (by unfold Line.drainTaken at ht ⊢; rw [← h1]; exact ht)
  · exact h

theorem characterCompletion (h : s.Matches) : (s.characterCompletion l).Matches := by
  unfold State.characterCompletion
  split
  next c hc =>
    have h1 : (s.mapLine l (·.count Counters.addSent)).Agrees l := State.Agrees.mapLine (h l).toAgrees (.of_eq rfl rfl rfl rfl rfl)
    have hm1 : LineMoves l False s (s.mapLine l (·.count Counters.addSent)) := LineMoves.refl.mapLine (.count _ _ .sent)
    have h2 := h1.pacerCompletes c
    refine h.settle ((hm1.pacerCompletes c).mapLine (.afterCharacter _ _)) (State.Agrees.setLine ?_)
    have htx : (((s.mapLine l (·.count Counters.addSent)).pacerCompletes l c).line l).tx ≠ .brk := by
      have hk : State.KeepsBreak l s ((s.mapLine l (·.count Counters.addSent)).pacerCompletes l c) :=
        (State.KeepsBreak.refl.mapLine (.of_eq rfl rfl rfl rfl rfl)).pacerCompletes c
      rw [ne_eq, hk.tx, hc]; simp
    unfold Line.afterCharacter
    split
    next hp => exact beginBreak _ hp h2
    · exact enterGap _ h2 htx
  · exact h

/-- A change of the line that keeps its break, with what follows it. -/
theorem mapLine_settle (h : s.Matches) {f : Line → Line} (hf : (s.line l).KeepsBreak (f (s.line l))) (hs : (s.line l).Still (f (s.line l))) :
    ((s.mapLine l f).settle l).Matches :=
  h.settle (LineMoves.refl.mapLine hs) (State.Agrees.mapLine (h l).toAgrees hf)

/-- Nothing is left to complete between events. -/
theorem testFlush_eq (h : s.Matches) : s.testFlush l = s := if_neg (by simp [(h l).flush])

theorem testDrain_eq (h : s.Matches) : s.testDrain l = s := if_neg (fun hd => by
  simp only [Bool.and_eq_true] at hd
  rw [(h l).drain hd.1] at hd
  exact absurd hd.2 (by decide))

theorem transmitterChoice (h : s.Matches) : (s.transmitterChoice l).Matches := by
  unfold State.transmitterChoice
  split
  next ht => exact h.mapLine_settle (.choose _ _ ht) (.choose _ _)
  · exact h

theorem gapExpiry (h : s.Matches) : (s.gapExpiry l).Matches := by
  unfold State.gapExpiry
  simp only
  split
  next hg =>
    refine h.mapLine_settle (f := fun x => { x with tx := .idle, gapTimer := .stopped }) ⟨rfl, rfl, rfl, ?_, id⟩ (.of_eq rfl rfl rfl id)
    rw [hg.1]; simp
  · exact h

theorem ackExpiry (h : s.Matches) : (s.ackExpiry l).Matches := by
  unfold State.ackExpiry
  split
  · exact h.settle (LineMoves.retryOrStall (LineMoves.refl.mapLine (.of_eq rfl rfl rfl id)))
      (State.Agrees.retryOrStall (State.Agrees.mapLine (h l).toAgrees (.of_eq rfl rfl rfl rfl rfl)))
  · exact h

theorem pauseExpiry (h : s.Matches) : (s.pauseExpiry l).Matches := by
  unfold State.pauseExpiry
  simp only
  split
  · exact h.setLine (y := { s.line l with pause := .reported, pauseTimer := .stopped }) (.of_eq rfl rfl rfl rfl rfl) rfl rfl rfl
  · exact h

theorem lingerExpiry (h : s.Matches) : (s.lingerExpiry l).Matches := by
  unfold State.lingerExpiry
  split
  · exact h.mapLine_settle (.of_eq rfl rfl rfl rfl rfl) (.of_eq rfl rfl rfl id)
  · exact h

theorem characterReceived (h : s.Matches) (a b c) : (s.characterReceived l a b c).Matches := by
  have hk : (s.line l).KeepsBreak { s.line l with rxd := if c then .mark else .space } := .of_eq rfl rfl rfl rfl rfl
  unfold State.characterReceived
  simp only
  split
  · exact h.settle (LineMoves.sortCharacter (LineMoves.refl.mapLine (.of_eq rfl rfl rfl id)) a b c)
      (State.Agrees.sortCharacter (State.Agrees.mapLine (h l).toAgrees hk) a b c)
  · exact h.setLine hk rfl rfl rfl

theorem idleExpiry (h : s.Matches) : (s.idleExpiry l).Matches := by
  unfold State.idleExpiry
  split
  · refine h.setLine (y := Line.sealCurrent { s.line l with idleTimer := .stopped }) (.after (.sealCurrent _) (.of_eq rfl rfl rfl rfl rfl)) ?_ ?_ ?_ <;>
      (unfold Line.sealCurrent; split <;> rfl)
  · exact h

theorem statusChange (h : s.Matches) (c) : (s.statusChange l c).Matches := by
  have hk : (s.line l).KeepsBreak { s.line l with st := c } := .of_eq rfl rfl rfl rfl rfl
  have hm : LineMoves l False s (s.mapLine l (fun x => { x with st := c })) := LineMoves.refl.mapLine (.of_eq rfl rfl rfl id)
  have ha : (s.mapLine l (fun x => { x with st := c })).Agrees l := State.Agrees.mapLine (h l).toAgrees hk
  unfold State.statusChange
  simp only
  split
  · split
    · exact h.settle (hm.adopt c) (ha.adopt c)
    · exact h.settle (hm.mapLine (.of_eq rfl rfl rfl id)) (ha.mapLine (.of_eq rfl rfl rfl rfl rfl))
  · exact h.setLine hk rfl rfl rfl

theorem debounceExpiry (h : s.Matches) : (s.debounceExpiry l).Matches := by
  have ha : s.Agrees l := (h l).toAgrees
  unfold State.debounceExpiry
  simp only
  split
  · split
    · exact h.settle (LineMoves.refl.adopt _) (ha.adopt _)
    · exact h
  · exact h

/-- Only the receiver's own record changes. -/
theorem receiver (h : s.Matches) {x : Line} (hx : x = { s.line l with rxd := x.rxd, rx := x.rx, armed := x.armed }) : (s.setLine l x).Matches := by
  refine h.setLine ?_ ?_ ?_ ?_ <;> rw [hx]
  · exact .of_eq rfl rfl rfl rfl rfl
  · rfl
  · rfl

theorem lineEvent (h : s.Matches) {i : Instr} (hl : i.eventLine = some l) (hd : ∀ seq payload, i ≠ .data l seq payload)
    (ht : exec i s = .next t) : t.Matches := by
  cases i with
  | data k seq payload => cases hl; exact absurd rfl (hd seq payload)
  | flushComplete k => cases hl; cases ht; rw [h.testFlush_eq]; exact h
  | breakBegin k => cases hl; cases ht; exact h.beginPendingBreak
  | transmitterChoice k => cases hl; cases ht; exact h.transmitterChoice
  | characterCompletion k => cases hl; cases ht; exact h.characterCompletion
  | gapTimerExpiry k => cases hl; cases ht; exact h.gapExpiry
  | ackTimerExpiry k => cases hl; cases ht; exact h.ackExpiry
  | pauseTimerExpiry k => cases hl; cases ht; exact h.pauseExpiry
  | lingerTimerExpiry k => cases hl; cases ht; exact h.lingerExpiry
  | breakTimerExpiry k => cases hl; cases ht; exact h.endBreak
  | rdyiChange k a => cases hl; cases ht; exact h.mapLine_settle (.of_eq rfl rfl rfl rfl rfl) (.of_eq rfl rfl rfl id)
  | characterReceived k a b c => cases hl; cases ht; exact h.characterReceived a b c
  | receiverBreakEnd k => cases hl; cases ht; exact h.receiver (by unfold Line.breakEnd; split <;> rfl)
  | idleTimerExpiry k => cases hl; cases ht; exact h.idleExpiry
  | statusChange k c => cases hl; cases ht; exact h.statusChange c
  | debounceTimerExpiry k => cases hl; cases ht; exact h.debounceExpiry
  | drainComplete k => cases hl; cases ht; rw [h.testDrain_eq]; exact matches_testClose h
  | abortComplete k =>
    cases hl; cases ht
    split
    · exact matches_testClose h
    · exact h
  | entryToClosed k => cases hl; cases ht; exact matches_testClose h
  | startEdge k => cases hl; cases ht; exact h.receiver (by unfold Line.startEdge; split <;> rfl)
  | falseStart k => cases hl; cases ht; exact h.receiver (by unfold Line.falseStart; split <;> rfl)
  | receiverArmed k => cases hl; cases ht; exact h.receiver (by unfold Line.arm; split <;> rfl)
  | _ => simp [Instr.eventLine] at hl

theorem takeData (h : s.Matches) (l : Fin 8) (payload : List Byte) : (s.takeData l payload).Matches := by
  have refused : ∀ r n, (s.refuseData l r n).Matches := fun r n =>
    h.setLine (y := (s.line l).count Counters.addRefused) (.of_eq rfl rfl rfl rfl rfl) rfl rfl rfl
  unfold State.takeData
  simp only
  split
  · exact refused _ _
  split
  · exact refused _ _
  next hcr =>
  split
  · exact refused _ _
  next hmk =>
  refine h.settle (LineMoves.refl.accept payload (Nat.not_lt.mp hcr) (Nat.not_lt.mp hmk)) ?_
  obtain ⟨q, g, heq, -⟩ := accept_frame (s.prof l) (scan s.patterns l payload) payload.length (s.line l)
  refine State.Agrees.change (y := (s.line l).accept (s.prof l) (scan s.patterns l payload) payload.length) (h l).toAgrees ?_
  rw [heq]; exact .of_eq rfl rfl rfl rfl rfl

/-! ## Requests -/

/-- Every line changed alike in what is not read here. -/
theorem of_lines (h : s.Matches) (hl : ∀ k, ((s.line k).Matched → (t.line k).Matched)) : t.Matches := fun k => hl k (h k)

theorem openNow (h : s.Matches) : (s.openNow l).Matches := by
  let u : State := { s.mapLine l (Line.opened (s.prof l)) with
    pool := { s.pool with unreserved := s.pool.unreserved - ((s.prof l).outQuota + (s.prof l).inQuota) } }
  have hu : u.Matches := matches_setLine h (Line.matched_of_none (x := (s.line l).opened (s.prof l)) rfl rfl (by simp [Line.opened, Line.closedFrom]) rfl)
    (fun _ => rfl)
  show (u.openDecoder l).Matches
  unfold State.openDecoder
  simp only
  have h1 : (u.mapLine l (fun ln => { ln with settled := (u.line l).st, cond := ((u.prof l).entry (u.line l).st).cond })).Matches :=
    hu.setLine (.of_eq rfl rfl rfl rfl rfl) rfl rfl rfl
  split
  · split
    · exact h1.setLine (y := { State.line _ l with lastReported := (State.line _ l).cond, unreported := 0 }) (.of_eq rfl rfl rfl rfl rfl) rfl rfl rfl
    · exact h1
  · exact hu

theorem change (h : s.Matches) (hc : Change s t) : t.Matches := by
  cases hc with
  | refresh n =>
    refine h.of_lines fun k hk => ?_
    have e : ({ s.mapLines (fun ln => { ln with recentGrant := false }) with
      pool := { s.pool with refresh := n, refreshTimer := refreshTimer n } } : State).line k = { s.line k with recentGrant := false } := s.line_mapLines k _
    rw [e]
    exact Line.KeepsBreak.matched (x := s.line k) (.of_eq rfl rfl rfl rfl rfl) rfl rfl rfl hk
  | openLine l => exact h.openNow
  | bind l i => exact h.setLine (y := { s.line l with binding := i }) (.of_eq rfl rfl rfl rfl rfl) rfl rfl rfl
  | counters l => exact h.setLine (y := { s.line l with counters := Counters.zero }) (.of_eq rfl rfl rfl rfl rfl) rfl rfl rfl
  | paused l v => exact h.setLine (y := { s.line l with paused := v }) (.of_eq rfl rfl rfl rfl rfl) rfl rfl rfl
  | aux l v => exact h.setLine (y := { s.line l with auxo := v }) (.of_eq rfl rfl rfl rfl rfl) rfl rfl rfl
  | release l hl =>
    exact h.mapLine_settle (f := Line.release) ⟨rfl, rfl, rfl, Iff.rfl, fun hd => by rw [hl] at hd; cases hd⟩ (.release _)
  | resumeStalled l hl =>
    refine h.mapLine_settle (.after (.beginResend _) ?_) (.resumeStalled _)
    exact ⟨rfl, rfl, rfl, Iff.rfl, fun hd => by rw [hl] at hd; cases hd⟩
  | discard l hl =>
    have ha : s.Agrees l := (h l).toAgrees
    refine h.settle (LineMoves.refl.moveRt _ |>.mapLine (.discardedBlocks _)) ((ha.moveRt _).mapLine ?_)
    have hst : ∀ rt, ((s.moveRt l rt).line l).state = .stalled := fun rt => by
      obtain ⟨b, he, -⟩ := s.moveRt_frame l rt
      rw [he, State.line_freeCells, State.line_setLine_same]; exact hl
    exact .after (.leaveStalled _ (hst _)) (.of_eq rfl rfl rfl rfl rfl)
  | _ => exact h

/-- A line aborted (R50). -/
theorem abortLine (h : s.Matches) (u : State) (hu : LineMoves l False s u)
    (hou : (u.line l).state ≠ .closed) (slot) : ((u.abortLine l slot).settle l).Matches := by
  refine h.settle (hu.abortLine hou False.elim slot) ?_
  refine State.Agrees.setLine (y := Line.aborted slot _ _ _) ?_
  refine ⟨?_, ?_, ?_, fun hd => rfl⟩
  · simp [Line.aborted, Line.setLong, Line.longIs]
  · simp only [Line.aborted, Line.setLong]
    split
    · simp
    · next hne => simp [Line.KeepsBreak.abandon_eq_brk, hne]
  · simp [Line.aborted, Line.setLong]

theorem resetLine (h : s.Matches) (l : Fin 8) : (s.resetLine l).Matches := by
  unfold State.resetLine
  simp only
  split
  · exact h
  next ho =>
  split
  · exact h
  split
  · refine h.setLine (y := { s.line l with long := (s.line l).long.map (fun g => { g with slot := none }) }) ⟨?_, rfl, rfl, Iff.rfl, id⟩ rfl rfl rfl
    simp only [Line.request]
    cases (s.line l).long <;> rfl
  · exact h.abortLine s .refl ho none

theorem resetLines : ∀ (ls : List (Fin 8)) {s : State}, s.Matches → (ls.foldl State.resetLine s).Matches
  | [], _, h => h
  | l :: ls, _, h => resetLines ls (h.resetLine l)

theorem completes (reply : Reply) : ∀ (ns : List (Fin 4)) {s : State}, s.Matches → (ns.foldl (fun (t : State) k => t.complete k reply) s).Matches
  | [], _, h => h
  | _ :: ns, s, h => completes reply ns (s := s.complete _ reply) h

theorem beginPartReset (h : s.Matches) (n : Fin 4) (clear : Bool) : (s.beginPartReset n clear).Matches := by
  unfold State.beginPartReset
  simp only
  apply matches_testPartReset
  apply resetLines
  exact completes _ _ h

/-- The discards of FLUSH (R54, R55). -/
theorem keepsBreak_flushDiscard (hd : (s.line l).state ≠ .draining) (out inn) : State.KeepsBreak l s (s.flushDiscard l out inn) := by
  have hg : State.KeepsBreak l s (s.giveUpOutbound l) ∧ ((s.giveUpOutbound l).line l).state = (s.line l).state := by
    obtain ⟨b, he, -⟩ := s.giveUpOutbound_frame l
    rw [he]
    exact ⟨State.KeepsBreak.refl.setLine (.of_eq rfl rfl rfl rfl rfl), (congrArg Line.state (State.line_setLine_same s l _)).trans rfl⟩
  have h1 : State.KeepsBreak l s (if out then (s.giveUpOutbound l).mapLine l Line.flushedOut else s) := by
    refine .ite (hg.1.mapLine ⟨rfl, rfl, rfl, Line.KeepsBreak.abandon_eq_brk _, fun h => ?_⟩) .refl
    rw [hg.2] at h
    exact absurd h hd
  exact .ite (h1.dropInbound _) h1

theorem taken (h : s.Matches) {n : Fin 4} (ht : Taken n s t) : t.Matches := by
  have free : ∀ {l}, (s.line l).long = none → (s.line l).brk = .none ∧ (s.line l).tx ≠ .brk ∧ (s.line l).breakTimer = .stopped := fun {l} hn => by
    have hb := (h l).toAgrees.brk_none (by simp [Line.longIs, hn])
    exact ⟨hb, (h l).toAgrees.calm_of_none hb⟩
  cases ht with
  | @answered u hc reply =>
    have hu : u.Matches := h.change hc
    exact hu
  | drain l ho hs hn =>
    obtain ⟨hb, htx, hbt⟩ := free hn
    refine h.settle (LineMoves.refl.setLong (y := { s.line l with state := .draining, markers := (s.line l).markers.filter (fun m => m.kind != .hold) })
      ⟨rfl, id, fun hm => Nat.le_trans (List.length_filter_le _ _) hm, fun _ => by simp⟩ ho False.elim .closeDrain (some n) 0 0) (State.Agrees.setLine ?_)
    exact ⟨by simp [Line.setLong, Line.longIs, hb], by simp [Line.setLong, hb, htx], by simp [Line.setLong, hb, hbt], fun _ => rfl⟩
  | abort l ho ha => exact h.abortLine _ (LineMoves.refl.finishLong _) (((LineMoves.refl (keep := False)).finishLong _).isOpen ho) (some n)
  | flush l ho hd hn out inn =>
    obtain ⟨hb, htx, hbt⟩ := free hn
    have hm : LineMoves l False s (s.flushDiscard l out inn) := LineMoves.refl.flushDiscard out inn
    have hk : State.KeepsBreak l s (s.flushDiscard l out inn) := keepsBreak_flushDiscard hd out inn
    refine h.settle (hm.setLong (.refl _) (hm.isOpen ho) False.elim .flush (some n) _ _) (State.Agrees.setLine ?_)
    exact ⟨by simp [Line.setLong, Line.longIs, hk.brk, hb], by simp [Line.setLong, hk.tx, hk.brk, hb, htx],
      by simp [Line.setLong, hk.timer, hk.brk, hb, hbt], fun hd => by simp [Line.drainTaken, Line.setLong] at hd⟩
  | sendBreak l ho hn =>
    obtain ⟨hb, htx, hbt⟩ := free hn
    refine beginPendingBreak (matches_setLine (y := Line.setLong .sendBreak (some n) 0 0 { s.line l with brk := .pending }) h ?_ (fun _ => rfl))
    exact {
      brk := by simp [Line.setLong, Line.longIs]
      tx := by simp [Line.setLong, htx]
      timer := by simp [Line.setLong, hbt]
      taken := fun hd => by simp [Line.drainTaken, Line.setLong] at hd
      flush := rfl
      drain := fun hu => by simp [Line.underDrain, Line.longIs, Line.setLong] at hu }
  | partReset clear => exact h.beginPartReset n clear

/-! ## Every step -/

/-- Cells marked in frame or granted credit change nothing that is read here (R19, R22). -/
theorem built (h : s.Matches) (hb : Built s t) : t.Matches := by
  cases hb with
  | grant =>
    refine h.of_lines fun k hk => ?_
    rw [State.line_mapLines]
    unfold Line.granted
    split
    · exact Line.KeepsBreak.matched (x := s.line k) (.of_eq rfl rfl rfl rfl rfl) rfl rfl rfl hk
    · exact hk
  | data l => exact h.setLine (.of_eq rfl rfl rfl rfl rfl) rfl rfl rfl
  | _ => exact h

theorem frameEnd (h : s.Matches) : s.frameEnd.Matches := by
  have ha : ∀ l, State.Agrees l (s.mapTrunk (fun t => { t with tx := none })) := fun l => (h l).toAgrees
  unfold State.frameEnd
  split
  · exact h
  simp only
  split
  · exact h
  · exact settle (s := s.mapTrunk (fun t => { t with tx := none })) h (LineMoves.refl.dropInbound _) ((ha _).dropInbound _)
  · exact h
  · exact h

end State.Matches

theorem State.matches_kept : Kept State.Matches where
  powerOn s a b _ l := by
    rw [s.line_powerOn]
    exact Line.matched_of_none rfl rfl (by simp [Line.powerOn]) rfl
  noted s t hn hs := by cases hn <;> exact hs
  linkRestart s c hs := hs.of_lines fun k hk => by
    rw [s.line_linkRestart]
    refine Line.KeepsBreak.matched (x := s.line k) ⟨?_, rfl, rfl, Iff.rfl, id⟩ rfl rfl rfl hk
    simp only [Line.request, Line.unanswered]
    cases (s.line k).long <;> rfl
  beginSession s seq tag hs := hs.of_lines fun k hk => by
    have e : (s.beginSession seq tag).line k = { s.line k with grantDue := (s.line k).grantDue || (s.line k).state != .closed } := s.line_mapLines k _
    rw [e]
    exact Line.KeepsBreak.matched (x := s.line k) (.of_eq rfl rfl rfl rfl rfl) rfl rfl rfl hk
  takeData s l payload hs := hs.takeData l payload
  dropRequest _ hs := hs
  listRefusal _ _ _ hs := hs
  admitted s c tag ops n hc hops _ _ _ hs := by
    have h : (s.holdSlot n c tag ops).Matches := hs
    exact h.taken (toOwner_taken _ n c ops hc hops)
  testPartReset _ hs := matches_testPartReset hs
  arbiterChoice s hs := by
    obtain ⟨u, k, hu, -, -, he⟩ := builds_arbiterChoice s
    have h : u.Matches := hs.built hu
    rw [he]; exact h
  frameEnd _ hs := hs.frameEnd
  refreshExpiry s hs := by
    unfold State.refreshExpiry
    split
    · exact hs
    · refine hs.of_lines fun k hk => ?_
      change ((s.mapLines _).line k).Matched
      rw [State.line_mapLines]
      exact Line.KeepsBreak.matched (x := s.line k) (.of_eq rfl rfl rfl rfl rfl) rfl rfl rfl hk
  announceExpiry s hs := by unfold State.announceExpiry; split <;> exact hs
  repeatExpiry _ _ hs := hs
  lineEvent i l s t hl hd hs ht := hs.lineEvent hl hd ht

/-- Settles O60: within an event the break agrees with SEND BREAK, and what follows completes what can complete. -/
theorem longRequestsStayMatched : Obligations.LongRequestsStayMatched := by
  intro s t hs ht
  rw [State.longRequestsMatch_iff] at *
  exact State.matches_kept.step (fun _ _ h => h) hs ht

end Sys2Proof.Machine
end

section
/-!
PROOF. The queue of commands (O1, O2), the power-on values (O4, O53), and what a line event leaves of the other lines (O3).
-/
namespace Sys2Proof.Machine

/-- Settles O1: the two arms of `step`. -/
theorem stepRunsFrontCommand : Obligations.StepRunsFrontCommand := by
  refine ⟨fun c rest s h => ?_, fun s h => ?_⟩
  · rw [step, h]
  · rw [step, h]

/-! ## Every command completes (O2) -/

/-- Every command has a next state: no arm of the dispatch faults or is refused (log 2). -/
theorem exists_exec (c : Instr) (s : State) : ∃ t, exec c s = .next t := by
  cases c <;> exact ⟨_, rfl⟩

theorem State.pending_completePartReset (s : State) (p : PartReset) : (s.completePartReset p).pending = s.pending := by
  obtain ⟨-, -, -, -, hq, -⟩ := completePartReset_resetCompleted s p
  exact hq

/-- No change that a command makes touches the queue (logs 3, 9). -/
theorem pending_kept (q : List Instr) : KeptWide (fun s => s.pending = q) where
  noted s t hn hs := by cases hn <;> exact hs
  completePartReset s p hs := (s.pending_completePartReset p).trans hs
  announceExpiry s hs := by unfold State.announceExpiry; split <;> exact hs
  move l s t hm hs := by
    cases hm with
    | finishLong reply => rw [finishLong_eq]; exact hs
    | _ => exact hs
  eventChange _ _ _ hs := hs
  repeatExpiry _ _ hs := hs

/-- Settles O2: each arm of the dispatch is a next state, and every change of which it is made keeps the queue. -/
theorem commandsCompleteAndKeepQueue : Obligations.CommandsCompleteAndKeepQueue := fun c s =>
  have ⟨t, ht⟩ := exists_exec c s
  ⟨t, ht, (pending_kept s.pending).kept.exec rfl ht⟩

/-! ## Power-on values (O4, O53) -/

theorem EventUnit.place_powerOn (c : Fin 8) (src : Fin 9) : EventUnit.powerOn.place c src = none := by
  simp [EventUnit.place, EventUnit.powerOn]

theorem State.powerOn_reset : State.reset.powerOn false false = State.reset := by
  simp [State.powerOn, State.reset, Line.powerOn, Trunk.powerOn]

/-- Settles O4: every record of the state a power-on reset gives, read off its definition. -/
theorem powerOnResetValues : Obligations.PowerOnResetValues := by
  refine ⟨fun trs1 trs0 s => ⟨s.powerOn trs1 trs0, rfl, rfl, fun i => ?_, fun i => ?_, fun l => s.line_powerOn trs1 trs0 l,
      EventUnit.place_powerOn, cls_powerOn, rfl, rfl, rfl, rfl, rfl, rfl⟩,
    congrArg _ State.powerOn_reset, rfl, rfl, fun _ _ _ => rfl, fun _ => rfl⟩
  · simp [State.powerOn, State.reset]
  · simp [State.powerOn, State.reset]

theorem State.line_reset (l : Fin 8) : State.reset.line l = Line.powerOn .mark false 0 := by
  simp [State.line, State.reset]

theorem State.cls_events_reset (c : Fin 8) : State.reset.events.cls c = ⟨false, 0#8, none, .stopped, false⟩ := cls_powerOn c

theorem State.place_events_reset (c : Fin 8) (src : Fin 9) : State.reset.events.place c src = none := EventUnit.place_powerOn c src

/-- At the power-on values the pool holds every cell and no line any (R4, R6). -/
theorem State.poolAccounts_reset : State.reset.poolAccounts := by
  refine ⟨by decide, by decide, fun l => ?_, fun l _ => ?_⟩ <;> rw [State.line_reset]
  · exact ⟨Nat.le_refl _, Nat.le_refl _, by decide, by simp [Line.powerOn]⟩
  · rfl

theorem State.countersSaturate_reset : State.reset.countersSaturate :=
  ⟨fun l => by rw [State.line_reset]; decide, by decide, by decide⟩

theorem State.tablesValid_reset : State.reset.tablesValid :=
  ⟨fun i => by simpa [State.reset] using profileFail_default, fun i => Or.inl (by simp [State.reset])⟩

theorem State.longRequestsMatch_reset : State.reset.longRequestsMatch := fun l => by
  rw [State.line_reset]; decide

/-- A line with no block, no marker and nothing stored has its positions in order in either kind of mode (R8). -/
theorem State.streamsInOrder_reset : State.reset.streamsInOrder := fun l => by
  rw [State.line_reset]
  refine ⟨Nat.le_refl _, rfl, ⟨rfl, by simp [Line.powerOn], Nat.le_refl _, Nat.zero_le _⟩, ⟨.nil, by simp [Line.powerOn]⟩, fun _ => ?_, fun _ => ?_⟩
  · exact ⟨rfl, rfl, by decide, rfl, fun _ => rfl, by simp [Line.powerOn]⟩
  · exact ⟨by simp [Line.powerOn], fun _ => rfl, fun _ => Nat.le_refl _, by simp [Line.powerOn], by simp [Line.powerOn]⟩

/-- Settles O53: each invariant read at the power-on values. -/
theorem invariantsHoldAtReset : Obligations.InvariantsHoldAtReset := by
  refine ⟨⟨⟨7, by decide⟩, fun _ => rfl⟩, State.poolAccounts_reset.2.2.2, State.poolAccounts_reset, ?_, ?_, State.countersSaturate_reset,
    State.tablesValid_reset, fun h => ?_, State.longRequestsMatch_reset, fun l => ?_, ?_, fun c => ?_, State.streamsInOrder_reset⟩
  · exact ⟨Nat.zero_le _, .nil, .nil, Nat.zero_le _⟩
  · exact ⟨by simp [State.reset, RequestUnit.powerOn], .nil, fun l _ => by rw [State.line_reset]; rfl⟩
  · cases h
  · rw [State.line_reset]; exact Nat.zero_le _
  · constructor
    · intro c src r h; rw [State.place_events_reset] at h; cases h
    · intro c rep h; rw [State.cls_events_reset] at h; cases h
  · rw [State.cls_events_reset]; simp

/-! ## Other lines (O3) -/

/-- What an event that is no frame does to its line and part-wide (log 1). -/
theorem LineThenReset.of_exec {i : Instr} {l : Fin 8} {s t : State} (hl : i.eventLine = some l)
    (hd : ∀ seq payload, i ≠ .data l seq payload) (ht : exec i s = .next t) : LineThenReset l s t := by
  have h : OnlyLine l s s := .refl
  have only : ∀ {u : State}, OnlyLine l s u → LineThenReset l s u := fun hu => ⟨_, hu, Or.inl rfl⟩
  have closes : ∀ {u : State}, OnlyLine l s u → LineThenReset l s (u.testClose l).testPartReset := fun hu => ⟨_, hu.testClose, Or.inr rfl⟩
  have ite : ∀ {c : Prop} [Decidable c] {a b : State}, LineThenReset l s a → LineThenReset l s b → LineThenReset l s (if c then a else b) :=
    fun {c _ a b} ha hb => by split <;> assumption
  cases i with
  | data k seq payload => cases hl; exact absurd rfl (hd seq payload)
  | flushComplete k => cases hl; cases ht; exact only h.testFlush
  | breakBegin k => cases hl; cases ht; exact ite (h.mapLine _).settle (only h)
  | transmitterChoice k =>
    cases hl; cases ht
    show LineThenReset l s (s.transmitterChoice l)
    unfold State.transmitterChoice
    split
    · exact (h.mapLine _).settle
    · exact only h
  | characterCompletion k =>
    cases hl; cases ht
    show LineThenReset l s (s.characterCompletion l)
    unfold State.characterCompletion
    split
    · exact (((h.mapLine _).pacerCompletes _).mapLine _).settle
    · exact only h
  | gapTimerExpiry k => cases hl; cases ht; exact ite (h.mapLine _).settle (only h)
  | ackTimerExpiry k => cases hl; cases ht; exact ite (h.mapLine _).retryOrStall.settle (only h)
  | pauseTimerExpiry k => cases hl; cases ht; exact ite (only ((h.mapLine _).raise _ _)) (only h)
  | lingerTimerExpiry k => cases hl; cases ht; exact ite (h.mapLine _).settle (only h)
  | breakTimerExpiry k =>
    cases hl; cases ht
    exact ite (OnlyLine.ite ((h.mapLine _).finishLong _) (h.mapLine _)).settle (only h)
  | rdyiChange k a => cases hl; cases ht; exact (h.mapLine _).settle
  | characterReceived k a b c => cases hl; cases ht; exact ite ((h.mapLine _).sortCharacter _ _ _).settle (only (h.mapLine _))
  | receiverBreakEnd k => cases hl; cases ht; exact only (h.mapLine _)
  | idleTimerExpiry k => cases hl; cases ht; exact ite (only (h.mapLine _)) (only h)
  | statusChange k c =>
    cases hl; cases ht
    exact ite (OnlyLine.ite ((h.mapLine _).adopt _) ((h.mapLine _).mapLine _)).settle (only (h.mapLine _))
  | debounceTimerExpiry k =>
    cases hl; cases ht
    show LineThenReset l s (s.debounceExpiry l)
    unfold State.debounceExpiry
    simp only
    split
    · exact ite (h.adopt _).settle (only h)
    · exact only h
  | drainComplete k => cases hl; cases ht; exact closes h.testDrain
  | abortComplete k => cases hl; cases ht; exact ite (closes h) (only h)
  | entryToClosed k => cases hl; cases ht; exact closes h
  | startEdge k => cases hl; cases ht; exact only (h.mapLine _)
  | falseStart k => cases hl; cases ht; exact only (h.mapLine _)
  | receiverArmed k => cases hl; cases ht; exact only (h.mapLine _)
  | _ => simp [Instr.eventLine] at hl

/-- Lines, tables and PART RESET as they were: what a frame leaves of a state before it is handed on. -/
structure State.SameTables (s u : State) : Prop where
  lines : u.lines = s.lines
  profiles : u.profiles = s.profiles
  patterns : u.patterns = s.patterns
  partReset : u.reqs.partReset = s.reqs.partReset

/-- A DATA frame received whole is handed to its line, or discarded as a duplicate (R169 to R171). -/
theorem rxFrame_data_cases (s : State) (l : Fin 8) (seq : Byte) (payload : List Byte) (hrx : s.trunk.rx = .hunt) (hl : payload.length ≤ 64) :
    ∃ u, s.SameTables u ∧ (s.rxFrame 1#4 (BitVec.ofNat 4 l.val) seq payload = u
      ∨ s.rxFrame 1#4 (BitVec.ofNat 4 l.val) seq payload = u.takeData l payload) := by
  have hkind : ∀ u : State, u.dispatch ⟨kindChannelByte 1#4 (BitVec.ofNat 4 l.val), seq, byteOf payload.length⟩ payload = u.takeData l payload := fun u => by
    have hv : (BitVec.ofNat 4 l.val).toNat = l.val := by simp; omega
    simp only [State.dispatch, kind_kindChannelByte, channel_kindChannelByte, hv]
    rw [if_pos ⟨trivial, l.isLt⟩]
    congr 1
    exact Fin.ext (Nat.mod_eq_of_lt l.isLt)
  rw [s.rxFrame_good hrx _ _ seq payload hl]
  unfold State.goodFrame
  rw [if_neg (by simp [startsSession])]
  simp only [hkind]
  split
  · split
    · exact ⟨s.received.accepted seq, ⟨rfl, rfl, rfl, rfl⟩, Or.inr rfl⟩
    · split
      · exact ⟨s.received.duplicate, ⟨rfl, rfl, rfl, rfl⟩, Or.inl rfl⟩
      · exact ⟨s.received.sequenceGap.accepted seq, ⟨rfl, rfl, rfl, rfl⟩, Or.inr rfl⟩
  · exact ⟨s.received, ⟨rfl, rfl, rfl, rfl⟩, Or.inr rfl⟩

/-- What remains part-wide of an event on a line: nothing, or the completion of PART RESET (R164). -/
theorem testPartReset_or (v : State) : v.testPartReset = v
    ∨ ∃ p, v.reqs.partReset = some p ∧ (∀ k, (v.line k).state = .closed) ∧ v.resetCompleted p v.testPartReset := by
  obtain ⟨hnone, hsome⟩ := testPartReset_thenCompletesReset v
  cases hp : v.reqs.partReset with
  | none => exact Or.inl (hnone (Or.inl hp))
  | some p =>
    by_cases hc : ∀ k, (v.line k).state = .closed
    · exact Or.inr ⟨p, rfl, hc, hsome p hp hc⟩
    · exact Or.inl (hnone (Or.inr (Classical.not_forall.mp hc)))

theorem LineThenReset.cases {l : Fin 8} {s t : State} (h : LineThenReset l s t) :
    ∃ v, OnlyLine l s v ∧ (t = v ∨ ∃ p, v.reqs.partReset = some p ∧ (∀ k, (v.line k).state = .closed) ∧ v.resetCompleted p t) := by
  obtain ⟨v, hv, rfl | rfl⟩ := h
  · exact ⟨_, hv, Or.inl rfl⟩
  · exact ⟨v, hv, testPartReset_or v⟩

/-- Settles O3: a line event changes its line alone, and a DATA frame does so once it is handed on. -/
theorem lineEventsTouchOneLine : Obligations.LineEventsTouchOneLine := by
  intro c l s hl hdata
  by_cases hd : ∃ seq payload, c = .data l seq payload
  · obtain ⟨seq, payload, rfl⟩ := hd
    obtain ⟨hrx, hlen⟩ := hdata seq payload rfl
    obtain ⟨u, hu, he | he⟩ := rxFrame_data_cases s l seq payload hrx hlen
    · exact ⟨u, u, congrArg Host.Outcome.next he, fun k _ => by rw [State.line, hu.lines]; rfl, hu.profiles, hu.patterns, hu.partReset,
        fun h => absurd rfl (h seq payload), Or.inl rfl⟩
    · obtain ⟨v, hv, ht⟩ := (OnlyLine.refl (l := l) (s := u)).takeData payload |>.cases
      exact ⟨v, _, congrArg Host.Outcome.next he, fun k hk => by rw [hv.lines k hk, State.line, hu.lines]; rfl, hv.profiles.trans hu.profiles,
        hv.patterns.trans hu.patterns, hv.partReset.trans hu.partReset, fun h => absurd rfl (h seq payload), ht⟩
  · obtain ⟨t, ht⟩ := exists_exec c s
    obtain ⟨v, hv, h⟩ := (LineThenReset.of_exec hl (fun seq payload e => hd ⟨seq, payload, e⟩) ht).cases
    exact ⟨v, t, ht, hv.lines, hv.profiles, hv.patterns, hv.partReset, fun _ => hv.trunk, h⟩

end Sys2Proof.Machine
end

section
/-!
PROOF. The frame receiver (O5, O6): bytes hunted, headers and frames that fail, and whole frames received.
-/
namespace Sys2Proof.Machine

/-! ## Bytes taken again in HUNT (R169) -/

/-- TRX at mark and a number of hunt bytes counted. -/
def State.hunted (s : State) (n : Nat) : State := { s with trunk := { s.trunk with
  trx := .mark, counters := { s.trunk.counters with hunt := min 65535 (s.trunk.counters.hunt + n) } } }

theorem State.huntByte_hunted (s : State) (n : Nat) : (s.hunted n).huntByte = s.hunted (n + 1) := by
  have h : bump (min 65535 (s.trunk.counters.hunt + n)) = min 65535 (s.trunk.counters.hunt + (n + 1)) := by
    simp only [bump, satAdd, Config.counterTop]; omega
  show State.mapTrunk _ _ = _
  simp only [State.mapTrunk, State.hunted, TrunkCounters.addHunt, h]

/-- In HUNT every byte but the start code is a hunt byte (R169). -/
theorem foldl_retake_hunted {s : State} (hrx : s.trunk.rx = .hunt) : ∀ (bs : List Byte) (n : Nat), 0xC3#8 ∉ bs →
    bs.foldl State.retake (s.hunted n) = s.hunted (n + bs.length)
  | [], n, _ => rfl
  | b :: bs, n, hb => by
    obtain ⟨hne, hbs⟩ : ¬ 0xC3#8 = b ∧ 0xC3#8 ∉ bs := by simpa using hb
    have hstep : (s.hunted n).retake b = s.hunted (n + 1) := by
      rw [State.retake, show (s.hunted n).trunk.rx = .hunt from hrx]
      exact (if_neg (Ne.symm hne)).trans (s.huntByte_hunted n)
    rw [List.foldl_cons, hstep, foldl_retake_hunted hrx bs (n + 1) hbs, List.length_cons, Nat.add_assoc, Nat.add_comm 1]

/-- After a start code every byte is one of the next header's (R169). -/
theorem foldl_retake_header (s : State) : ∀ (bs kept : List Byte),
    bs.foldl State.retake (s.setRx (.header kept)) = s.setRx (.header (kept ++ bs))
  | [], kept => by rw [List.append_nil]; rfl
  | b :: bs, kept => by
    rw [List.foldl_cons, show (s.setRx (.header kept)).retake b = s.setRx (.header (kept ++ [b])) from rfl,
      foldl_retake_header s bs, List.append_assoc]; rfl

/-- A start code among the bytes taken again begins a header (R169). -/
theorem foldl_retake_start {s : State} (hrx : s.trunk.rx = .hunt) (pre post : List Byte) (hpre : 0xC3#8 ∉ pre) :
    (pre ++ 0xC3#8 :: post).foldl State.retake (s.hunted 0) = (s.hunted pre.length).setRx (.header post) := by
  have hstart : (s.hunted pre.length).retake 0xC3#8 = (s.hunted pre.length).setRx (.header []) := by
    rw [State.retake, show (s.hunted pre.length).trunk.rx = .hunt from hrx]; exact if_pos rfl
  rw [List.foldl_append, List.foldl_cons, foldl_retake_hunted hrx pre 0 hpre, Nat.zero_add, hstart, foldl_retake_header,
    List.nil_append]

/-! ## Headers and frames that fail (R169) -/

/-- A header that fails is counted and raised, and its bytes are taken again (R169). -/
theorem rxBytes_headerError (s : State) (hrx : s.trunk.rx = .hunt) (k q n c : Byte) (h : c ≠ headerCheck k q n ∨ 64 < n.toNat) :
    s.rxBytes [0xC3#8, k, q, n, c] = [k, q, n, c].foldl State.retake (s.setRx .hunt).headerError := by
  have hfail : ¬ (c = headerCheck k q n ∧ n.toNat ≤ Config.maxPayload) := fun ⟨hc, hn⟩ =>
    h.elim (fun hne => hne hc) (fun hgt => absurd hn (Nat.not_le.mpr hgt))
  rw [show [0xC3#8, k, q, n, c] = [Config.startCode, k, q, n] ++ [c] from rfl, State.rxBytes_append, s.rxByte_header3 hrx]
  show State.judgeHeader (s.setRx _) k q n c = _
  rw [State.judgeHeader, if_neg hfail]; rfl

/-- How many bytes at least a frame whose header has passed still waits for (R169). -/
def TrunkRx.left : TrunkRx → Nat
  | .payload h kept => h.length.toNat - kept.length + 2
  | .check _ _ kept => 2 - kept.length
  | _ => 0

theorem TrunkRx.ne_of_left {r : TrunkRx} (h : 1 ≤ r.left) : r ≠ .hunt ∧ r ≠ .abandoned ∧ r ≠ .afterBreak := by
  refine ⟨?_, ?_, ?_⟩ <;> rintro rfl <;> exact absurd h (by decide)

/-- A byte that is not the last is collected (R169). -/
theorem rxByte_collects (s : State) (b : Byte) (h : 2 ≤ s.trunk.rx.left) :
    ∃ r, s.rxByte b = s.setRx r ∧ s.trunk.rx.left ≤ r.left + 1 := by
  unfold State.rxByte
  cases hr : s.trunk.rx with
  | payload hd kept =>
    simp only
    split
    · exact ⟨_, rfl, by simp [TrunkRx.left]; omega⟩
    · exact ⟨_, rfl, by simp [TrunkRx.left]; omega⟩
  | check hd payload kept =>
    cases kept with
    | nil => exact ⟨_, rfl, by simp [TrunkRx.left]⟩
    | cons x kept => simp [hr, TrunkRx.left] at h; omega
  | _ => rw [hr] at h; exact absurd h (by simp [TrunkRx.left])

theorem rxBytes_collects : ∀ (bs : List Byte) (s : State) (r : TrunkRx), bs.length < r.left →
    ∃ r', (s.setRx r).rxBytes bs = s.setRx r' ∧ 1 ≤ r'.left
  | [], _, r, h => ⟨r, rfl, h⟩
  | b :: bs, s, r, h => by
    rw [List.length_cons] at h
    obtain ⟨r1, h1, hle⟩ := rxByte_collects (s.setRx r) b (by rw [State.rx_setRx]; omega)
    rw [State.rx_setRx] at hle
    rw [State.rxBytes_cons, h1, State.setRx_setRx]
    exact rxBytes_collects bs s r1 (by omega)

/-- Before its last byte a frame whose start code has come is being collected (R169). -/
theorem rxBytes_beginsFrame (s : State) (hrx : s.trunk.rx = .hunt) (bytes : List Byte) (h : beginsFrame bytes = true) :
    ∃ r, s.rxBytes bytes = s.setRx r ∧ r ≠ .hunt ∧ r ≠ .abandoned ∧ r ≠ .afterBreak := by
  have start : s.rxByte 0xC3#8 = s.setRx (.header []) := by rw [State.rxByte, hrx]; exact if_pos rfl
  have header : ∀ kept, kept.length ≤ 3 → s.rxBytes (0xC3#8 :: kept) = s.setRx (.header kept) := by
    intro kept hk
    rw [State.rxBytes_cons, start]
    match kept, hk with
    | [], _ => rfl
    | [_], _ => rfl
    | [_, _], _ => rfl
    | [_, _, _], _ => rfl
  match bytes, h with
  | b :: k :: q :: n :: c :: rest, h =>
    simp only [beginsFrame, headerPasses, Bool.and_eq_true, beq_iff_eq, decide_eq_true_eq] at h
    obtain ⟨⟨rfl, rfl, hn⟩, hlen⟩ := h
    obtain ⟨r, hr, hleft⟩ : ∃ r, s.rxBytes [Config.startCode, k, q, n, headerCheck k q n] = s.setRx r ∧ n.toNat + 2 ≤ r.left := by
      rw [show [Config.startCode, k, q, n, headerCheck k q n] = [Config.startCode, k, q, n] ++ [headerCheck k q n] from rfl,
        State.rxBytes_append, s.rxByte_header3 hrx]
      show ∃ r, State.judgeHeader (s.setRx _) k q n _ = _ ∧ _
      rw [State.judgeHeader, if_pos ⟨rfl, hn⟩]
      split
      · exact ⟨_, rfl, by simp [TrunkRx.left, *]⟩
      · exact ⟨_, rfl, by simp [TrunkRx.left]⟩
    obtain ⟨r', hr', h1⟩ := rxBytes_collects rest s r (by omega)
    refine ⟨r', ?_, TrunkRx.ne_of_left h1⟩
    rw [show Config.startCode :: k :: q :: n :: headerCheck k q n :: rest = [Config.startCode, k, q, n, headerCheck k q n] ++ rest from rfl,
      State.rxBytes_append, hr, hr']
  | [b], h => obtain rfl : b = 0xC3#8 := by simpa [beginsFrame, Config.startCode] using h
              exact ⟨_, header [] (by decide), by simp⟩
  | [b, k], h => obtain rfl : b = 0xC3#8 := by simpa [beginsFrame, Config.startCode] using h
                 exact ⟨_, header [k] (by simp), by simp⟩
  | [b, k, q], h => obtain rfl : b = 0xC3#8 := by simpa [beginsFrame, Config.startCode] using h
                    exact ⟨_, header [k, q] (by simp), by simp⟩
  | [b, k, q, n], h => obtain rfl : b = 0xC3#8 := by simpa [beginsFrame, Config.startCode] using h
                       exact ⟨_, header [k, q, n] (by simp), by simp⟩

/-- A frame abandoned at a space-stop character is a CRC error once TRX is back at mark (R169). -/
theorem rxBad_abandoned (s : State) (hrx : s.trunk.rx = .hunt) (bytes : List Byte) (h : beginsFrame bytes = true) :
    s.rxBad (.abandoned bytes) = (s.setRx .hunt).crcError := by
  obtain ⟨r, hr, hhunt, hab, hbr⟩ := rxBytes_beginsFrame s hrx bytes h
  show State.trunkMark (State.rxSpaceStop (s.rxBytes bytes)) = _
  rw [hr]
  cases r with
  | hunt => exact absurd rfl hhunt
  | abandoned => exact absurd rfl hab
  | afterBreak => exact absurd rfl hbr
  | header kept => rfl
  | payload hd kept => rfl
  | check hd payload kept => rfl

theorem pair_of_length_two : ∀ {bs : List Byte}, bs.length = 2 → ∃ a b, bs = [a, b]
  | [a, b], _ => ⟨a, b, rfl⟩

/-- A whole frame with a wrong CRC is a CRC error (R169). -/
theorem rxBad_badCrc (s : State) (hrx : s.trunk.rx = .hunt) (bytes : List Byte) (h : wrongCrc bytes = true) :
    s.rxBad (.badCrc bytes) = (s.setRx .hunt).crcError := by
  match bytes, h with
  | b :: k :: q :: n :: c :: rest, h =>
    simp only [wrongCrc, headerPasses, Bool.and_eq_true, beq_iff_eq, decide_eq_true_eq, bne_iff_ne] at h
    obtain ⟨⟨⟨rfl, rfl, hn⟩, hlen⟩, hcrc⟩ := h
    obtain ⟨hi, lo, hd⟩ : ∃ hi lo, rest.drop n.toNat = [hi, lo] :=
      pair_of_length_two (by rw [List.length_drop]; omega)
    have e : rest = rest.take n.toNat ++ [hi, lo] := by rw [← hd, List.take_append_drop]
    have ht : (rest.take n.toNat).length = n.toNat := by rw [List.length_take]; omega
    rw [hd] at hcrc
    show s.rxBytes (Config.startCode :: ([k, q, n, headerCheck k q n] ++ rest)) = _
    rw [e, ← List.append_assoc, s.rxBytes_frame hrx k q n _ hi lo hn ht, State.judgeFrame, if_neg hcrc]

/-- Settles O5: the bytes one by one, and the two kinds of bad frame. -/
theorem badFramesCounted : Obligations.BadFramesCounted := by
  refine ⟨fun s hrx => ⟨fun b hb => ?_, ?_, ?_⟩, fun s k q n c hrx hh hfail => ?_, fun s f hrx hf => ?_⟩
  · show Host.Outcome.next (s.rxByte b) = _
    rw [State.rxByte, hrx]; exact congrArg _ (if_neg hb)
  · show Host.Outcome.next s.rxSpaceStop = _
    rw [State.rxSpaceStop, hrx]; rfl
  · show Host.Outcome.next (s.rxByte 0xC3#8) = _
    rw [State.rxByte, hrx]; exact congrArg _ (if_pos rfl)
  · have hmin : min 65535 s.trunk.counters.hunt = s.trunk.counters.hunt := Nat.min_eq_right hh
    have hexec : exec (.headerError k q n c) s = .next ([k, q, n, c].foldl State.retake ((s.setRx .hunt).headerError.hunted 0)) := by
      have h0 : (s.setRx .hunt).headerError.hunted 0 = (s.setRx .hunt).headerError := by
        simp only [State.hunted]
        exact congrArg (fun m => State.mk s.pool s.profiles s.patterns s.lines _ s.reqs
          { s.trunk with rx := .hunt, trx := .mark, counters := { s.trunk.counters with header := bump s.trunk.counters.header, hunt := m } } s.pending) hmin
      rw [h0]; exact congrArg _ (rxBytes_headerError s hrx k q n c hfail)
    refine ⟨fun hno => ?_, fun pre post hsplit hpre => ?_⟩
    · rw [hexec, foldl_retake_hunted (s := (s.setRx .hunt).headerError) rfl _ 0 hno]
      exact congrArg _ (congrArg (fun r => State.raiseTrunk { s with trunk := { s.trunk with
        trx := .mark, rx := r, counters := { s.trunk.counters with
          header := min 65535 (s.trunk.counters.header + 1), hunt := min 65535 (s.trunk.counters.hunt + 4) } } } (.trunk 0 1 0 0 0 0)) hrx.symm)
    · rw [hexec, hsplit, foldl_retake_start (s := (s.setRx .hunt).headerError) rfl pre post hpre]; rfl
  · have hbad : s.rxBad f = (s.setRx .hunt).crcError := by
      cases f with
      | badCrc bytes => exact rxBad_badCrc s hrx bytes hf
      | abandoned bytes => exact rxBad_abandoned s hrx bytes hf
    refine (congrArg _ hbad).trans ?_
    exact congrArg _ (congrArg (fun r => State.raiseTrunk { s with trunk := { s.trunk with
      trx := .mark, rx := r, counters := { s.trunk.counters with crc := min 65535 (s.trunk.counters.crc + 1) } } } (.trunk 1 0 0 0 0 0)) hrx.symm)

/-! ## Whole frames (O6) -/

theorem kindChannelByte_eq (kind channel : BitVec 4) :
    kindChannelByte kind channel = BitVec.ofNat 8 (16 * kind.toNat + channel.toNat) := by
  apply BitVec.eq_of_toNat_eq
  have h1 := kind.isLt
  have h2 := channel.isLt
  rw [kindChannelByte, BitVec.toNat_append, BitVec.toNat_ofNat, Nat.shiftLeft_eq, Nat.mul_comm, ← Nat.two_pow_add_eq_or_of_lt h2]
  omega

/-- Settles O6: the receiver's laws for whole frames, and the CRC's definition. -/
theorem framesReceivedWhole : Obligations.FramesReceivedWhole := by
  refine ⟨fun s kind channel seq payload hi lo hrx hl => ⟨s.rxFrame_good hrx kind channel seq payload hl, fun hcrc => ?_⟩,
    fun kind channel seq payload => ⟨rfl, kindChannelByte_eq kind channel⟩, fun _ _ _ => rfl, fun _ => rfl, rfl, fun bytes b => ?_, by decide +kernel⟩
  · have hb : (byteOf payload.length).toNat = payload.length := toNat_byteOf _ (by omega)
    have := s.rxBytes_frame hrx (kindChannelByte kind channel) seq (byteOf payload.length) payload hi lo (by rw [hb]; exact hl) hb.symm
    refine Eq.trans this ?_
    rw [State.judgeFrame, if_neg hcrc]; rfl
  · rw [crc16, List.foldl_append]; rfl

end Sys2Proof.Machine
end

section
/-!
PROOF. Sequences, sessions and link restarts (O7, O9, O10), and what becomes of frames and requests the part does not take (O8).
-/
namespace Sys2Proof.Machine

/-! ## Sequences (O7) -/

theorem startsSession_iff (kind channel : BitVec 4) (seq n : Byte) (payload : List Byte) :
    startsSession ⟨kindChannelByte kind channel, seq, n⟩ payload = true
      ↔ kind = 2#4 ∧ channel = 15#4 ∧ payload.head? = some 0x01#8 := by
  simp only [startsSession, kind_kindChannelByte, channel_kindChannelByte, Bool.and_eq_true, beq_iff_eq, and_assoc]; rfl

/-- A good frame other than START SESSION, by its sequence and the link (R171). -/
theorem goodFrame_eq (s : State) (h : FrameHeader) (payload : List Byte) (hs : startsSession h payload = false) :
    s.goodFrame h payload
      = if s.trunk.link = .up then
          if h.seq = s.trunk.lastAccepted + 1 then (s.accepted h.seq).dispatch h payload
          else if h.seq = s.trunk.lastAccepted then s.duplicate
          else (s.sequenceGap.accepted h.seq).dispatch h payload
        else s.dispatch h payload := by
  rw [State.goodFrame, if_neg (by rw [hs]; exact Bool.false_ne_true)]

/-- Settles O7: START SESSION by its tag, any other frame by the three tests on its sequence. -/
theorem sequencesCompared : Obligations.SequencesCompared := by
  refine ⟨fun s kind channel seq payload hrx hl => ?_, rfl⟩
  have hgood := s.rxFrame_good hrx kind channel seq payload hl
  refine ⟨fun tag ops hk hc hp => ?_, fun hk hc hp => ?_, fun hno => ?_⟩
  · subst hk hc hp
    rw [hgood, State.goodFrame, if_pos ((startsSession_iff _ _ _ _ _).mpr ⟨rfl, rfl, rfl⟩)]; rfl
  · subst hk hc hp
    rw [hgood, State.goodFrame, if_pos ((startsSession_iff _ _ _ _ _).mpr ⟨rfl, rfl, rfl⟩)]
    simp only [State.takeStartSession, State.dispatch, kind_kindChannelByte, channel_kindChannelByte]; rfl
  · have hs : startsSession ⟨kindChannelByte kind channel, seq, byteOf payload.length⟩ payload = false := by
      rw [Bool.eq_false_iff, ne_eq, startsSession_iff]
      rintro ⟨hk, hc, hp⟩
      exact hno.elim (fun h => h hk) (fun h => h.elim (fun h => h hc) (fun h => h hp))
    rw [hgood, goodFrame_eq _ _ _ hs]
    refine ⟨fun hup hseq => ?_, fun hup hseq => ?_, fun hup h1 h2 => ?_, fun han => ?_⟩
    · exact (if_pos hup).trans (if_pos hseq)
    · have hne : seq ≠ s.trunk.lastAccepted + 1 := by rw [hseq]; bv_omega
      exact (if_pos hup).trans ((if_neg hne).trans (if_pos hseq))
    · exact (if_pos hup).trans ((if_neg h1).trans (if_neg h2))
    · exact if_neg (by rw [show s.received.trunk.link = s.trunk.link from rfl, han]; decide)

/-! ## Frames and requests not taken (O8) -/

theorem State.refuse_of_room {s : State} (h : s.reqs.refusals.length < 4) (tag code : Byte) (result : Result) :
    s.refuse tag code result = { s with reqs := { s.reqs with
      refusals := s.reqs.refusals ++ [⟨tag, code, result⟩], order := s.reqs.order ++ [.refusal] } } := if_pos h

theorem State.refuse_of_full {s : State} (h : 4 ≤ s.reqs.refusals.length) (tag code : Byte) (result : Result) :
    s.refuse tag code result = s.dropRequest := if_neg (Nat.not_lt.mpr h)

theorem State.takesFrame.link_eq {s u : State} {seq : Byte} (h : s.takesFrame seq u) : u.trunk.link = s.trunk.link := by
  obtain ⟨-, ⟨-, -, rfl⟩ | ⟨-, rfl⟩⟩ := h <;> rfl

theorem State.takesFrame.counters_eq {s u : State} {seq : Byte} (h : s.takesFrame seq u) : u.trunk.counters = s.trunk.counters := by
  obtain ⟨-, ⟨-, -, rfl⟩ | ⟨-, rfl⟩⟩ := h <;> rfl

/-- A REQUEST frame other than START SESSION is handed to the Request Unit (R156, R170). -/
theorem rxFrame_request {s u : State} {seq : Byte} {payload : List Byte} (h : s.takesFrame seq u) (hl : payload.length ≤ 64)
    (hne : payload.head? ≠ some 0x01#8) : s.rxFrame 2#4 15#4 seq payload = u.takeRequest payload := by
  rw [rxFrame_takesFrame s u _ _ seq payload h hl
    (Bool.eq_false_iff.mpr fun hs => hne ((startsSession_iff _ _ _ _ _).mp hs).2.2)]
  simp only [State.dispatch, kind_kindChannelByte, channel_kindChannelByte]; rfl

/-- Settles O8: each frame at the place where it is discarded. -/
theorem unknownFramesAndRequests : Obligations.UnknownFramesAndRequests := by
  refine ⟨fun s u kind channel seq payload h hl h1 h2 => ?_, ⟨fun s u seq payload h hlen hne => ?_, fun s seq hrx => ?_,
    fun s u code r h hcode hl => ?_⟩, fun s tag code result => ⟨fun h => State.refuse_of_room h _ _ _, fun h => State.refuse_of_full h _ _ _, rfl⟩⟩
  · have hs : startsSession ⟨kindChannelByte kind channel, seq, byteOf payload.length⟩ payload = false :=
      Bool.eq_false_iff.mpr fun hs => h2 ⟨((startsSession_iff _ _ _ _ _).mp hs).1, ((startsSession_iff _ _ _ _ _).mp hs).2.1⟩
    refine congrArg Host.Outcome.next ((rxFrame_takesFrame s u kind channel seq payload h hl hs).trans ?_)
    simp only [State.dispatch, kind_kindChannelByte, channel_kindChannelByte, if_neg h1, if_neg h2, ← h.counters_eq]; rfl
  · have hhead : payload.head? ≠ some 0x01#8 := by
      match payload, hlen with
      | [], _ => simp
      | [b], _ => simpa using hne
    refine congrArg Host.Outcome.next ((rxFrame_request h (by omega) hhead).trans ?_)
    match payload, hlen with
    | [], _ => rfl
    | [b], _ => rfl
  · exact congrArg Host.Outcome.next ((sequencesCompared.1 s 2#4 15#4 seq [0x01#8] hrx (by simp)).2.1 rfl rfl rfl)
  · have hne : code ≠ 0x01#8 := by rintro rfl; exact absurd hcode (by decide)
    have htake : exec (.unknownRequest code r) s = .next (u.admitRequest code r.tag r.operands) :=
      congrArg Host.Outcome.next (rxFrame_request h (by simp only [List.length_cons]; omega) (by simpa using hne))
    rw [htake, State.admitRequest, h.link_eq]
    refine ⟨fun hup => ?_, fun han => ?_⟩
    · rw [if_neg (by simp [hup]), hcode]
    · rw [if_pos (by rw [han]; decide)]

/-! ## Sessions (O9) -/

theorem Carry.afterRestart_other (c : Carry) (h : ∀ l, c ≠ .cells l) : c.afterRestart = .nothing := by
  cases c with
  | cells l => exact absurd rfl (h l)
  | nothing => rfl
  | slot n => rfl
  | refusal => rfl

/-- START SESSION is taken by the Trunk Port (R173). -/
theorem exec_startSession (s : State) (r : Req) (hrx : s.trunk.rx = .hunt) (hl : r.operands.length + 2 ≤ 64) :
    exec (.startSession r) s = .next (s.received.startSession r.seq r.tag) :=
  congrArg Host.Outcome.next ((sequencesCompared.1 s 2#4 15#4 r.seq (0x01#8 :: r.tag :: r.operands) hrx
    (by simp only [List.length_cons]; omega)).1 _ _ rfl rfl rfl)

/-- Settles O9: the session begun, after a link restart when the link is UP. -/
theorem sessionsStart : Obligations.SessionsStart := by
  refine ⟨fun s r hrx hlink hl => ?_, fun s r hrx hlink hl => ?_, fun _ => rfl, Carry.afterRestart_other⟩
  · rw [exec_startSession s r hrx hl, State.startSession_eq,
      if_neg (by rw [show s.received.trunk.link = s.trunk.link from rfl, hlink]; decide)]; rfl
  · rw [exec_startSession s r hrx hl, State.startSession_eq, if_pos (show s.received.trunk.link = .up from hlink)]
    simp only [State.beginSession, State.linkRestart, State.mapLines, Vector.map_map]; rfl

/-! ## Trunk breaks (O10) -/

theorem State.trunkBreak_of_ne {s : State} (h : s.trunk.rx ≠ .afterBreak) :
    s.trunkBreak = (s.linkRestart .trunkBreak).mapTrunk (fun t => { t with rx := .afterBreak, trx := .space }) := if_neg h

/-- What a link restart leaves of the Event Unit (R154). -/
theorem EventUnit.restart_class (e : EventUnit) (c : Fin 8) :
    e.restart.cls c = { e.cls c with report := none, timer := .stopped, due := false }
      ∧ ∀ src, e.restart.place c src = restoredRow (e.cls c).report (e.place c) src := by
  obtain ⟨-, -, -, hcls, hplace⟩ := foldl_returnClass allClasses e (by decide)
  have hc : c ∈ allClasses := by revert c; decide
  exact ⟨(hcls c).trans (if_pos hc), fun src => (hplace c src).trans (if_pos hc)⟩

/-- Settles O10: a break as a link restart, TRX back at mark by the receiver's state, and the reports returned. -/
theorem trunkBreaksRestartTheLink : Obligations.TrunkBreaksRestartTheLink := by
  refine ⟨⟨fun s h => ?_, fun s h => ⟨?_, ?_⟩, fun s h => ?_, fun s h1 h2 => ?_⟩, fun e c => ?_, fun _ => rfl, Carry.afterRestart_other⟩
  · exact congrArg Host.Outcome.next (State.trunkBreak_of_ne h)
  · exact congrArg Host.Outcome.next (if_pos h)
  · show Host.Outcome.next s.trunkMark = _
    rw [State.trunkMark, h]; rfl
  · show Host.Outcome.next s.trunkMark = _
    rw [State.trunkMark, h]; rfl
  · show Host.Outcome.next s.trunkMark = _
    rw [State.trunkMark]
    cases hr : s.trunk.rx with
    | afterBreak => exact absurd hr h1
    | abandoned => exact absurd hr h2
    | _ => rfl
  · obtain ⟨ho, hm, hi, -, -⟩ := foldl_returnClass allClasses e (by decide)
    obtain ⟨hcls, hplace⟩ := e.restart_class c
    rw [hcls]
    refine ⟨rfl, rfl, rfl, rfl, rfl, ho, hm, hi, fun hnone src => ?_, fun rep hrep hnd => ⟨fun src hsrc => ?_, fun src rec hmem => ⟨fun h => ?_, fun newer h => ?_⟩⟩⟩
    · rw [hplace, hnone]; rfl
    · rw [hplace, hrep]; exact foldl_restore_other _ _ _ hsrc
    · rw [hplace, hrep]; refine (foldl_restore_mem _ _ _ _ hnd hmem).trans ?_; rw [h]
    · rw [hplace, hrep]; refine (foldl_restore_mem _ _ _ _ hnd hmem).trans ?_; rw [h]

end Sys2Proof.Machine
end

section
/-!
PROOF. DATA frames from the computer: refused (O11), accepted (O12), and scanned (O14).
-/
namespace Sys2Proof.Machine

/-- Settles O11: the three tests in their order. -/
theorem dataFramesRefused : Obligations.DataFramesRefused := by
  intro s u l seq payload h hl
  obtain ⟨-, -, hpat, -⟩ := takesFrame_same s u seq h
  rw [exec_data_takesFrame s u l seq payload h hl, ← h.line_eq l, ← hpat]
  refine ⟨fun hc => congrArg _ (u.takeData_of_closed_or_draining l payload hc), fun ho hcr => ?_, fun ho hcr hm => ?_⟩
  · have hno : ¬ ((u.line l).state = .closed ∨ (u.line l).state = .draining) := not_or.mpr ((isOpen_iff _).mp ho)
    exact congrArg _ ((if_neg hno).trans (if_pos hcr))
  · have hno : ¬ ((u.line l).state = .closed ∨ (u.line l).state = .draining) := not_or.mpr ((isOpen_iff _).mp ho)
    exact congrArg _ ((if_neg hno).trans ((if_neg (Nat.not_lt.mpr hcr)).trans (if_pos hm)))

/-- A frame within credit whose markers fit is accepted (R14). -/
theorem State.takeData_accepted (s : State) (l : Fin 8) (payload : List Byte) (ho : (s.line l).isOpen)
    (hcr : payload.length ≤ (s.line l).credit) (hm : (s.line l).markers.length + (scan s.patterns l payload).marks.length ≤ 16) :
    s.takeData l payload = s.acceptData l (scan s.patterns l payload) payload.length := by
  have hno : ¬ ((s.line l).state = .closed ∨ (s.line l).state = .draining) := not_or.mpr ((isOpen_iff _).mp ho)
  exact (if_neg hno).trans ((if_neg (Nat.not_lt.mpr hcr)).trans (if_neg (Nat.not_lt.mpr hm)))

theorem State.takesFrame.prof_eq {s u : State} {seq : Byte} (h : s.takesFrame seq u) (l : Fin 8) : u.prof l = s.prof l := by
  obtain ⟨-, ⟨-, -, rfl⟩ | ⟨-, rfl⟩⟩ := h <;> rfl

/-- Settles O12: the frame's effect on its line, and what follows within the event. -/
theorem dataFramesAccepted : Obligations.DataFramesAccepted := by
  intro s u l seq payload h hl ho hcr hm x o
  refine ⟨?_, fun hno => scanFrom_noneInUse _ _ hno _ _ _⟩
  obtain ⟨-, -, hpat, hpool, -⟩ := takesFrame_same s u seq h
  have hx : u.line l = x := h.line_eq l
  have hp := h.prof_eq l
  obtain ⟨q, g, hz, hbytes, hg, -⟩ := accept_frame (s.prof l) o payload.length x
  generalize hzz : x.accept (s.prof l) o payload.length = z at hz
  let w : State := { u.setLine l z with pool := { s.pool with free := s.pool.free - (z.outQ.length - x.outQ.length) } }
  have hwl : w.line l = z := State.line_setLine_same u l z
  have hexec : exec (.data l seq payload) s = .next (w.settle l) := by
    rw [exec_data_takesFrame s u l seq payload h hl, u.takeData_accepted l payload (hx ▸ ho) (hx ▸ hcr) (by rw [hx, hpat]; exact hm),
      State.acceptData, hx, hp, hpat]
    simp only [o] at hzz
    rw [hzz, State.takeCells, State.pool_setLine, hpool]
  refine ⟨z, w.settle l, ?_, ?_, ?_, hexec, settle_thenSettles w l, fun hf => ?_⟩
  · rw [hz]
  · rw [hz]; exact hbytes
  · have hd := Line.becomesDue_congr (s.prof l) x z { x with outQ := q, S := x.S + BitVec.ofNat 32 o.stored.length, A := x.A + BitVec.ofNat 32 payload.length }
      (by rw [hz]) (by rw [hz]) (by rw [hz]) (by rw [hz]) (by rw [hz]) (by rw [hz])
    rw [hd, ← List.length_eq_zero_iff, show z.grantDue = g by rw [hz]]
    exact hg
  · have hstate : z.state = x.state := by rw [hz]
    have hwp : w.prof l = s.prof l :=
      (State.prof_setLine_same u l z (by rw [hz, hx])).trans hp
    have hf' : z.flushDone = false := (flushDone_congr x z (by rw [hz]) (by rw [hz]; rfl)).trans hf
    rw [settle_isOpen w l (by rw [hwl, Line.isOpen, hstate]; exact ho) (by rw [hwl]; exact hf'), hwl, hwp]

/-! ## The scan (O14) -/

section Scan
variable (pats : Vector Pattern 16) (l : Fin 8)

/-- An entry in use for a line whose bytes stand next in the payload (R128). -/
def Stands (e : Fin 16) (rest : List Byte) : Prop :=
  (pats[e]).inUse = true ∧ (pats[e]).lineSet.getLsbD l.val = true ∧ (pats[e]).length ≤ rest.length
    ∧ rest.take (pats[e]).length = (pats[e]).bytes.toList.take (pats[e]).length

theorem matchesAt_iff (e : Fin 16) (rest : List Byte) : (pats[e]).matchesAt l rest = true ↔ Stands pats l e rest := by
  simp only [Pattern.matchesAt, Stands, Bool.and_eq_true, decide_eq_true_eq, beq_iff_eq, and_assoc]

/-- Where no entry stands, the byte is stored (R128). -/
theorem scanFrom_store (i n : Nat) (b : Byte) (rest : List Byte) (h : ∀ e, ¬ Stands pats l e (b :: rest)) :
    scanFrom pats l 0 i n (b :: rest)
      = ⟨b :: (scanFrom pats l 0 (i + 1) (n + 1) rest).stored, (scanFrom pats l 0 (i + 1) (n + 1) rest).marks⟩ := by
  rw [scanFrom, (matchAt_eq_none _ _ _).mpr fun e => by rw [matchesAt_iff]; exact h e]

/-- Where entries stand, the one with the lowest index is taken, by its action (R129). -/
theorem scanFrom_take (i n : Nat) (rest : List Byte) (e : Fin 16) (hk : 1 ≤ (pats[e]).length) (he : Stands pats l e rest)
    (hd : ∀ d : Fin 16, d < e → ¬ Stands pats l d rest) :
    let k := (pats[e]).length
    let after := scanFrom pats l 0 (i + k) (n + k) (rest.drop k)
    ((pats[e]).action = .strip → scanFrom pats l 0 i n rest = scanFrom pats l 0 (i + k) n (rest.drop k))
    ∧ ((pats[e]).action = .mark → scanFrom pats l 0 i n rest
        = ⟨rest.take k ++ after.stored, ⟨.mark, (pats[e]).tag, e, n + k - 1, i + k⟩ :: after.marks⟩)
    ∧ ((pats[e]).action = .hold → scanFrom pats l 0 i n rest
        = ⟨rest.take k ++ after.stored, ⟨.hold, (pats[e]).tag, e, n + k - 1, i + k⟩ :: after.marks⟩) := by
  cases rest with
  | nil =>
    have : (pats[e]).length ≤ 0 := he.2.2.1
    omega
  | cons b bs =>
    have hm : matchAt pats l (b :: bs) = some e := matchAt_eq_some pats l _ e ((matchesAt_iff pats l e _).mpr he)
      fun d hlt => by rw [matchesAt_iff]; exact hd d hlt
    obtain ⟨k, hk'⟩ : ∃ k, (pats[e]).length = k + 1 := ⟨_, (Nat.succ_pred_eq_of_pos hk).symm⟩
    have hskip : ∀ m, scanFrom pats l k (i + 1) m bs = scanFrom pats l 0 (i + (k + 1)) m (bs.drop k) := fun m => by
      rw [scanFrom_skip, Nat.add_assoc, Nat.add_comm 1]
    rw [scanFrom, hm]
    simp only [hk', Nat.add_sub_cancel, List.drop_succ_cons, hskip]
    exact ⟨fun ha => by rw [ha], fun ha => by rw [ha], fun ha => by rw [ha]⟩

/-- A marker of the scan of the bytes left, at position i of the payload with n bytes stored before: its entry is one in use for the line, and
its entry's bytes stand at its offsets in the payload and in what is stored (R129). -/
structure MarkFits (i n : Nat) (rest stored : List Byte) (m : ScanMark) : Prop where
  inUse : (pats[m.entry]).inUse = true
  line : (pats[m.entry]).lineSet.getLsbD l.val = true
  tag : m.tag = (pats[m.entry]).tag
  kind : (pats[m.entry]).action = .mark ∧ m.kind = .mark ∨ (pats[m.entry]).action = .hold ∧ m.kind = .hold
  storedFrom : n + (pats[m.entry]).length ≤ m.storedOff + 1
  storedTo : m.storedOff < n + stored.length
  acceptedFrom : i + (pats[m.entry]).length ≤ m.acceptedOff
  acceptedTo : m.acceptedOff ≤ i + rest.length
  accepts : (rest.drop (m.acceptedOff - (i + (pats[m.entry]).length))).take (pats[m.entry]).length
    = (pats[m.entry]).bytes.toList.take (pats[m.entry]).length
  stores : (stored.drop (m.storedOff + 1 - (n + (pats[m.entry]).length))).take (pats[m.entry]).length
    = (pats[m.entry]).bytes.toList.take (pats[m.entry]).length

/-- What a scan makes of the bytes left (R128, R129). -/
structure ScanFits (i n : Nat) (rest : List Byte) (o : Scan) : Prop where
  stored : o.stored.length ≤ rest.length
  rises : o.marks.Pairwise (fun a b => a.storedOff < b.storedOff ∧ a.acceptedOff < b.acceptedOff)
  marks : ∀ m ∈ o.marks, MarkFits pats l i n rest o.stored m

variable {pats l}

theorem drop_append_of_le {α : Type} (pre rest : List α) (k : Nat) (h : pre.length ≤ k) : (pre ++ rest).drop k = rest.drop (k - pre.length) := by
  rw [List.drop_append, List.drop_eq_nil_of_le h, List.nil_append]

/-- The same marker seen from further back in the payload. -/
theorem MarkFits.prepend {i n i' n' : Nat} {rest stored : List Byte} {m : ScanMark} (pre kept : List Byte)
    (h : MarkFits pats l i' n' rest stored m) (hi : i' = i + pre.length) (hn : n' = n + kept.length) :
    MarkFits pats l i n (pre ++ rest) (kept ++ stored) m where
  inUse := h.inUse
  line := h.line
  tag := h.tag
  kind := h.kind
  storedFrom := by have := h.storedFrom; omega
  storedTo := by have := h.storedTo; rw [List.length_append]; omega
  acceptedFrom := by have := h.acceptedFrom; omega
  acceptedTo := by have := h.acceptedTo; rw [List.length_append]; omega
  accepts := by
    have := h.acceptedFrom
    rw [drop_append_of_le _ _ _ (by omega), ← h.accepts]; congr 2; omega
  stores := by
    have := h.storedFrom
    rw [drop_append_of_le _ _ _ (by omega), ← h.stores]; congr 2; omega

/-- The marker of the entry that stands at the head of the bytes left (R129). -/
theorem MarkFits.head {i n : Nat} {rest after : List Byte} {e : Fin 16} {kind : MarkerKind} (he : Stands pats l e rest)
    (hk : 1 ≤ (pats[e]).length)
    (ha : (pats[e]).action = .mark ∧ kind = .mark ∨ (pats[e]).action = .hold ∧ kind = .hold) :
    MarkFits pats l i n rest (rest.take (pats[e]).length ++ after) ⟨kind, (pats[e]).tag, e, n + (pats[e]).length - 1, i + (pats[e]).length⟩ := by
  obtain ⟨hu, hs, hl, hb⟩ := he
  have ht : (rest.take (pats[e]).length).length = (pats[e]).length := by rw [List.length_take]; omega
  refine ⟨hu, hs, rfl, ha, by simp only; omega, by simp only [List.length_append, ht]; omega, Nat.le_refl _, by simp only; omega, ?_, ?_⟩
  · simp only [Nat.sub_self, List.drop_zero]; exact hb
  · have h0 : n + (pats[e]).length - 1 + 1 - (n + (pats[e]).length) = 0 := by omega
    simp only [h0, List.drop_zero]
    rw [List.take_append_of_le_length (by omega), List.take_take, Nat.min_self]; exact hb

/-- Bytes passed over, and stored or not, before a scan that goes on. -/
theorem ScanFits.prepend {i n i' n' : Nat} {rest : List Byte} {o : Scan} (pre kept : List Byte) (h : ScanFits pats l i' n' rest o)
    (hi : i' = i + pre.length) (hn : n' = n + kept.length) (hle : kept.length ≤ pre.length) :
    ScanFits pats l i n (pre ++ rest) ⟨kept ++ o.stored, o.marks⟩ where
  stored := by have := h.stored; simp only [List.length_append]; omega
  rises := h.rises
  marks m hm := (h.marks m hm).prepend pre kept hi hn

/-- A scan that makes a marker of the entry that stands next, and goes on after it (R129). -/
theorem ScanFits.mark (hlen : ∀ e : Fin 16, 1 ≤ (pats[e]).length) {i n : Nat} {rest : List Byte} {o : Scan} {e : Fin 16} {kind : MarkerKind}
    (he : Stands pats l e rest) (ha : (pats[e]).action = .mark ∧ kind = .mark ∨ (pats[e]).action = .hold ∧ kind = .hold)
    (h : ScanFits pats l (i + (pats[e]).length) (n + (pats[e]).length) (rest.drop (pats[e]).length) o) :
    ScanFits pats l i n rest ⟨rest.take (pats[e]).length ++ o.stored,
      ⟨kind, (pats[e]).tag, e, n + (pats[e]).length - 1, i + (pats[e]).length⟩ :: o.marks⟩ := by
  have ht : (rest.take (pats[e]).length).length = (pats[e]).length := by rw [List.length_take]; have := he.2.2.1; omega
  have hgo := h.prepend (i := i) (n := n) (rest.take (pats[e]).length) (rest.take (pats[e]).length) (by rw [ht]) (by rw [ht]) (Nat.le_refl _)
  rw [List.take_append_drop] at hgo
  refine ⟨hgo.stored, List.pairwise_cons.mpr ⟨fun m hm => ?_, hgo.rises⟩, fun m hm => ?_⟩
  · have hm := h.marks m hm
    have hs := hm.storedFrom
    have ha := hm.acceptedFrom
    have h1 := hlen m.entry
    have h1' := hlen e
    exact ⟨by simp only; omega, by simp only; omega⟩
  · rcases List.mem_cons.mp hm with rfl | hm
    · exact MarkFits.head he (hlen e) ha
    · exact hgo.marks m hm

/-- The lowest number with a property. -/
theorem exists_least {n : Nat} {P : Fin n → Prop} (e : Fin n) (he : P e) : ∃ e, P e ∧ ∀ d, d < e → ¬ P d := by
  by_cases h : ∃ d, d < e ∧ P d
  · obtain ⟨d, hlt, hd⟩ := h
    exact exists_least d hd
  · exact ⟨e, he, fun d hlt hd => h ⟨d, hlt, hd⟩⟩
termination_by e

/-- Every scan is sound, by the number of the bytes left. -/
theorem scanFits (hlen : ∀ e : Fin 16, 1 ≤ (pats[e]).length) (i n : Nat) (rest : List Byte) : ScanFits pats l i n rest (scanFrom pats l 0 i n rest) := by
  by_cases hst : ∃ e, Stands pats l e rest
  · obtain ⟨e, he, hd⟩ : ∃ e, Stands pats l e rest ∧ ∀ d, d < e → ¬ Stands pats l d rest := by
      obtain ⟨e, he⟩ := hst
      exact exists_least e he
    have hfew : rest.length - (pats[e]).length < rest.length := by have := he.2.2.1; have := hlen e; omega
    have hlt : (rest.take (pats[e]).length).length = (pats[e]).length := by rw [List.length_take]; have := he.2.2.1; omega
    obtain ⟨hstrip, hmark, hhold⟩ := scanFrom_take pats l i n rest e (hlen e) he hd
    cases ha : (pats[e]).action with
    | strip =>
      rw [hstrip ha]
      have h := (scanFits hlen (i + (pats[e]).length) n (rest.drop (pats[e]).length)).prepend (i := i) (rest.take (pats[e]).length) [] (by rw [hlt]) rfl
        (Nat.zero_le _)
      rwa [List.take_append_drop] at h
    | mark => rw [hmark ha]; exact .mark hlen he (Or.inl ⟨ha, rfl⟩) (scanFits hlen _ _ _)
    | hold => rw [hhold ha]; exact .mark hlen he (Or.inr ⟨ha, rfl⟩) (scanFits hlen _ _ _)
  · match rest, hst with
    | [], _ => exact ⟨Nat.le_refl _, .nil, fun m hm => by cases hm⟩
    | b :: rest, hst =>
      rw [scanFrom_store pats l i n b rest (not_exists.mp hst)]
      exact (scanFits hlen (i + 1) (n + 1) rest).prepend [b] [b] rfl rfl (Nat.le_refl _)
termination_by rest.length
decreasing_by all_goals (simp only [List.length_drop, List.length_cons]; omega)

end Scan

/-- Settles O14: what stands at the head of the bytes left, and the scan from there. -/
theorem scanFindsPatterns : Obligations.ScanFindsPatterns := by
  intro pats l hlen stands
  have hlen' : ∀ e : Fin 16, 1 ≤ (pats[e]).length := fun e => (hlen e).1
  refine ⟨fun _ => rfl, fun _ _ => rfl, fun i n b rest h => scanFrom_store pats l i n b rest h, fun i n rest e he hd => scanFrom_take pats l i n rest e (hlen' e) he hd, fun payload => ?_⟩
  · have h := scanFits (l := l) hlen' 0 0 payload
    refine ⟨h.stored, h.rises, fun m hm => ?_⟩
    obtain ⟨hu, hs, ht, hk, -, hst, -, hat, hacc, hsto⟩ := h.marks m hm
    rw [Nat.zero_add] at hst hat hacc hsto
    exact ⟨hu, hs, ht, hk, hst, hat, hacc, hsto⟩

end Sys2Proof.Machine
end

section
/-!
PROOF. Requests: their admission (O15), and the short requests on part-wide tables (O17, O18, O21).
-/
namespace Sys2Proof.Machine

/-! ## The commands of the known requests (Table 9-4) -/

theorem exec_request {i : Instr} {c : ReqCode} {r : Req} (hi : i.request = some (c, r)) (s : State) :
    exec i s = .next (s.rxRequest c.byte r) := by
  cases i <;> cases hi <;> rfl

theorem request_ne_startSession {i : Instr} {c : ReqCode} {r : Req} (hi : i.request = some (c, r)) : c ≠ .startSession := by
  cases i <;> cases hi <;> decide

section
variable {i : Instr} {c : ReqCode} {r : Req} {s : State} {n : Fin 4}

/-- A request that takes a slot is its owner's. -/
theorem exec_owner (hi : i.request = some (c, r)) (h : s.takes c r n) : exec i s = .next ((s.inSlot c r n).toOwner n c r.operands) := by
  rw [exec_request hi, s.rxRequest_takes c r n h (request_ne_startSession hi)]

/-- A short request that takes a slot: its owner's effect, with the answer. -/
theorem exec_short (hi : i.request = some (c, r)) (h : s.takes c r n) {own : State → List Byte → State × Reply}
    (hto : ∀ x ops, State.toOwner x n c ops = x.short n own ops) {t : State} {reply : Reply}
    (ho : own (s.inSlot c r n) r.operands = (t, reply)) (ht : t.reqs = (s.inSlot c r n).reqs) :
    exec i s = .next { t with reqs := (s.answered c r n reply).reqs } := by
  rw [exec_request hi]; exact rxRequest_short h (request_ne_startSession hi) own t _ reply hto ho ht rfl

/-- A short request that changes nothing is answered. -/
theorem exec_short_answered (hi : i.request = some (c, r)) (h : s.takes c r n) {own : State → List Byte → State × Reply}
    (hto : ∀ x ops, State.toOwner x n c ops = x.short n own ops) {reply : Reply}
    (ho : own (s.inSlot c r n) r.operands = (s.inSlot c r n, reply)) : exec i s = .next (s.answered c r n reply) := by
  rw [exec_short hi h hto ho rfl]; rfl

/-- A long request turned away by its owner. -/
theorem exec_turnedAway (hi : i.request = some (c, r)) (h : s.takes c r n) {res : Result}
    (ho : (s.inSlot c r n).toOwner n c r.operands = (s.inSlot c r n).complete n (.plain res)) :
    exec i s = .next (s.turnedAway c r n res) := by
  rw [exec_owner hi h, ho, complete_inSlot_turnedAway h]

end

/-! ## Admission (O15) -/

/-- A held tag (R157 check 4). -/
theorem tagHeld_iff (q : RequestUnit) (tag : Byte) : q.tagHeld tag = true ↔ ∃ k ∈ q.slots, k.tag = tag := by
  simp only [RequestUnit.tagHeld, List.any_eq_true, beq_iff_eq]

/-- No slot is free exactly when every number is held (R159). -/
theorem freeSlot_eq_none (q : RequestUnit) : q.freeSlot = none ↔ ∀ n : Fin 4, ∃ k ∈ q.slots, k.num = n := by
  have hmem : ∀ n : Fin 4, n ∈ allSlots := by decide
  simp only [RequestUnit.freeSlot, List.find?_eq_none, List.all_eq_true, bne_iff_ne, Classical.not_forall, Decidable.not_not, exists_prop]
  exact ⟨fun h n => h n (hmem n), fun h n _ => h n⟩

theorem freeSlot_free {q : RequestUnit} {n : Fin 4} (h : q.freeSlot = some n) : ∀ k ∈ q.slots, k.num ≠ n := by
  have := List.find?_some h
  simpa only [List.all_eq_true, bne_iff_ne] using this

/-- A known request whose frame is heard goes through checks 3 to 6 (R157). -/
theorem exec_heard {i : Instr} {c : ReqCode} {r : Req} (hi : i.request = some (c, r)) {s : State} (hh : s.hears r.seq)
    (hl : r.operands.length + 2 ≤ 64) : exec i s = .next ((s.heard r.seq).admitKnown c r.tag r.operands) := by
  have hup : (s.heard r.seq).trunk.link = .up := hh.2.1
  rw [exec_request hi, s.rxRequest_heard _ r hh (c.byte_ne_startSession (request_ne_startSession hi)) hl, State.admitRequest,
    if_neg (by simp [hup]), ReqCode.ofByte_byte]

/-- Settles O15: the checks in their order. -/
theorem requestsAdmitted : Obligations.RequestsAdmitted := by
  refine ⟨fun i c r s hi hrx hl => ⟨fun han => ?_, fun hup hseq => ?_⟩, by decide, by decide⟩
  · have hne : (c.byte :: r.tag :: r.operands).head? ≠ some 0x01#8 := fun he =>
      c.byte_ne_startSession (request_ne_startSession hi) (Option.some.inj he)
    have hlink : s.received.trunk.link ≠ .up := by rw [show s.received.trunk.link = s.trunk.link from rfl, han]; decide
    rw [exec_request hi, State.rxRequest, rxFrame_request ⟨hrx, Or.inr ⟨han, rfl⟩⟩ (by simp only [List.length_cons]; omega) hne,
      State.takeRequest, State.admitRequest, if_pos hlink]
  · have hexec := exec_heard hi (s := s) ⟨hrx, hup, hseq⟩ hl
    refine ⟨fun hlen => ?_, fun hlen => ⟨fun htag => ?_, fun htag => ⟨fun hbusy => ?_, fun hpr n hn => ⟨freeSlot_free hn, ?_⟩⟩⟩⟩
    · rw [hexec, State.admitKnown, if_pos hlen]
    · rw [hexec, State.admitKnown, if_neg (Classical.not_not.mpr hlen), if_pos ((tagHeld_iff (s.heard r.seq).reqs r.tag).mpr htag)]
    · have hno : s.reqs.tagHeld r.tag = false := Bool.eq_false_iff.mpr fun h =>
        have ⟨k, hk, he⟩ := (tagHeld_iff s.reqs r.tag).mp h
        htag k hk he
      rw [hexec, State.admitKnown, if_neg (Classical.not_not.mpr hlen), show (s.heard r.seq).reqs = s.reqs from rfl, hno, if_neg Bool.false_ne_true]
      rcases hbusy with hpr | hfull
      · rw [if_pos (Option.isSome_iff_ne_none.mpr hpr)]
      · rw [(freeSlot_eq_none _).mpr hfull, ite_self]
    · have hno : s.reqs.tagHeld r.tag = false := Bool.eq_false_iff.mpr fun h =>
        have ⟨k, hk, he⟩ := (tagHeld_iff s.reqs r.tag).mp h
        htag k hk he
      exact exec_owner hi ⟨⟨hrx, hup, hseq⟩, hlen, hno, hpr, hn⟩

/-! ## SET GRANT REFRESH (O17) -/

theorem refreshTimer_toNat (b : Byte) : refreshTimer b.toNat = if b = 0#8 then .stopped else .running (10 * b.toNat) := by
  have : b.toNat = 0 ↔ b = 0#8 := toNat_eq_iff (by decide)
  simp only [refreshTimer, this]

/-- Settles O17: the owner's effect, and the expiry of a running timer. -/
theorem grantRefresh : Obligations.GrantRefresh := by
  refine ⟨fun s r n b h hops => ?_, fun s hrun => congrArg Host.Outcome.next (if_neg hrun)⟩
  rw [exec_short (own := ownSetGrantRefresh) rfl h (fun _ _ => rfl) rfl rfl, hops, u8_head, refreshTimer_toNat]; rfl

/-! ## LOAD PROFILE and READ PROFILE (O18) -/

theorem profileInUse_eq_false (s : State) (i : Fin 8) (h : ∀ l, (s.line l).binding = i → (s.line l).state = .closed) :
    s.profileInUse i = false :=
  Bool.eq_false_iff.mpr fun hu => have ⟨l, hb, hs⟩ := (profileInUse_iff s i).mp hu; hs (h l hb)

/-- LOAD PROFILE with an index in range (R30). -/
theorem ownLoadProfile_inRange (s : State) (b : Byte) (rec : List Byte) (i : Fin 8) (hb : b.toNat = i.val) :
    ownLoadProfile s (b :: rec) = if s.profileInUse i then (s, .plain .profileInUse)
      else match profileFail rec with
        | some f => (s, ⟨.badProfile, [byteOf f]⟩)
        | none => ({ s with profiles := s.profiles.set i.val (Profile.ofBytes rec) i.isLt }, .plain .ok) := by
  rw [ownLoadProfile, indexOperand_head 8 b rec i hb]; rfl

theorem byteOf_toNat (b : Byte) : byteOf b.toNat = b := by simp [byteOf]

/-- Settles O18: the index, the use of the profile, and the checks of the record. -/
theorem profilesLoadedAndRead : Obligations.ProfilesLoadedAndRead := by
  refine ⟨fun s r n b rec h hops => ⟨fun hb => ?_, fun i hb => ⟨fun hu => ?_, fun hc => ?_⟩⟩, fun s r n b h hops => ⟨fun hb => ?_, fun i hb => ?_⟩⟩
  · refine exec_short_answered (own := ownLoadProfile) rfl h (fun _ _ => rfl) ?_
    rw [hops, ownLoadProfile, indexOperand_head_none 8 b rec hb]; rfl
  · refine exec_short_answered (own := ownLoadProfile) rfl h (fun _ _ => rfl) ?_
    rw [hops, ownLoadProfile_inRange _ b rec i hb, if_pos ((profileInUse_iff (s.inSlot .loadProfile r n) i).mpr hu)]; rfl
  · have hno : (s.inSlot .loadProfile r n).profileInUse i = false := profileInUse_eq_false _ i hc
    refine ⟨fun f hf => ?_, fun hf => ?_⟩
    · refine exec_short_answered (own := ownLoadProfile) rfl h (fun _ _ => rfl) ?_
      rw [hops, ownLoadProfile_inRange _ b rec i hb, hno, hf]; rfl
    · refine (exec_short (own := ownLoadProfile) (t := { s.inSlot .loadProfile r n with
        profiles := s.profiles.set i.val (Profile.ofBytes rec) i.isLt }) rfl h (fun _ _ => rfl) ?_ rfl).trans rfl
      rw [hops, ownLoadProfile_inRange _ b rec i hb, hno, hf]; rfl
  · refine exec_short_answered (own := ownReadProfile) rfl h (fun _ _ => rfl) ?_
    rw [hops, ownReadProfile, indexOperand_head_none 8 b [] hb]; rfl
  · refine exec_short_answered (own := ownReadProfile) rfl h (fun _ _ => rfl) ?_
    rw [hops, ownReadProfile, indexOperand_head 8 b [] i hb, ← byteOf_toNat b, hb]; rfl

end Sys2Proof.Machine
end

section
/-!
PROOF. The requests on patterns and events (O21, O22, O23), and events raised and merged (O24).
-/
namespace Sys2Proof.Machine

/-! ## Patterns (O21) -/

/-- The pattern bytes of an operand, those beyond the length 00h (R125). -/
theorem patternBytes_eq (x len b0 b1 b2 b3 act tag set : Byte) (h1 : 1 ≤ len.toNat) (h4 : len.toNat ≤ 4) :
    patternBytes [x, len, b0, b1, b2, b3, act, tag, set] len.toNat
      = #v[b0, if 2 ≤ len.toNat then b1 else 0#8, if 3 ≤ len.toNat then b2 else 0#8, if len.toNat = 4 then b3 else 0#8] := by
  have h3 : 3 < len.toNat ↔ len.toNat = 4 := by omega
  apply Vector.ext
  intro i hi
  match i, hi with
  | 0, _ => simp [patternBytes, show 0 < len.toNat by omega]
  | 1, _ => simp [patternBytes, Nat.succ_le_iff]
  | 2, _ => simp [patternBytes, Nat.succ_le_iff]
  | 3, _ => simp [patternBytes, h3]

theorem patternAction_ofCode (act : Byte) :
    PatternAction.ofCode act.toNat = if act = 0#8 then .mark else if act = 1#8 then .hold else .strip := by
  have h0 : act.toNat = 0 ↔ act = 0#8 := toNat_eq_iff (by decide)
  have h1 : act.toNat = 1 ↔ act = 1#8 := toNat_eq_iff (by decide)
  unfold PatternAction.ofCode
  split
  · next h => rw [if_pos (h0.mp h)]
  · next h => rw [if_neg (fun e => by rw [e] at h; exact absurd h (by decide)), if_pos (h1.mp h)]
  · next n0 n1 => rw [if_neg (fun e => n0 (h0.mpr e)), if_neg (fun e => n1 (h1.mpr e))]

theorem State.markerCount_eq (s : State) (i : Fin 16) :
    s.markerCount i = s.sumLines (fun ln => (ln.markers.filter (fun m => m.entry == i)).length) := rfl

/-- LOAD PATTERN by its three operand checks (R125). -/
theorem ownLoadPattern_eq (s : State) (x len b0 b1 b2 b3 act tag set : Byte) (i : Fin 16) (hx : x.toNat = i.val) :
    ownLoadPattern s [x, len, b0, b1, b2, b3, act, tag, set]
      = if within 1 4 len.toNat = true ∧ act.toNat ≤ 2 then
          ({ s with patterns := s.patterns.set i.val ⟨true, len.toNat, patternBytes [x, len, b0, b1, b2, b3, act, tag, set] len.toNat,
            PatternAction.ofCode act.toNat, tag, set⟩ i.isLt }, .plain .ok)
        else (s, .plain .badOperand) := by
  rw [ownLoadPattern, indexOperand_head 16 x _ i hx]; rfl

theorem within_iff (lo hi n : Nat) : within lo hi n = true ↔ lo ≤ n ∧ n ≤ hi := by
  simp only [within, Bool.and_eq_true, decide_eq_true_eq]

/-- Settles O21: the three owners by their operands. -/
theorem patternsLoadedClearedRead : Obligations.PatternsLoadedClearedRead := by
  refine ⟨fun s r n x len b0 b1 b2 b3 act tag set h hops => ⟨fun hbad => ?_, fun i hx h1 h4 ha => ?_⟩,
    fun s r n x h hops => ⟨fun i hx => ?_, fun hx => ?_, fun hx hne => ?_⟩, fun s r n x h hops => ⟨fun hx => ?_, fun i hx => ?_⟩, rfl⟩
  · refine exec_short_answered (own := ownLoadPattern) rfl h (fun _ _ => rfl) ?_
    rw [hops]
    by_cases hx : 16 ≤ x.toNat
    · rw [ownLoadPattern, indexOperand_head_none 16 x _ hx]; rfl
    · rw [ownLoadPattern_eq _ x len b0 b1 b2 b3 act tag set ⟨x.toNat, by omega⟩ rfl, if_neg]
      · rfl
      · rw [within_iff]; omega
  · have ho : ownLoadPattern (s.inSlot .loadPattern r n) r.operands = ({ s.inSlot .loadPattern r n with
        patterns := s.patterns.set i.val ⟨true, len.toNat, patternBytes [x, len, b0, b1, b2, b3, act, tag, set] len.toNat,
            PatternAction.ofCode act.toNat, tag, set⟩ i.isLt }, .plain .ok) := by
      rw [hops, ownLoadPattern_eq _ x len b0 b1 b2 b3 act tag set i hx, if_pos ⟨(within_iff _ _ _).mpr ⟨h1, h4⟩, ha⟩]; rfl
    rw [exec_short rfl h (fun _ _ => rfl) ho rfl, patternBytes_eq x len b0 b1 b2 b3 act tag set h1 h4, patternAction_ofCode]; rfl
  · have ho : ownClearPattern (s.inSlot .clearPattern r n) r.operands = ({ s.inSlot .clearPattern r n with
        patterns := s.patterns.set i.val Pattern.cleared i.isLt }, .plain .ok) := by
      rw [hops, ownClearPattern, indexOperand_head 16 x _ i hx]; rfl
    rw [exec_short rfl h (fun _ _ => rfl) ho rfl]; rfl
  · have ho : ownClearPattern (s.inSlot .clearPattern r n) r.operands = ({ s.inSlot .clearPattern r n with
        patterns := Vector.replicate 16 Pattern.cleared }, .plain .ok) := by
      rw [hops, ownClearPattern, indexOperand_head_none 16 x _ (by rw [hx]; decide), hx]; rfl
    rw [exec_short rfl h (fun _ _ => rfl) ho rfl]; rfl
  · refine exec_short_answered (own := ownClearPattern) rfl h (fun _ _ => rfl) ?_
    rw [hops, ownClearPattern, indexOperand_head_none 16 x _ hx]
    exact if_neg (fun e => hne ((toNat_eq_iff (by decide)).mp e))
  · refine exec_short_answered (own := ownReadPattern) rfl h (fun _ _ => rfl) ?_
    rw [hops, ownReadPattern, indexOperand_head_none 16 x _ hx]; rfl
  · refine exec_short_answered (own := ownReadPattern) rfl h (fun _ _ => rfl) ?_
    rw [hops, ownReadPattern, indexOperand_head 16 x _ i hx, ← byteOf_toNat x, hx]; rfl

/-! ## ACK EVENT (O22) -/

/-- An in-service report cleared (R147). -/
theorem EventUnit.clear_eq (e : EventUnit) (c : Fin 8) : e.clear c = { e with
    classes := e.classes.set c.val { e.cls c with report := none, timer := .stopped, due := false } c.isLt
    order := if e.mode = .rotating then rotated c else e.order } := by
  unfold EventUnit.clear EventUnit.setCls
  simp only
  split <;> rfl

theorem EventUnit.ackSpecific_match {e : EventUnit} {c : Fin 8} {k : Byte} {rep : Report} (h : (e.cls c).report = some rep) (hk : rep.number = k) :
    e.ackSpecific c k = some (e.clear c) := by
  rw [EventUnit.ackSpecific, h]; exact if_pos hk

theorem EventUnit.ackSpecific_other {e : EventUnit} {c : Fin 8} {k : Byte} (h : ∀ rep, (e.cls c).report = some rep → rep.number ≠ k) :
    e.ackSpecific c k = none := by
  unfold EventUnit.ackSpecific
  cases hr : (e.cls c).report with
  | none => rfl
  | some rep => exact if_neg (h rep hr)

theorem ownAckEvent_specific (s : State) (b k : Byte) (c : Fin 8) (hb : b.toNat = c.val) :
    ownAckEvent s [0#8, b, k] = match s.events.ackSpecific c k with
      | some e => ({ s with events := e }, .okWith [b, k])
      | none => (s, .plain .notInService) := by
  have : ownAckEvent s [0#8, b, k] = match indexOperand 8 [0#8, b, k] 1 with
      | none => (s, .plain .badOperand)
      | some c => (match s.events.ackSpecific c k with
          | some e => ({ s with events := e }, .okWith [byteOf c.val, k])
          | none => (s, .plain .notInService)) := rfl
  rw [this, indexOperand_second 8 0#8 b [k] c hb, ← byteOf_toNat b, hb]

theorem ownAckEvent_badForm (s : State) (form b k : Byte) (h : 1 < form.toNat) :
    ownAckEvent s [form, b, k] = (s, .plain .badOperand) := by
  rw [ownAckEvent, u8_head]
  split
  · omega
  · omega
  · rfl

theorem ownAckEvent_nonSpecific (s : State) (b k : Byte) :
    ownAckEvent s [1#8, b, k] = match s.events.highestInService with
      | none => (s, .plain .notInService)
      | some c => (match (s.events.cls c).report with
          | some r => ({ s with events := s.events.clear c }, .okWith [byteOf c.val, r.number])
          | none => (s, .plain .notInService)) := rfl

theorem inService_iff (e : EventUnit) (c : Fin 8) : e.inService c = true ↔ (e.cls c).report ≠ none := Option.isSome_iff_ne_none

/-- Settles O22: the two forms by their operands and the reports in service. -/
theorem eventsAcknowledged : Obligations.EventsAcknowledged := by
  refine ⟨fun s r n form b k h hops => ⟨fun hbad => ?_, fun c hform hb => ⟨fun rep hrep hk => ?_, fun hno => ?_⟩⟩,
    fun s r n b k h hops => ⟨fun hnone => ?_, fun c rep hc hrep hmin => ?_⟩⟩
  · refine exec_short_answered (own := ownAckEvent) rfl h (fun _ _ => rfl) ?_
    rw [hops]
    rcases hbad with hf | ⟨rfl, hb⟩
    · rw [ownAckEvent_badForm _ form b k hf]; rfl
    · show (match indexOperand 8 [0#8, b, k] 1 with
        | none => (s.inSlot .ackEvent r n, Reply.plain .badOperand)
        | some c => _) = _
      rw [indexOperand_second_none 8 0#8 b [k] hb]; rfl
  · subst hform
    have ho : ownAckEvent (s.inSlot .ackEvent r n) r.operands = ({ s.inSlot .ackEvent r n with events := s.events.clear c }, .okWith [b, k]) := by
      rw [hops, ownAckEvent_specific _ b k c hb, EventUnit.ackSpecific_match (e := (s.inSlot .ackEvent r n).events) hrep hk]; rfl
    rw [exec_short rfl h (fun _ _ => rfl) ho rfl, EventUnit.clear_eq]; rfl
  · subst hform
    refine exec_short_answered (own := ownAckEvent) rfl h (fun _ _ => rfl) ?_
    rw [hops, ownAckEvent_specific _ b k c hb, EventUnit.ackSpecific_other (e := (s.inSlot .ackEvent r n).events) hno]; rfl
  · refine exec_short_answered (own := ownAckEvent) rfl h (fun _ _ => rfl) ?_
    have hfind : (s.inSlot .ackEvent r n).events.highestInService = none :=
      List.find?_eq_none.mpr fun c _ => by rw [inService_iff]; exact Classical.not_not.mpr (hnone c)
    rw [hops, ownAckEvent_nonSpecific, hfind]; rfl
  · have hfind : (s.inSlot .ackEvent r n).events.highestInService = some c :=
      find_of_idxOf_le hc ((inService_iff _ c).mpr (by rw [show (s.inSlot .ackEvent r n).events = s.events from rfl, hrep]; simp))
        (fun d hd hs => hmin d hd ((inService_iff _ d).mp hs))
    have ho : ownAckEvent (s.inSlot .ackEvent r n) r.operands
        = ({ s.inSlot .ackEvent r n with events := s.events.clear c }, .okWith [byteOf c.val, rep.number]) := by
      rw [hops, ownAckEvent_nonSpecific, hfind]
      simp only [show (s.inSlot .ackEvent r n).events = s.events from rfl, hrep]
    rw [exec_short rfl h (fun _ _ => rfl) ho rfl, EventUnit.clear_eq]; rfl

end Sys2Proof.Machine
end

section
/-!
PROOF. The settings of the Event Unit (O23), and events raised and merged (O24).
-/
namespace Sys2Proof.Machine

/-! ## Class flags (Table 10-13) -/

theorem getLsbD_flagByte (b0 b1 b2 b3 b4 b5 b6 b7 : Bool) (c : Fin 8) :
    (flagByte [b0, b1, b2, b3, b4, b5, b6, b7]).getLsbD c.val = #v[b0, b1, b2, b3, b4, b5, b6, b7][c] := by
  revert c b0 b1 b2 b3 b4 b5 b6 b7; decide +kernel

/-- In a byte of class flags bit c stands for class c. -/
theorem getLsbD_flagByte_classes (f : Fin 8 → Bool) (c : Fin 8) : (flagByte (allClasses.map f)).getLsbD c.val = f c := by
  refine (getLsbD_flagByte (f 0) (f 1) (f 2) (f 3) (f 4) (f 5) (f 6) (f 7) c).trans ?_
  match c with
  | 0 | 1 | 2 | 3 | 4 | 5 | 6 | 7 => rfl

/-! ## SET EVENT ORDER (R151) -/

theorem ownSetEventOrder_bad (s : State) (mode low : Byte) (h : 1 < mode.toNat ∨ (7 < low.toNat ∧ low ≠ 0xFF#8)) :
    ownSetEventOrder s [mode, low] = (s, .plain .badOperand) := by
  have h255 : low ≠ 0xFF#8 → low.toNat < 255 := fun hne => by
    have := low.isLt
    have hne' : low.toNat ≠ 255 := fun e => hne ((toNat_eq_iff (by decide)).mp e)
    omega
  exact if_pos (h.imp id (fun ⟨h7, hne⟩ => ⟨h7, h255 hne⟩))

theorem ownSetEventOrder_fixed (s : State) (low : Byte) (h : low.toNat ≤ 7 ∨ low = 0xFF#8) :
    ownSetEventOrder s [0#8, low] = ({ s with events := { s.events with mode := .fixed, order := fixedOrder } }, .plain .ok) := by
  refine (if_neg ?_).trans (if_pos rfl)
  rintro (h1 | ⟨h7, h255⟩)
  · exact absurd h1 (show ¬ 1 < (0#8 : Byte).toNat by decide)
  · rcases h with h | rfl
    · exact absurd h (Nat.not_le.mpr h7)
    · exact absurd h255 (by decide)

theorem ownSetEventOrder_rotating (s : State) (low : Byte) (h : low.toNat ≤ 7 ∨ low = 0xFF#8) :
    ownSetEventOrder s [1#8, low] = ({ s with events := { s.events with
        mode := .rotating
        order := match indexOperand 8 [1#8, low] 1 with
          | some c => rotated c
          | none => s.events.order } }, .plain .ok) := by
  refine (if_neg ?_).trans (if_neg (show ¬ (1#8 : Byte).toNat = 0 by decide))
  rintro (h1 | ⟨h7, h255⟩)
  · exact absurd h1 (show ¬ 1 < (1#8 : Byte).toNat by decide)
  · rcases h with h | rfl
    · exact absurd h (Nat.not_le.mpr h7)
    · exact absurd h255 (by decide)

/-! ## SET REPEAT INTERVAL (R146) -/

theorem ClassEntry.underInterval_eq (x : ClassEntry) (b : Byte) : x.underInterval b.toNat = { x with
    timer := if b = 0#8 then .stopped else if x.report ≠ none ∧ x.due = false then .running (10 * b.toNat) else x.timer
    due := if b = 0#8 then false else x.due } := by
  have h0 : b.toNat = 0 ↔ b = 0#8 := toNat_eq_iff (by decide)
  unfold ClassEntry.underInterval
  by_cases hb : b = 0#8
  · rw [if_pos (h0.mpr hb), if_pos hb, if_pos hb]
  · rw [if_neg (mt h0.mp hb), if_neg hb, if_neg hb]
    simp only [Option.isSome_iff_ne_none]
    split <;> rfl

/-- Settles O23: each owner's effect on the Event Unit. -/
theorem eventSettings : Obligations.EventSettings := by
  refine ⟨fun s r n m h hops => ?_, fun s r n mode low h hops => ⟨fun hbad => ?_, fun hm hl => ?_, fun c hm hl => ?_, fun hm hl => ?_⟩,
    fun s r n b h hops => ?_, fun s r n h => ?_, rfl, rfl, getLsbD_flagByte_classes⟩
  · refine ⟨_, exec_short (own := ownSetEventMask) rfl h (fun _ _ => rfl) rfl rfl, rfl, fun c => getLsbD_flagByte_classes _ c, fun c => ?_⟩
    rw [hops]; exact cls_mask s.events m c
  · refine exec_short_answered (own := ownSetEventOrder) rfl h (fun _ _ => rfl) ?_
    rw [hops, ownSetEventOrder_bad _ mode low hbad]; rfl
  · subst hm
    rw [exec_short rfl h (fun _ _ => rfl) ((congrArg _ hops).trans (ownSetEventOrder_fixed _ low hl)) rfl]; rfl
  · subst hm
    rw [exec_short rfl h (fun _ _ => rfl) ((congrArg _ hops).trans (ownSetEventOrder_rotating _ low (Or.inl (by omega)))) rfl,
      indexOperand_second 8 1#8 low [] c hl]
    rfl
  · subst hm
    rw [exec_short rfl h (fun _ _ => rfl) ((congrArg _ hops).trans (ownSetEventOrder_rotating _ low (Or.inr hl))) rfl,
      indexOperand_second_none 8 1#8 low [] (by rw [hl]; decide)]
    rfl
  · refine ⟨_, exec_short (own := ownSetRepeatInterval) rfl h (fun _ _ => rfl) rfl rfl, ?_, fun c => ?_⟩
    · rw [hops]; rfl
    · rw [hops]; exact (cls_interval s.events b.toNat c).trans (ClassEntry.underInterval_eq _ b)
  · exact exec_short_answered (own := ownReadEvents) rfl h (fun _ _ => rfl) rfl

/-! ## Events raised and merged (O24) -/

/-- Settles O24: the place an event is raised at, and a merge by the class. -/
theorem eventsRaisedAndMerged : Obligations.EventsRaisedAndMerged := by
  refine ⟨fun e src r => ⟨rfl, rfl, fun h => ?_, fun old h => ?_, fun c k hck => e.place_setPlace_ne _ hck⟩,
    ?_, ?_, ?_, ?_, ?_, ?_, ?_, ?_, ?_, ?_, ?_⟩
  · rw [EventUnit.raise, h]; exact e.place_setPlace_same _ _ _
  · rw [EventUnit.raise, h]; exact e.place_setPlace_same _ _ _
  all_goals intros; rfl

end Sys2Proof.Machine
end

section
/-!
PROOF. OPEN LINE (O25), READ LINE, PAUSE INBOUND, RESUME INBOUND and SET AUX (O26), and the completion of PART RESET (O34).
-/
namespace Sys2Proof.Machine

/-! ## OPEN LINE (O25) -/

/-- The decoder at OPEN with decoding off (R117). -/
theorem State.openDecoder_off (s : State) (l : Fin 8) (h : (s.prof l).decoding = false) : s.openDecoder l = s :=
  if_neg (by rw [h]; exact Bool.false_ne_true)

/-- With decoding on the combination present is settled, and its condition entered (R117). -/
theorem State.openDecoder_on (s : State) (l : Fin 8) (x : Line) (p : Profile) (hx : s.line l = x) (hp : s.prof l = p) (h : p.decoding = true) :
    s.openDecoder l =
      if (p.map[x.st].report || p.map[x.st].cond == .invalid) = true then
        (s.setLine l { x with settled := x.st, cond := p.map[x.st].cond, lastReported := p.map[x.st].cond, unreported := 0 }).raise l
          (.condition p.map[x.st].cond x.lastReported x.unreported)
      else s.setLine l { x with settled := x.st, cond := p.map[x.st].cond } := by
  subst hx hp
  refine (if_pos h).trans ?_
  simp only [State.reportCondition, State.mapLine, State.line_setLine_same, State.setLine_setLine]
  rfl

/-- A line opens: its opening values, the quotas reserved, and the condition reported where its entry says so (R6, R43, R117). -/
theorem State.openNow_eq (s : State) (l : Fin 8) :
    s.openNow l =
      let x := s.line l
      let p := s.prof l
      let m := p.map[x.st]
      let told := p.decoding && (m.report || m.cond == .invalid)
      { s.setLine l { x.closedFrom with
          state := .running
          counters := ⟨0, 0, 0, 0, 0, 0, 0, 0, 0, 0⟩
          resOut := p.outQuota
          resIn := p.inQuota
          Lsent := BitVec.ofNat 32 (32 * p.outQuota)
          grantDue := true
          rdyo := true
          settled := if p.decoding then x.st else 0
          cond := if p.decoding then m.cond else .ready
          lastReported := if told then m.cond else .ready } with
        pool := { s.pool with unreserved := s.pool.unreserved - (p.outQuota + p.inQuota) }
        events := if told then s.events.raise l.castSucc (.condition m.cond .ready 0) else s.events } := by
  let u : State := { s.mapLine l (Line.opened (s.prof l)) with
      pool := { s.pool with unreserved := s.pool.unreserved - ((s.prof l).outQuota + (s.prof l).inQuota) } }
  have hl : u.line l = Line.opened (s.prof l) (s.line l) := s.line_mapLine_same l _
  have hp : u.prof l = s.prof l := s.prof_mapLine_same l _ rfl
  have hset : ∀ y, u.setLine l y = { s.setLine l y with
      pool := { s.pool with unreserved := s.pool.unreserved - ((s.prof l).outQuota + (s.prof l).inQuota) } } := fun y => by
    simp only [u, State.mapLine, State.setLine, Vector.set_set]
  show u.openDecoder l = _
  dsimp only
  cases hd : (s.prof l).decoding with
  | false =>
    rw [State.openDecoder_off u l (by rw [hp]; exact hd)]
    simp only [Bool.false_and, Bool.false_eq_true, if_false]; rfl
  | true =>
    rw [State.openDecoder_on u l _ _ hl hp hd]
    simp only [hset, Bool.true_and, if_true]
    show (if ((s.prof l).map[(s.line l).st].report || (s.prof l).map[(s.line l).st].cond == .invalid) = true then _ else _) = _
    split <;> rfl

theorem ownOpenLine_eq (s : State) (a : Byte) (l : Fin 8) (ha : a.toNat = l.val) :
    ownOpenLine s [a] = if (s.line l).state ≠ .closed then (s, .plain .wrongState)
      else if s.pool.unreserved < (s.prof l).outQuota + (s.prof l).inQuota then (s, .plain .noRoom)
      else (s.openNow l, .plain .ok) := by
  rw [ownOpenLine, indexOperand_head 8 a [] l ha]

/-- Settles O25: the refusals in their order, and the line opened. -/
theorem linesOpened : Obligations.LinesOpened := by
  refine ⟨fun _ => rfl, fun s r n a h hops => ⟨fun ha => ?_, fun l ha => ⟨fun ho => ?_, fun hc => ⟨fun hroom => ?_, fun hroom => ?_⟩⟩⟩⟩
  · refine exec_short_answered (own := ownOpenLine) rfl h (fun _ _ => rfl) ?_
    rw [hops, ownOpenLine, indexOperand_head_none 8 a _ ha]; rfl
  · refine exec_short_answered (own := ownOpenLine) rfl h (fun _ _ => rfl) ?_
    rw [hops, ownOpenLine_eq _ a l ha]; exact if_pos ho
  · refine exec_short_answered (own := ownOpenLine) rfl h (fun _ _ => rfl) ?_
    rw [hops, ownOpenLine_eq _ a l ha]; exact (if_neg (Classical.not_not.mpr hc)).trans (if_pos hroom)
  · have ho : ownOpenLine (s.inSlot .openLine r n) r.operands = ((s.inSlot .openLine r n).openNow l, .plain .ok) := by
      rw [hops, ownOpenLine_eq _ a l ha]; exact (if_neg (Classical.not_not.mpr hc)).trans (if_neg (Nat.not_lt.mpr hroom))
    rw [exec_short rfl h (fun _ _ => rfl) ho (by rw [State.openNow_eq]; rfl), State.openNow_eq]; rfl

/-! ## READ LINE, PAUSE INBOUND, RESUME INBOUND, SET AUX (O26) -/

/-- The data of READ LINE, field by field (Table 10-14). -/
theorem Line.data_eq (x : Line) : x.data =
    [byteOf x.state.code, byteOf x.longCode, byteOf x.binding.val, byteOf x.cond.code]
    ++ be32 x.A ++ be32 x.S ++ be32 x.T ++ be32 x.Rt ++ be32 (x.A + BitVec.ofNat 32 x.room)
    ++ [byteOf x.outQ.length, byteOf x.inQ.length, byteOf x.blocks.length, byteOf x.markers.length,
      flagByte [x.stopped, x.resend], byteOf x.retry]
    ++ be16 x.counters.sent ++ be16 x.counters.received ++ be16 x.counters.framing ++ be16 x.counters.parity
    ++ be16 x.counters.overruns ++ be16 x.counters.breaks ++ be16 x.counters.resends ++ be16 x.counters.strayAcks
    ++ be16 x.counters.lateAcks ++ be16 x.counters.refused := by
  simp only [Line.data, Counters.list, List.flatMap_cons, List.flatMap_nil, List.append_assoc, List.append_nil]; rfl

theorem ownReadLine_keep (s : State) (a : Byte) (l : Fin 8) (ha : a.toNat = l.val) :
    ownReadLine s [a, 0#8] = (s, .okWith (s.line l).data) := by
  rw [ownReadLine, indexOperand_head 8 a _ l ha]; rfl

theorem ownReadLine_clear (s : State) (a : Byte) (l : Fin 8) (ha : a.toNat = l.val) :
    ownReadLine s [a, 1#8] = (s.mapLine l (fun ln => { ln with counters := Counters.zero }), .okWith (s.line l).data) := by
  rw [ownReadLine, indexOperand_head 8 a _ l ha]; rfl

theorem toNat_of_indexOperand_head {k : Nat} {a : Byte} {ops : List Byte} {l : Fin k} (h : indexOperand k (a :: ops) 0 = some l) :
    a.toNat = l.val := by
  rcases Nat.lt_or_ge a.toNat k with ha | ha
  · rw [indexOperand_head k a ops ⟨a.toNat, ha⟩ rfl] at h
    exact congrArg Fin.val (Option.some.inj h)
  · rw [indexOperand_head_none k a ops ha] at h; cases h

theorem ownReadLine_bad (s : State) (a b : Byte) (h : 8 ≤ a.toNat ∨ 1 < b.toNat) :
    ownReadLine s [a, b] = (s, .plain .badOperand) := by
  unfold ownReadLine
  split
  · next l hl hb =>
    have ha := toNat_of_indexOperand_head hl
    have hb : b.toNat = 0 := hb
    omega
  · next l hl hb =>
    have ha := toNat_of_indexOperand_head hl
    have hb : b.toNat = 1 := hb
    omega
  · rfl

/-- The paused-inbound flag set or cleared (R110). -/
theorem setPaused_inRange (s : State) (a : Byte) (v : Bool) (l : Fin 8) (ha : a.toNat = l.val) :
    setPaused s [a] v = if (s.line l).state = .closed then (s, .plain .wrongState)
      else (s.mapLine l (fun ln => { ln with paused := v }), .plain .ok) := by
  rw [setPaused, indexOperand_head 8 a _ l ha]

theorem setPaused_bad (s : State) (a : Byte) (v : Bool) (ha : 8 ≤ a.toNat) : setPaused s [a] v = (s, .plain .badOperand) := by
  rw [setPaused, indexOperand_head_none 8 a _ ha]

/-- PAUSE INBOUND and RESUME INBOUND by the line's state (R110). -/
theorem exec_setPaused {i : Instr} {c : ReqCode} {r : Req} {s : State} {n : Fin 4} {a : Byte} (v : Bool) (hi : i.request = some (c, r))
    (h : s.takes c r n) (hto : ∀ x ops, State.toOwner x n c ops = x.short n (fun s ops => setPaused s ops v) ops) (hops : r.operands = [a]) :
    (8 ≤ a.toNat → exec i s = .next (s.turnedAway c r n .badOperand))
    ∧ ∀ l : Fin 8, a.toNat = l.val →
      ((s.line l).state = .closed → exec i s = .next (s.turnedAway c r n .wrongState))
      ∧ ((s.line l).state ≠ .closed → exec i s
          = .next ((s.answered c r n ⟨.ok, []⟩).setLine l { s.line l with paused := v })) := by
  refine ⟨fun ha => exec_short_answered hi h hto ?_, fun l ha => ⟨fun hc => exec_short_answered hi h hto ?_, fun ho => ?_⟩⟩
  · rw [hops]; exact setPaused_bad _ a v ha
  · rw [hops]; exact (setPaused_inRange _ a v l ha).trans (if_pos hc)
  · have hown : setPaused (s.inSlot c r n) r.operands v
        = ((s.inSlot c r n).mapLine l (fun ln => { ln with paused := v }), .plain .ok) := by
      rw [hops]; exact (setPaused_inRange _ a v l ha).trans (if_neg ho)
    rw [exec_short hi h hto hown rfl]; rfl

theorem ownSetAux_inRange (s : State) (a v : Byte) (l : Fin 8) (ha : a.toNat = l.val) :
    ownSetAux s [a, v] = if v.toNat ≤ 1 then
        (s.mapLine l (fun ln => { ln with auxo := v.toNat == 1 }), .okWith [bitByte (s.line l).auxo])
      else (s, .plain .badOperand) := by
  rw [ownSetAux, indexOperand_head 8 a _ l ha]; rfl

theorem room_append (x : Line) (q : List OutCell) (c : OutCell) (h : x.outQ = q ++ [c]) :
    x.room = 32 * (x.resOut - x.outQ.length) + (32 - c.bytes.length) := by
  simp only [Line.room, h, List.getLast?_append, List.getLast?_singleton, Option.some_or]; rfl

/-- Settles O26: each owner by its operands and the line's state. -/
theorem linesReadAndPaused : Obligations.LinesReadAndPaused := by
  refine ⟨fun s r n a b h hops => ⟨fun hbad => ?_, fun l ha => ⟨fun hb => ?_, fun hb => ?_⟩⟩,
    ⟨fun s r n a h hops => exec_setPaused true rfl h (fun _ _ => rfl) hops, fun s r n a h hops => exec_setPaused false rfl h (fun _ _ => rfl) hops,
      fun s r n a v h hops => ⟨fun hbad => ?_, fun l ha hv => ?_⟩⟩,
    rfl, fun x => ⟨fun hl => ?_, fun g hl => ?_⟩, by decide, fun x => ⟨fun hq => ?_, room_append x⟩⟩
  · refine exec_short_answered (own := ownReadLine) rfl h (fun _ _ => rfl) ?_
    rw [hops]; exact ownReadLine_bad _ a b hbad
  · subst hb
    refine exec_short_answered (own := ownReadLine) rfl h (fun _ _ => rfl) ?_
    rw [hops, ownReadLine_keep _ a l ha, State.line_inSlot, Line.data_eq]; rfl
  · subst hb
    rw [exec_short (own := ownReadLine) rfl h (fun _ _ => rfl) ((congrArg _ hops).trans (ownReadLine_clear _ a l ha)) rfl,
      State.line_inSlot, Line.data_eq]; rfl
  · refine exec_short_answered (own := ownSetAux) rfl h (fun _ _ => rfl) ?_
    rw [hops]
    by_cases ha : 8 ≤ a.toNat
    · rw [ownSetAux, indexOperand_head_none 8 a _ ha]; rfl
    · rw [ownSetAux_inRange _ a v ⟨a.toNat, Nat.lt_of_not_le ha⟩ rfl]
      exact if_neg (Nat.not_le.mpr (hbad.resolve_left ha))
  · have hown : ownSetAux (s.inSlot .setAux r n) r.operands
        = ((s.inSlot .setAux r n).mapLine l (fun ln => { ln with auxo := v.toNat == 1 }), .okWith [bitByte (s.line l).auxo]) := by
      rw [hops]; exact (ownSetAux_inRange _ a v l ha).trans (if_pos hv)
    have hbit : (v.toNat == 1) = (v == 1#8) := by
      rw [Bool.eq_iff_iff, beq_iff_eq, beq_iff_eq]; exact toNat_eq_iff (by decide)
    rw [exec_short rfl h (fun _ _ => rfl) hown rfl, hbit]; rfl
  · simp only [Line.longCode, hl]
  · simp only [Line.longCode, hl]
    exact ⟨fun hk => by rw [hk]; rfl, fun hk => by rw [hk]; rfl, fun hk => by rw [hk]; rfl, fun hk => by rw [hk]; rfl⟩
  · simp [Line.room, hq, Config.cellBytes]

/-! ## PART RESET completed (O34) -/

/-- Settles O34: the test made at each event. -/
theorem partResetCompletes : Obligations.PartResetCompletes :=
  ⟨fun s p hp hc => ⟨_, rfl, (testPartReset_thenCompletesReset s).2 p hp hc⟩,
    fun s h => congrArg Host.Outcome.next ((testPartReset_thenCompletesReset s).1 h), fun _ _ _ => Iff.rfl, fun _ _ _ => rfl⟩

end Sys2Proof.Machine
end

section
/-!
PROOF. What follows within an event (O35), breaks sent (O32), and the expiries of the timers (O41).
-/
namespace Sys2Proof.Machine

/-! ## The standing conditions, read out -/

theorem lingers_iff (x : Line) :
    x.lingers = true ↔ (∃ b, x.openBlock = some b ∧ b.ended = false) ∧ x.endWaiting = false ∧ x.T = x.S := by
  unfold Line.lingers
  cases x.openBlock with
  | none => simp
  | some b => simp [and_assoc]

theorem underDrain_iff (x : Line) :
    x.underDrain = true ↔ x.state = .draining ∧ ∃ g, x.long = some g ∧ g.kind = .closeDrain ∧ g.completing = false := by
  unfold Line.underDrain Line.longIs Line.drainTaken
  cases x.long with
  | none => simp
  | some g => cases hc : g.completing <;> simp [hc]

theorem gatesOpen_iff (p : Profile) (x : Line) : x.gatesOpen p = true ↔ (p.outPacing = .code → x.stopped = false)
    ∧ (p.readyGate = true → x.rdyi = true) ∧ (p.decoding = true → x.cond = .ready) := by
  simp only [Line.gatesOpen, Line.stopGate, Line.readyGate, Line.condGate, Bool.and_eq_true, Bool.or_eq_true, bne_iff_ne,
    Bool.not_eq_true', beq_iff_eq, and_assoc, Decidable.imp_iff_not_or, Bool.not_eq_true]

/-- Condition 6 of R66. -/
theorem blockAllows_iff (p : Profile) (x : Line) : x.blockAllows p = true ↔ (p.outPacing = .block →
    (∃ e, x.entryAt x.T = some e ∧ e.sent = false) ∨ x.openBlock ≠ none ∨ x.blocks.length < p.window) := by
  unfold Line.blockAllows
  rw [Bool.or_eq_true, Bool.or_eq_true, Bool.or_eq_true, bne_iff_ne, Option.isSome_iff_ne_none, decide_eq_true_eq, Decidable.imp_iff_not_or,
    or_assoc, or_assoc]
  cases x.entryAt x.T with
  | none => simp
  | some e => simp

theorem dataReady_iff (p : Profile) (x : Line) : x.dataReady p = true ↔ x.sendsData = true ∧ posLt x.T x.S = true ∧ x.endWaiting = false
    ∧ x.barrierAllows = true ∧ x.blockAllows p = true := by
  simp only [Line.dataReady, Bool.and_eq_true, Bool.not_eq_true', and_assoc]

/-- Outbound work waits (R69). -/
theorem workWaits_iff (p : Profile) (x : Line) : x.workWaits p = true ↔ (x.state = .running ∨ x.state = .held ∨ x.underDrain = true)
    ∧ (x.endWaiting = true ∨ (posLt x.T x.S = true ∧ x.barrierAllows = true ∧ (p.outPacing = .block →
      (∃ e, x.entryAt x.T = some e ∧ e.sent = false) ∨ x.openBlock ≠ none ∨ x.blocks.length < p.window))) := by
  rw [Line.workWaits, Bool.and_eq_true, Bool.or_eq_true, sendsData_iff, dataReady_iff, sendsData_iff, ← blockAllows_iff]
  cases x.endWaiting <;> simp

/-! ## The standing updates (O35) -/

theorem drainEnd_eq (x : Line) : x.drainEnd = { x with endWaiting := x.endWaiting || (x.underDrain && x.lingers) } := by
  unfold Line.drainEnd
  cases x.underDrain && x.lingers with
  | false => rw [if_neg Bool.false_ne_true, Bool.or_false]
  | true => rw [if_pos rfl, Bool.or_true]

theorem lingerUpdate_eq (p : Profile) (x : Line) : x.lingerUpdate p = { x with lingerTimer :=
    if p.blockLinger ≠ 0 ∧ x.lingers = true then (if x.lingerTimer = .stopped then .running p.blockLinger else x.lingerTimer) else .stopped } := by
  unfold Line.lingerUpdate
  by_cases h : p.blockLinger ≠ 0 ∧ x.lingers = true
  · rw [if_pos h, if_pos h]
    split
    · next ht => rw [if_pos ht]
    · next n ht => rw [if_neg (by rw [ht]; simp)]
  · rw [if_neg h, if_neg h]

theorem pauseUpdate_eq (p : Profile) (x : Line) : x.pauseUpdate p = { x with
    pause := if x.workWaits p = true ∧ x.gatesOpen p = false then (if x.pause = .none ∧ p.pauseTimeout ≠ 0 then .running else x.pause) else .none
    pauseTimer := if x.workWaits p = true ∧ x.gatesOpen p = false then
      (if x.pause = .none ∧ p.pauseTimeout ≠ 0 then .running p.pauseTimeout else x.pauseTimer) else .stopped } := by
  unfold Line.pauseUpdate
  simp only [Bool.and_eq_true, Bool.not_eq_true']
  by_cases h : x.workWaits p = true ∧ x.gatesOpen p = false
  · simp only [if_pos h]; split <;> rfl
  · simp only [if_neg h]

/-- The standing updates: the drain's end, then the linger timer on the line with it, then the pause episode (R69, R74, R75). -/
theorem standing_eq (p : Profile) (x : Line) :
    x.standing p =
      let y := { x with endWaiting := x.endWaiting || (x.underDrain && x.lingers) }
      { y with
        lingerTimer := if p.blockLinger ≠ 0 ∧ y.lingers = true then (if x.lingerTimer = .stopped then .running p.blockLinger else x.lingerTimer)
          else .stopped
        pause := if y.workWaits p = true ∧ y.gatesOpen p = false then (if x.pause = .none ∧ p.pauseTimeout ≠ 0 then .running else x.pause) else .none
        pauseTimer := if y.workWaits p = true ∧ y.gatesOpen p = false then
          (if x.pause = .none ∧ p.pauseTimeout ≠ 0 then .running p.pauseTimeout else x.pauseTimer) else .stopped } := by
  rw [Line.standing, pauseUpdate_eq, lingerUpdate_eq, drainEnd_eq]; rfl

/-- Settles O35: the law of what follows within an event, and each standing update. -/
theorem standingUpdates : Obligations.StandingUpdates := by
  refine ⟨settle_thenSettles, fun p x => ?_⟩
  intro y
  have hy : y = x.standing p := rfl
  obtain ⟨hframe, hend⟩ : (∃ e t q u, y = { x with endWaiting := e, lingerTimer := t, pause := q, pauseTimer := u })
      ∧ y.endWaiting = (x.endWaiting || (x.underDrain && x.lingers)) := by
    refine ⟨x.standing_frame p, ?_⟩
    rw [hy, standing_eq]
  have hling : y.lingerTimer = if p.blockLinger ≠ 0 ∧ y.lingers = true then (if x.lingerTimer = .stopped then .running p.blockLinger else x.lingerTimer)
      else .stopped := by rw [hy, standing_eq]; rfl
  have hpause : y.pause = if y.workWaits p = true ∧ y.gatesOpen p = false then (if x.pause = .none ∧ p.pauseTimeout ≠ 0 then .running else x.pause)
      else .none := by rw [hy, standing_eq]; rfl
  have hptimer : y.pauseTimer = if y.workWaits p = true ∧ y.gatesOpen p = false then
      (if x.pause = .none ∧ p.pauseTimeout ≠ 0 then .running p.pauseTimeout else x.pauseTimer) else .stopped := by rw [hy, standing_eq]; rfl
  refine ⟨hframe, ?_, fun h => ?_, fun h1 h2 h3 h4 => ?_, fun h => ?_, fun hw hg => ⟨fun h1 h2 => ?_, fun h => ?_⟩, workWaits_iff p x, gatesOpen_iff p x,
    underDrain_iff x, drainDone_iff x, ?_⟩
  · rw [hend, Bool.or_eq_true, Bool.and_eq_true, lingers_iff]
    cases x.endWaiting <;> simp [and_comm]
  · rw [hling, if_neg]
    rintro ⟨h0, hl⟩
    obtain ⟨⟨b, hb, hbe⟩, he, ht⟩ := (lingers_iff y).mp hl
    rcases h with h | h | h | h
    · exact h0 h
    · rw [he] at h; cases h
    · exact h ht
    · rw [h b hb] at hbe; cases hbe
  · rw [hling, if_pos ⟨h1, (lingers_iff y).mpr ⟨h4, h2, h3⟩⟩]
  · have hno : ¬ (y.workWaits p = true ∧ y.gatesOpen p = false) := by
      rintro ⟨hw, hg⟩
      rcases h with h | h
      · rw [h] at hw; cases hw
      · rw [h] at hg; cases hg
    rw [hpause, hptimer, if_neg hno, if_neg hno]; exact ⟨rfl, rfl⟩
  · have hyes : y.workWaits p = true ∧ y.gatesOpen p = false := ⟨hw, hg⟩
    have hnew : x.pause = .none ∧ p.pauseTimeout ≠ 0 := ⟨h1, h2⟩
    rw [hpause, hptimer, if_pos hyes, if_pos hyes, if_pos hnew, if_pos hnew]; exact ⟨rfl, rfl⟩
  · have hyes : y.workWaits p = true ∧ y.gatesOpen p = false := ⟨hw, hg⟩
    have hno : ¬ (x.pause = .none ∧ p.pauseTimeout ≠ 0) := fun ⟨h1, h2⟩ => h.elim (fun h => h h1) h2
    rw [hpause, hptimer, if_pos hyes, if_pos hyes, if_neg hno, if_neg hno]; exact ⟨rfl, rfl⟩
  · unfold Line.flushDone Line.longIs Line.inCharacter
    cases x.long <;> cases x.tx <;> simp

end Sys2Proof.Machine
end

section
/-!
PROOF. Breaks sent (O32) and the expiries of the timers (O41).
-/
namespace Sys2Proof.Machine

/-! ## Breaks (O32) -/

theorem txd_brk {x : Line} (h : x.tx = .brk) : x.txd = [.space] := by rw [Line.txd, h]
theorem txd_rest {x : Line} (h : x.tx = .idle ∨ x.tx = .gap) : x.txd = [.mark] := by
  rcases h with h | h <;> rw [Line.txd, h]

theorem inCharacter_iff (x : Line) : x.inCharacter = true ↔ ∃ ch, x.tx = .character ch := by
  unfold Line.inCharacter
  cases x.tx <;> simp

theorem long_eq_none_of {x : Line} (h : x.long.isSome = false) : x.long = none := Option.isNone_iff_eq_none.mp (by simpa using h)

/-- SEND BREAK by the line's state (R89). -/
theorem ownSendBreak_eq (s : State) (n : Fin 4) (a : Byte) (l : Fin 8) (ha : a.toNat = l.val) :
    ownSendBreak s n [a] = if (s.line l).state = .closed then s.complete n (.plain .wrongState)
      else if (s.line l).long.isSome then s.complete n (.plain .lineBusy)
      else (s.mapLine l (fun x => Line.setLong .sendBreak (some n) 0 0 { x with brk := .pending })).beginPendingBreak l := by
  rw [ownSendBreak, indexOperand_head 8 a _ l ha]

/-- A pending break with no character in the shift register begins (R89, R90). -/
theorem beginPendingBreak_begins (s : State) (l : Fin 8) (ho : (s.line l).isOpen) (hb : (s.line l).brk = .pending)
    (hc : (s.line l).inCharacter = false) (hf : (s.line l).flushDone = false) :
    s.beginPendingBreak l = s.setLine l (Line.standing (s.prof l)
      { s.line l with brk := .inProgress, tx := .brk, gapTimer := .stopped, breakTimer := .running (s.prof l).breakTime }) := by
  have hflush : (Line.beginBreak (s.prof l) (s.line l)).flushDone = false :=
    (flushDone_congr (s.line l) (Line.beginBreak (s.prof l) (s.line l)) rfl hc.symm).trans hf
  exact (if_pos ⟨hb, hc⟩).trans (settle_setLine_isOpen s l _ rfl ho hflush)

theorem beginPendingBreak_waits (s : State) (l : Fin 8) (hc : (s.line l).inCharacter = true) : s.beginPendingBreak l = s :=
  if_neg (fun h => by rw [hc] at h; cases h.2)

/-- The break ends at the expiry of its timer, and its request with it (R90). -/
theorem endBreak_eq (s : State) (l : Fin 8) (g : LongReq) (ho : (s.line l).isOpen) (hb : (s.line l).brk = .inProgress)
    (ht : (s.line l).breakTimer ≠ .stopped) (hg : (s.line l).long = some g) (hk : g.kind = .sendBreak) :
    s.endBreak l = { s.setLine l (Line.standing (s.prof l)
        { s.line l with
          long := none
          brk := .none
          breakTimer := .stopped
          tx := if (s.prof l).gap = 0 then .idle else .gap
          gapTimer := if (s.prof l).gap = 0 then (s.line l).gapTimer else .running (s.prof l).gap }) with
      reqs := s.reqs.answerLong g ⟨.ok, []⟩ } := by
  have hlong : (s.line l).longIs .sendBreak = true := by simp [Line.longIs, hg, hk]
  have hgap : Line.enterGap (s.prof l) { s.line l with brk := .none, breakTimer := .stopped } = { s.line l with
      brk := .none
      breakTimer := .stopped
      tx := if (s.prof l).gap = 0 then .idle else .gap
      gapTimer := if (s.prof l).gap = 0 then (s.line l).gapTimer else .running (s.prof l).gap } := by
    unfold Line.enterGap; split <;> rfl
  refine (if_pos ⟨hb, ht⟩).trans ?_
  simp only [hlong, if_true, State.mapLine, hgap]
  rw [finishLong_eq, State.setLine_setLine, State.line_setLine_same]
  simp only [hg]
  exact settle_setLine_with s l _ s.events _ rfl ho rfl

/-- Settles O32: the break asked for, begun, and ended. -/
theorem breaksSent : Obligations.BreaksSent := by
  refine ⟨fun s r n a h hops => ⟨fun ha => ?_, fun l ha => ⟨fun hc => ?_, fun hc hl => ?_, fun ho hl hch => ?_, fun ho hl hch => ?_⟩⟩,
    fun s l ho hb hc hf => congrArg Host.Outcome.next (beginPendingBreak_begins s l ho hb hc hf),
    fun s l g ho hb ht hg hk => congrArg Host.Outcome.next (endBreak_eq s l g ho hb ht hg hk), fun x => ⟨txd_brk, txd_rest, inCharacter_iff x⟩⟩
  · refine exec_turnedAway rfl h ?_
    rw [hops]; show ownSendBreak _ n [a] = _
    rw [ownSendBreak, indexOperand_head_none 8 a _ ha]
  · refine exec_turnedAway rfl h ?_
    rw [hops]; exact (ownSendBreak_eq _ n a l ha).trans (if_pos hc)
  · refine exec_turnedAway rfl h ?_
    rw [hops]; exact (ownSendBreak_eq _ n a l ha).trans ((if_neg hc).trans (if_pos (Option.isSome_iff_ne_none.mpr hl)))
  all_goals
    have hown : (s.inSlot .sendBreak r n).toOwner n .sendBreak r.operands = ((s.inSlot .sendBreak r n).setLine l
        { s.line l with long := some ⟨.sendBreak, some n, false, 0, 0⟩, brk := .pending }).beginPendingBreak l := by
      rw [hops]
      exact (ownSendBreak_eq _ n a l ha).trans ((if_neg ((isOpen_iff _).mp ho).1).trans
        (if_neg (show ¬ (s.line l).long.isSome = true by rw [hl]; exact Bool.false_ne_true)))
    rw [exec_owner rfl h, hown]
  · rw [beginPendingBreak_waits _ l (by rw [State.line_setLine_same]; exact hch)]
  · rw [beginPendingBreak_begins _ l (by rw [State.line_setLine_same]; exact ho) (by rw [State.line_setLine_same])
      (by rw [State.line_setLine_same]; exact hch) (by rw [State.line_setLine_same]; rfl), State.setLine_setLine, State.line_setLine_same,
      State.prof_setLine_same (s.inSlot .sendBreak r n) l { s.line l with long := some ⟨.sendBreak, some n, false, 0, 0⟩, brk := .pending } rfl]
    rfl

/-! ## Timers (O41) -/

/-- The current inbound cell is the newest, when it is not sealed (R4). -/
theorem currentCell_append {x : Line} {q : List InCell} {c : InCell} (h : x.inQ = q ++ [c]) :
    x.currentCell = if c.isSealed then none else some c := by
  rw [Line.currentCell, h, List.getLast?_append, List.getLast?_singleton, Option.some_or]

theorem sealCurrent_append {x : Line} {q : List InCell} {c : InCell} (h : x.inQ = q ++ [c]) (hs : c.isSealed = false) :
    x.sealCurrent = { x with inQ := q ++ [{ c with isSealed := true }], idleTimer := .stopped } := by
  have hcur : x.currentCell = some c := (currentCell_append h).trans (if_neg (by rw [hs]; exact Bool.false_ne_true))
  rw [Line.sealCurrent, hcur]
  simp only [h, List.dropLast_concat]

/-- The causes of a pause (R70). -/
theorem pauseCauses_eq (p : Profile) (x : Line) : x.pauseCauses p =
    { stopCode := decide (p.outPacing = .code) && x.stopped
      readyLow := p.readyGate && !x.rdyi
      condition := p.decoding && decide (x.cond ≠ .ready) } := by
  have hcode : (!(p.outPacing != .code || !x.stopped)) = (decide (p.outPacing = .code) && x.stopped) := by
    cases p.outPacing <;> cases x.stopped <;> rfl
  have hready : (!(!p.readyGate || x.rdyi)) = (p.readyGate && !x.rdyi) := by cases p.readyGate <;> rfl
  have hcond : (!(!p.decoding || x.cond == .ready)) = (p.decoding && decide (x.cond ≠ .ready)) := by
    cases p.decoding <;> cases x.cond <;> rfl
  simp only [Line.pauseCauses, Line.stopGate, Line.readyGate, Line.condGate, hcode, hready, hcond]

/-- Settles O41: each expiry of a timer that runs. -/
theorem timersExpire : Obligations.TimersExpire := by
  refine ⟨fun s l hg ht => congrArg Host.Outcome.next (if_pos ⟨hg, ht⟩), ⟨fun s l hp ht => ?_, fun s l ht => congrArg Host.Outcome.next (if_pos ht)⟩,
    fun s l q c ht hq hs => ?_, fun _ _ _ => rfl, fun s c ht => ?_, fun s ht => congrArg Host.Outcome.next (if_neg ht)⟩
  · rw [← pauseCauses_eq]; exact congrArg Host.Outcome.next (if_pos ⟨hp, ht⟩)
  · refine congrArg Host.Outcome.next ((if_pos ht).trans ?_)
    rw [State.mapLine, sealCurrent_append (x := { s.line l with idleTimer := .stopped }) hq hs]
  · exact congrArg (fun e => Host.Outcome.next { s with events := e }) (if_neg ht)

end Sys2Proof.Machine
end

section
/-!
PROOF. The transmitter's choice: inbound-pacing codes (O36), inserted ends and framing (O37), and data bytes (O38).
-/
namespace Sys2Proof.Machine

/-! ## What may go (R64, R66) -/

theorem codeMayGo_iff (p : Profile) (x : Line) :
    x.codeMayGo p = true ↔ p.inPacing = .code ∧ x.wanted ≠ x.lastSent ∧ x.working = true ∧ x.brk = .none := by
  simp only [Line.codeMayGo, Bool.and_eq_true, beq_iff_eq, bne_iff_ne, and_assoc]

theorem endMayGo_iff (p : Profile) (x : Line) :
    x.endMayGo p = true ↔ x.endWaiting = true ∧ x.sendsData = true ∧ x.gatesOpen p = true ∧ x.brk = .none := by
  simp only [Line.endMayGo, Bool.and_eq_true, beq_iff_eq, and_assoc]

theorem dataMayGo_iff (p : Profile) (x : Line) :
    x.dataMayGo p = true ↔ x.dataReady p = true ∧ x.gatesOpen p = true ∧ x.brk = .none := by
  simp only [Line.dataMayGo, Bool.and_eq_true, beq_iff_eq, and_assoc]

theorem choose_code {p : Profile} {x : Line} (h : x.codeMayGo p = true) : x.choose p = x.startCode p := if_pos h

theorem choose_end {p : Profile} {x : Line} (hc : ¬ x.codeMayGo p = true) (h : x.endMayGo p = true) : x.choose p = x.startEnd p :=
  (if_neg hc).trans (if_pos h)

theorem choose_data {p : Profile} {x : Line} {b : Byte} (hc : ¬ x.codeMayGo p = true) (he : ¬ x.endMayGo p = true)
    (h : x.dataMayGo p = true) (hb : x.byteAt x.T = some b) : x.choose p = x.startData p b := by
  refine (if_neg hc).trans ((if_neg he).trans ((if_pos h).trans ?_))
  rw [hb]

theorem choose_nothing {p : Profile} {x : Line} (hc : ¬ x.codeMayGo p = true) (he : ¬ x.endMayGo p = true)
    (h : ¬ x.dataMayGo p = true) : x.choose p = x := (if_neg hc).trans ((if_neg he).trans (if_neg h))

/-- Where nothing may go, there is only what follows within the event (R64). -/
theorem exec_choice_nothing (s : State) (l : Fin 8) (h : (s.line l).tx = .idle) (hy : (s.line l).choose (s.prof l) = s.line l) :
    exec (.transmitterChoice l) s = .next (s.settle l) := by
  refine congrArg Host.Outcome.next ((if_pos h).trans ?_)
  rw [State.mapLine, hy, State.setLine_line]

theorem working_false {x : Line} (h : x.state = .closed ∨ (x.state = .draining ∧ x.underDrain = false)) : ¬ x.working = true := by
  rw [working_iff]
  rintro (ho | hd)
  · obtain ⟨h1, h2⟩ := (isOpen_iff x).mp ho
    exact h.elim h1 (fun h => h2 h.1)
  · rcases h with h | h
    · have := ((underDrain_iff x).mp hd).1; rw [h] at this; cases this
    · rw [h.2] at hd; cases hd

theorem working_of_sendsData {x : Line} (h : x.sendsData = true) : x.working = true := by rw [Line.working, h]; rfl

/-- Nothing of a line's own goes while a break is pending or in progress, or in a state that sends nothing (R64, R66). -/
theorem nothing_of_brk {p : Profile} {x : Line} (h : x.brk ≠ .none ∨ x.sendsData = false) : ¬ x.endMayGo p = true ∧ ¬ x.dataMayGo p = true := by
  rw [endMayGo_iff, dataMayGo_iff, dataReady_iff]
  refine ⟨?_, ?_⟩
  · rintro ⟨-, hs, -, hb⟩
    exact h.elim (fun h => h hb) (fun h => by rw [h] at hs; cases hs)
  · rintro ⟨⟨hs, -⟩, -, hb⟩
    exact h.elim (fun h => h hb) (fun h => by rw [h] at hs; cases hs)

theorem sendsData_false {x : Line} (h : x.state = .stalled ∨ ¬ x.working = true) : x.sendsData = false := by
  rw [Bool.eq_false_iff]
  intro hs
  rcases h with h | h
  · rcases (sendsData_iff x).mp hs with h' | h' | h'
    · rw [h] at h'; cases h'
    · rw [h] at h'; cases h'
    · have := ((underDrain_iff x).mp h').1; rw [h] at this; cases this
  · exact h (working_of_sendsData hs)

theorem isOpen_or_underDrain {x : Line} (h : x.sendsData = true) : x.isOpen ∨ x.underDrain = true := (working_iff x).mp (working_of_sendsData h)

/-! ## Inbound-pacing codes (O36) -/

theorem afterCharacter_eq (p : Profile) (x : Line) : Line.afterCharacter p x =
    if x.brk = .pending then { x with tx := .brk, brk := .inProgress, gapTimer := .stopped, breakTimer := .running p.breakTime }
    else if p.gap = 0 then { x with tx := .idle } else { x with tx := .gap, gapTimer := .running p.gap } := by
  unfold Line.afterCharacter Line.enterGap
  split <;> rfl

/-- Settles O36: the code first of all, and its completion. -/
theorem pacingCodesSent : Obligations.PacingCodesSent := by
  refine ⟨fun s l => ⟨fun hx => congrArg Host.Outcome.next (if_neg hx), fun hx hp hw hb ho => ?_, fun hx hp hw h => ?_⟩, fun s l ch hx hk => ?_⟩
  · have hgo : (s.line l).codeMayGo (s.prof l) = true := (codeMayGo_iff _ _).mpr ⟨hp, hw, (working_iff _).mpr ho, hb⟩
    exact exec_choice_idle s l _ hx (choose_code hgo) rfl _ rfl ho
  · have hno : (s.line l).brk ≠ .none ∨ ¬ (s.line l).working = true := h.imp id working_false
    have hcode : ¬ (s.line l).codeMayGo (s.prof l) = true := fun hgo => by
      obtain ⟨-, -, hwk, hbrk⟩ := (codeMayGo_iff _ _).mp hgo
      exact hno.elim (fun h => h hbrk) (fun h => h hwk)
    obtain ⟨he, hd⟩ := nothing_of_brk (p := s.prof l) (hno.imp id (fun h => sendsData_false (Or.inr h)))
    exact exec_choice_nothing s l hx (choose_nothing hcode he hd)
  · refine congrArg Host.Outcome.next ?_
    show State.characterCompletion s l = _
    unfold State.characterCompletion
    rw [hx]
    simp only [State.pacerCompletes, hk, State.mapLine_mapLine]
    rw [State.mapLine, afterCharacter_eq]; rfl

/-! ## Inserted ends and framing (O37) -/

theorem foldl_bne (bits : List Bool) : ∀ acc : Bool, bits.foldl (fun a b => a != b) acc = (acc != (bits.count true % 2 == 1)) := by
  induction bits with
  | nil => intro acc; cases acc <;> rfl
  | cons b bits ih =>
    intro acc
    rw [List.foldl_cons, ih, List.count_cons]
    rcases Nat.mod_two_eq_zero_or_one (bits.count true) with h | h <;> cases b <;> cases acc <;> simp [h, Nat.add_mod]

/-- The parity of data bits is that of the number of ones (R27). -/
theorem parityBit_frameChar (p : Profile) (b : Byte) (bits : List Bool) (hb : (frameChar p b).dataBits = bits) :
    (p.parity = .even → (frameChar p b).parityBit = some (bits.count true % 2 == 1))
    ∧ (p.parity = .odd → (frameChar p b).parityBit = some (bits.count true % 2 == 0)) := by
  subst hb
  have hfold := foldl_bne (frameChar p b).dataBits false
  refine ⟨fun h => ?_, fun h => ?_⟩
  · show parityBitOf p.parity _ = _
    rw [h]; exact congrArg some (hfold.trans (Bool.false_bne _))
  · show parityBitOf p.parity _ = _
    rw [h]; refine congrArg some ((congrArg _ (hfold.trans (Bool.false_bne _))).trans ?_)
    rcases Nat.mod_two_eq_zero_or_one ((frameChar p b).dataBits.count true) with h | h <;> rw [h] <;> rfl

theorem byteOfBits_bits (b : Byte) :
    byteOfBits ((List.range 8).map (fun i => if b.getLsbD i then Level.mark else .space)) = b := by
  revert b; decide +kernel

/-- An end that waits goes next (R64). -/
theorem choose_insertedEnd (s : State) (l : Fin 8) (hw : (s.prof l).inPacing ≠ .code ∨ (s.line l).wanted = (s.line l).lastSent)
    (hb : (s.line l).brk = .none) (hst : (s.line l).sendsData = true) (he : (s.line l).endWaiting = true)
    (hg : (s.line l).gatesOpen (s.prof l) = true) : (s.line l).choose (s.prof l) = (s.line l).startEnd (s.prof l) :=
  choose_end (codeMayGo_false hw) ((endMayGo_iff _ _).mpr ⟨he, hst, hg, hb⟩)

/-- The inserted end of the open block (R54). -/
theorem startEnd_open {p : Profile} {x : Line} {b : OpenBlock} (h : x.openBlock = some b) :
    x.startEnd p = { x with
      tx := .character ⟨.insertedEnd, p.blockEnd, .openEnd, frameChar p p.blockEnd⟩
      openBlock := some { b with ended := true }
      endWaiting := false } := by
  rw [Line.startEnd, h]; rfl

/-- The inserted end of an entry that is sent again (R60). -/
theorem startEnd_entry {p : Profile} {x : Line} (h : x.openBlock = none) :
    x.startEnd p = { x with
      tx := .character ⟨.insertedEnd, p.blockEnd, .entryEnd x.T, frameChar p p.blockEnd⟩
      endWaiting := false } := by
  simp only [Line.startEnd, h]
  cases x; subst h; rfl

/-- Settles O37: the end of the open block or of an entry, and the framing read off its definitions. -/
theorem insertedEndsAndFraming : Obligations.InsertedEndsAndFraming := by
  refine ⟨fun s l => ?_, fun p b => ⟨rfl, rfl, ?_, rfl, fun i hi => ?_, fun h => ?_, fun h => ?_, fun h => ?_, (parityBit_frameChar p b _ rfl).1,
      (parityBit_frameChar p b _ rfl).2⟩, fun f => ?_, fun x => ⟨fun ch h => ?_, txd_brk, txd_rest⟩, fun b => ⟨rfl, rfl, rfl⟩,
    fun t => ⟨fun h => ?_, fun f h => ?_⟩, fun b stop bits hbits => ?_⟩
  · intro x p hx hw hb hst he hg
    have hsends := (sendsData_iff x).mpr hst
    have hchoose := choose_insertedEnd s l hw hb hsends he hg
    refine ⟨fun b hob => ?_, fun hob => ?_⟩
    · exact exec_choice_idle s l _ hx (hchoose.trans (startEnd_open hob)) rfl _ rfl (isOpen_or_underDrain hsends)
    · exact exec_choice_idle s l _ hx (hchoose.trans (startEnd_entry hob)) rfl _ rfl (isOpen_or_underDrain hsends)
  · simp [frameChar, dataBitList]
  · simp [frameChar, dataBitList, hi]
  · rw [frameChar, h]; rfl
  · rw [frameChar, h]; rfl
  · rw [frameChar, h]; rfl
  · rw [CharFrame.levels, List.flatMap_append, ← List.append_assoc]
    cases f.stopBits <;> rfl
  · rw [Line.txd, h]
  · rw [Trunk.ttx, h]
  · rw [Trunk.ttx, h]; rfl
  · subst hbits
    refine ⟨?_, rfl⟩
    cases stop with
    | mark => exact congrArg (fun v => some (TrunkChar.byte v)) (byteOfBits_bits b)
    | space => rfl

end Sys2Proof.Machine
end

section
/-!
PROOF. Data bytes start (O38): which byte goes at T, and what its start makes of the open block.
-/
namespace Sys2Proof.Machine

/-! ## The byte at a position (R9, R11) -/

theorem posLe_iff (a b : Pos) : posLe a b = true ↔ (b - a).toNat < 2 ^ 31 := decide_eq_true_iff

theorem posLt_iff (a b : Pos) : posLt a b = true ↔ a ≠ b ∧ (b - a).toNat < 2 ^ 31 := by
  rw [posLt, Bool.and_eq_true, bne_iff_ne, posLe_iff]

/-- Cells that cover positions end as far on as they hold bytes (R9). -/
theorem cellsCover_end : ∀ (cs : List OutCell) (a b : Pos), cellsCover a cs b →
    b = a + BitVec.ofNat 32 (cs.flatMap OutCell.bytes).length
  | [], a, b, h => by rw [← show a = b from h]; simp
  | c :: cs, a, b, ⟨_, _, _, h⟩ => by
    rw [cellsCover_end cs _ b h, List.flatMap_cons, List.length_append]
    bv_omega

theorem toNat_sub_add {q a : Pos} {n : Nat} (h : n ≤ (q - a).toNat) : (q - (a + BitVec.ofNat 32 n)).toNat = (q - a).toNat - n := by
  bv_omega

/-- In cells that cover positions, the byte of the first cell that has one at a position is that of all their bytes, in order. -/
theorem findSome_of_cellsCover (q : Pos) : ∀ (cs : List OutCell) (a b : Pos), cellsCover a cs b →
    (q - a).toNat < (cs.flatMap OutCell.bytes).length →
    cs.findSome? (fun c => c.bytes[(q - c.first).toNat]?) = (cs.flatMap OutCell.bytes)[(q - a).toNat]?
  | [], _, _, _, hlt => absurd hlt (Nat.not_lt_zero _)
  | c :: cs, a, b, ⟨hfirst, _, _, hrest⟩, hlt => by
    subst hfirst
    rw [List.flatMap_cons, List.length_append] at hlt
    rw [List.flatMap_cons]
    rcases Nat.lt_or_ge (q - c.first).toNat c.bytes.length with hin | hout
    · rw [List.findSome?_cons_of_isSome (by rw [List.getElem?_eq_getElem hin]; rfl), List.getElem?_append_left hin]
    · have hnext := toNat_sub_add hout
      rw [List.findSome?_cons_of_isNone (by rw [List.getElem?_eq_none hout]; rfl),
        findSome_of_cellsCover q cs _ b hrest (by omega), hnext, List.getElem?_append_right hout]

/-- Positions below S lie among the queue's bytes (R11). -/
theorem lt_length_of_off {x : Line} {q : Pos} {c : OutCell} {cs : List OutCell} (hq : x.outQ = c :: cs) (hc : x.queueCovers)
    (hlt : x.off q < x.off x.S) : (q - c.first).toNat < (x.outQ.flatMap OutCell.bytes).length := by
  unfold Line.queueCovers at hc
  simp only [hq] at hc
  obtain ⟨hrt, hcover⟩ := hc
  have hend := cellsCover_end _ _ _ hcover
  have hlen : c.bytes.length ≤ ((c :: cs).flatMap OutCell.bytes).length := by
    rw [List.flatMap_cons, List.length_append]; exact Nat.le_add_right _ _
  rw [hq]
  generalize ((c :: cs).flatMap OutCell.bytes).length = total at hend hlen ⊢
  unfold Line.off at hlt
  rw [hend] at hlt
  bv_omega

theorem byteAt_of_queueCovers (x : Line) (q : Pos) (hc : x.queueCovers) (hlt : x.off q < x.off x.S) : ∃ c cs, x.outQ = c :: cs
    ∧ (q - c.first).toNat < (x.outQ.flatMap OutCell.bytes).length
    ∧ x.byteAt q = (x.outQ.flatMap OutCell.bytes)[(q - c.first).toNat]? := by
  cases hq : x.outQ with
  | nil =>
    unfold Line.queueCovers at hc
    simp only [hq] at hc
    unfold Line.off at hlt
    rw [hc, BitVec.sub_self] at hlt
    exact absurd hlt (Nat.not_lt_zero _)
  | cons c cs =>
    have hd := lt_length_of_off hq hc hlt
    unfold Line.queueCovers at hc
    simp only [hq] at hc
    rw [hq] at hd
    refine ⟨c, cs, rfl, hd, ?_⟩
    rw [Line.byteAt, hq]
    exact findSome_of_cellsCover q _ _ _ hc.2 hd

/-! ## The start of a data byte (R67, R73, R74, R85) -/

theorem barrierAllows_iff (x : Line) : x.barrierAllows = true ↔ ∀ m, x.barrier = some m → posLe x.T m.pos = true := by
  unfold Line.barrierAllows
  cases x.barrier with
  | none => simp
  | some m => simp

theorem barrierAt_iff (x : Line) (q : Pos) : x.barrierAt q = true ↔ ∃ m, x.barrier = some m ∧ m.pos = q := by
  unfold Line.barrierAt
  cases x.barrier with
  | none => simp
  | some m => simp

theorem startData_plain {p : Profile} {x : Line} (b : Byte) (h : p.outPacing ≠ .block) : x.startData p b =
    { x with tx := .character ⟨.data x.T, b, .noEnd, frameChar p b⟩, T := x.T + 1 } := by
  unfold Line.startData
  cases hp : p.outPacing with
  | block => exact absurd hp h
  | _ => rfl

theorem startData_resent {p : Profile} {x : Line} (b : Byte) {e : Block} (h : p.outPacing = .block) (he : x.entryAt x.T = some e)
    (hw : x.endWaiting = false) : x.startData p b = { x with
      tx := .character ⟨.data x.T, b, if x.T + 1 = e.fin ∧ e.kind = .inData then .entryEnd e.fin else .noEnd, frameChar p b⟩
      T := x.T + 1
      endWaiting := decide (x.T + 1 = e.fin ∧ e.kind = .inserted) } := by
  unfold Line.startData
  simp only [h, he, Line.startResent, Line.shift, hw, Bool.false_or, Bool.and_eq_true, beq_iff_eq]
  rw [show (x.T + 1 == e.fin && e.kind == EndKind.inserted) = decide (x.T + 1 = e.fin ∧ e.kind = .inserted) by
    rw [Bool.eq_iff_iff]; simp]

theorem startData_first {p : Profile} {x : Line} (b : Byte) (h : p.outPacing = .block) (he : x.entryAt x.T = none)
    (hw : x.endWaiting = false) {st : Pos} {n : Nat}
    (ho : x.openBlock = none ∧ st = x.T ∧ n = 1 ∨ ∃ o, x.openBlock = some o ∧ st = o.start ∧ n = o.count + 1) :
    x.startData p b = { x with
      tx := .character ⟨.data x.T, b, if b = p.blockEnd then .openEnd else .noEnd, frameChar p b⟩
      T := x.T + 1
      openBlock := some ⟨st, n, decide (b = p.blockEnd)⟩
      endWaiting := decide (b ≠ p.blockEnd ∧ (p.blockLimit ≤ n ∨ ∃ m, x.barrier = some m ∧ m.pos = x.T)) } := by
  have hwait : (!(b == p.blockEnd) && (decide (p.blockLimit ≤ n) || x.barrierAt x.T))
      = decide (b ≠ p.blockEnd ∧ (p.blockLimit ≤ n ∨ ∃ m, x.barrier = some m ∧ m.pos = x.T)) := by
    rw [Bool.eq_iff_iff]; simp [barrierAt_iff]
  have hend : (b == p.blockEnd) = decide (b = p.blockEnd) := rfl
  rw [← hwait]
  unfold Line.startData
  simp only [h, he, Line.startFirst, Line.shift, hw, Bool.false_or]
  rcases ho with ⟨ho, rfl, rfl⟩ | ⟨o, ho, rfl, rfl⟩ <;> simp only [ho, beq_iff_eq] <;> rfl

/-- A byte that may go starts (R64). -/
theorem exec_choice_data (s : State) (l : Fin 8) {b : Byte} {y : Line} {ch : ShiftChar} (hx : (s.line l).tx = .idle)
    (hw : (s.prof l).inPacing ≠ .code ∨ (s.line l).wanted = (s.line l).lastSent) (he : (s.line l).endWaiting = false)
    (hd : (s.line l).dataMayGo (s.prof l) = true) (hb : (s.line l).byteAt (s.line l).T = some b)
    (hy : (s.line l).startData (s.prof l) b = y) (hc : y.tx = .character ch)
    (hsame : y.binding = (s.line l).binding ∧ y.state = (s.line l).state ∧ y.long = (s.line l).long) :
    exec (.transmitterChoice l) s = .next (s.setLine l (Line.standing (s.prof l) y)) := by
  obtain ⟨hready, -, -⟩ := (dataMayGo_iff _ _).mp hd
  have hopen := isOpen_or_underDrain ((dataReady_iff _ _).mp hready).1
  have hend : ¬ (s.line l).endMayGo (s.prof l) = true := fun h => by
    have := ((endMayGo_iff _ _).mp h).1; rw [he] at this; cases this
  obtain ⟨hbind, hstate, hlong⟩ := hsame
  refine exec_choice_idle s l y hx ((choose_data (codeMayGo_false hw) hend hd hb).trans hy) hbind ch hc (hopen.imp (fun h => ?_) (fun h => ?_))
  · rw [isOpen_iff, hstate]; exact (isOpen_iff _).mp h
  · rw [underDrain_iff, hstate, hlong]; exact (underDrain_iff _).mp h

/-- Settles O38: the byte at T starts where its gate is open, and nothing goes where it is shut. -/
theorem dataBytesStart : Obligations.DataBytesStart := by
  refine ⟨fun s l b => ?_, fun s l => ?_, gatesOpen_iff, byteAt_of_queueCovers, fun x => ⟨rfl, barrierAllows_iff x, fun _ => rfl⟩,
    fun a b => ⟨posLe_iff a b, posLt_iff a b⟩⟩
  · intro x p hx hw hbrk hst he hg hlt hbar hb start
    have hsends := (sendsData_iff x).mpr hst
    have hgo : x.blockAllows p = true → x.dataMayGo p = true := fun h =>
      (dataMayGo_iff p x).mpr ⟨(dataReady_iff p x).mpr ⟨hsends, hlt, he, hbar, h⟩, hg, hbrk⟩
    refine ⟨fun hp => ?_, fun hp e hent h => ?_, fun hp hent h st n ho => ?_, fun hp hob hlen hent => ?_⟩
    · exact exec_choice_data s l hx hw he (hgo ((blockAllows_iff p x).mpr (fun h => absurd h hp))) hb (startData_plain b hp) rfl ⟨rfl, rfl, rfl⟩
    · have hallow : x.blockAllows p = true := (blockAllows_iff p x).mpr (fun _ => h.imp_left (fun h => ⟨e, hent, h⟩))
      exact exec_choice_data s l hx hw he (hgo hallow) hb (startData_resent b hp hent he) rfl ⟨rfl, rfl, rfl⟩
    · have hallow : x.blockAllows p = true := (blockAllows_iff p x).mpr (fun _ => Or.inr h)
      exact exec_choice_data s l hx hw he (hgo hallow) hb (startData_first b hp hent he ho) rfl ⟨rfl, rfl, rfl⟩
    · refine exec_choice_nothing s l hx (choose_nothing (codeMayGo_false hw) (fun h => ?_) (fun h => ?_))
      · have := ((endMayGo_iff _ _).mp h).1; rw [he] at this; cases this
      · obtain ⟨hready, -, -⟩ := (dataMayGo_iff _ _).mp h
        obtain ⟨-, -, -, -, hallow⟩ := (dataReady_iff _ _).mp hready
        rcases (blockAllows_iff p x).mp hallow hp with ⟨e, h1, h2⟩ | h | h
        · rw [hent e h1] at h2; cases h2
        · exact h hob
        · omega
  · intro x p hx hw hno
    have hshut : ¬ x.endMayGo p = true ∧ ¬ x.dataMayGo p = true := by
      rcases hno with ⟨he, hpos⟩ | hg | hb | hst | hst | hst
      · rw [endMayGo_iff, dataMayGo_iff, dataReady_iff]
        refine ⟨fun h => ?_, fun h => ?_⟩
        · rw [he] at h; cases h.1
        · obtain ⟨⟨-, hlt, -, hbar, -⟩, -⟩ := h
          rcases hpos with h | ⟨m, hm, h⟩
          · rw [h] at hlt; cases hlt
          · rw [(barrierAllows_iff x).mp hbar m hm] at h; cases h
      · rw [endMayGo_iff, dataMayGo_iff]
        refine ⟨fun ⟨_, _, h, _⟩ => ?_, fun ⟨_, h, _⟩ => ?_⟩ <;> rw [hg] at h <;> cases h
      · exact nothing_of_brk (Or.inl hb)
      · exact nothing_of_brk (Or.inr (sendsData_false (Or.inl hst)))
      · exact nothing_of_brk (Or.inr (sendsData_false (Or.inr (working_false (Or.inl hst)))))
      · exact nothing_of_brk (Or.inr (sendsData_false (Or.inr (working_false (Or.inr hst)))))
    exact exec_choice_nothing s l hx (choose_nothing (codeMayGo_false hw) hshut.1 hshut.2)

end Sys2Proof.Machine
end

section
/-!
PROOF. The completion of a character: of a data byte in NONE or CODE mode (O39), and of a block's end in BLOCK mode (O40).
-/
namespace Sys2Proof.Machine

/-! ## What a completion does last (R63, R90) -/

/-- The count of the character, the work of the pacer, the state of the transmitter, and what follows (R63). -/
theorem exec_completion (s : State) (l : Fin 8) {ch : ShiftChar} {y : Line} {ev : EventUnit} {pl : Pool} (hx : (s.line l).tx = .character ch)
    (hy : (s.mapLine l (·.count Counters.addSent)).pacerCompletes l ch = { s.setLine l y with events := ev, pool := pl })
    (hb : y.binding = (s.line l).binding) :
    exec (.characterCompletion l) s
      = .next (({ s.setLine l (Line.afterCharacter (s.prof l) y) with events := ev, pool := pl } : State).settle l) := by
  refine congrArg Host.Outcome.next ?_
  show State.characterCompletion s l = _
  unfold State.characterCompletion
  rw [hx]
  simp only [hy]
  refine congrArg (State.settle · l) ?_
  show ({ (s.setLine l y).setLine l (Line.afterCharacter (s.prof l) ((s.setLine l y).line l)) with events := ev, pool := pl } : State) = _
  rw [s.line_setLine_same, State.setLine_setLine]

/-- What follows, by the line's state and by its being calm (log 1). -/
theorem settle_follows (s : State) (l : Fin 8) (z : Line) (ev : EventUnit) (pl : Pool) (hb : z.binding = (s.line l).binding) :
    State.thenSettles { s.setLine l z with events := ev, pool := pl } l
        (({ s.setLine l z with events := ev, pool := pl } : State).settle l)
      ∧ (z.calm → ({ s.setLine l z with events := ev, pool := pl } : State).settle l
        = ({ s.setLine l z with events := ev, pool := pl } : State).setLine l (z.standing (s.prof l))) := by
  refine ⟨settle_thenSettles _ l, fun hc => ?_⟩
  have hl : ({ s.setLine l z with events := ev, pool := pl } : State).line l = z := s.line_setLine_same l z
  have hp : ({ s.setLine l z with events := ev, pool := pl } : State).prof l = s.prof l := s.prof_setLine_same l z hb
  rw [settle_calm _ l (by rw [hl]; exact hc), hl, hp]

/-- What a completion makes of the transmitter reads the break and the gap timer, and no more of the line. -/
theorem afterCompletion_afterCharacter (p : Profile) (x y : Line) (hc : y.counters = x.counters.addSent)
    (h : y.brk = x.brk ∧ y.gapTimer = x.gapTimer ∧ y.breakTimer = x.breakTimer) : x.afterCompletion p (Line.afterCharacter p y) := by
  obtain ⟨hbrk, hgap, hbt⟩ := h
  obtain ⟨t, b, g, k, heq, hpend, hnot⟩ := afterCharacter_frame p y
  rw [hbrk] at hpend hnot
  rw [hgap, hbt] at hnot
  rw [heq]
  exact ⟨hc, hpend, hnot⟩

/-- A completion, from what the pacer makes of the line: the transmitter's own part is added, and what follows (R63, log 1). -/
theorem completion_follows (s : State) (l : Fin 8) {ch : ShiftChar} {y : Line} {ev : EventUnit} {pl : Pool} (hx : (s.line l).tx = .character ch)
    (hy : (s.mapLine l (·.count Counters.addSent)).pacerCompletes l ch = { s.setLine l y with events := ev, pool := pl })
    (hb : y.binding = (s.line l).binding) (hc : y.counters = (s.line l).counters.addSent)
    (h : y.brk = (s.line l).brk ∧ y.gapTimer = (s.line l).gapTimer ∧ y.breakTimer = (s.line l).breakTimer) :
    ∃ tx b g k t, (s.line l).afterCompletion (s.prof l) { y with tx := tx, brk := b, gapTimer := g, breakTimer := k }
      ∧ exec (.characterCompletion l) s = .next t
      ∧ State.thenSettles { s.setLine l { y with tx := tx, brk := b, gapTimer := g, breakTimer := k } with events := ev, pool := pl } l t
      ∧ (({ y with tx := tx, brk := b, gapTimer := g, breakTimer := k } : Line).calm →
        t = ({ s.setLine l { y with tx := tx, brk := b, gapTimer := g, breakTimer := k } with events := ev, pool := pl } : State).setLine l
          (({ y with tx := tx, brk := b, gapTimer := g, breakTimer := k } : Line).standing (s.prof l))) := by
  obtain ⟨tx, b, g, k, heq, -⟩ := afterCharacter_frame (s.prof l) y
  have hexec := exec_completion s l hx hy hb
  have hcompl := afterCompletion_afterCharacter (s.prof l) (s.line l) y hc h
  rw [heq] at hexec hcompl
  obtain ⟨hthen, hcalm⟩ := settle_follows s l { y with tx := tx, brk := b, gapTimer := g, breakTimer := k } ev pl hb
  exact ⟨tx, b, g, k, _, hcompl, hexec, hthen, hcalm⟩

/-- A barrier's being reached reads of the lines their state and markers. -/
theorem reachesBarrier_congr {x x' z z' : Line} {pos : Pos} {src : Fin 9} {ms : List Marker} {e ev : EventUnit}
    (h : x.reachesBarrier pos src ms e z ev) (hb : x'.barrier = x.barrier) (hs : x'.state = x.state) (hz : z'.state = z.state)
    (hm : z'.markers = z.markers) : x'.reachesBarrier pos src ms e z' ev := by
  unfold Line.reachesBarrier Line.barrierReached at *
  have hzb : z'.barrier = z.barrier := by rw [Line.barrier, hm]; rfl
  rw [hb, hs, hz, hm, hzb]
  exact h

/-! ## A data byte in NONE or CODE mode (R63, R88, R132, R134) -/

/-- A byte at Rt retires: its cells are freed, marks are reached, and a barrier at it is reached. -/
theorem byteCompletes_frame (s : State) (l : Fin 8) (pos : Pos) (hpos : pos = (s.line l).Rt) :
    ∃ b st ms ev, s.byteCompletes l pos = { s.setLine l { s.line l with
        Rt := pos + 1, outQ := (s.line l).outQ.dropWhile (OutCell.covered (pos + 1)), grantDue := b, state := st, markers := ms } with
        events := ev
        pool := { s.pool with free := s.pool.free + ((s.line l).outQ.length
          - ((s.line l).outQ.dropWhile (OutCell.covered (pos + 1))).length) } }
      ∧ (b = true ↔ (s.line l).grantDue = true ∨ (s.line l).becomesDue (s.prof l)
          { s.line l with Rt := pos + 1, outQ := (s.line l).outQ.dropWhile (OutCell.covered (pos + 1)) })
      ∧ (s.line l).reachesBarrier pos l.castSucc
          ((s.line l).markers.filter (fun m => !(m.kind == .mark && posLt m.pos (pos + 1))))
          (((s.line l).markers.filter (fun m => m.kind == .mark && posLt m.pos (pos + 1))).foldl
            (fun e m => e.raise l.castSucc (.mark 1 m.tag m.accepted)) s.events)
          { s.line l with state := st, markers := ms } ev := by
  obtain ⟨b, hmove, hb⟩ := State.moveRt_frame s l (pos + 1)
  have hline : (s.moveRt l (pos + 1)).line l = { s.line l with
      Rt := pos + 1, outQ := (s.line l).outQ.dropWhile (OutCell.covered (pos + 1)), grantDue := b } := by
    rw [hmove]; exact s.line_setLine_same l _
  have hmarks := reachMarks_eq (s.moveRt l (pos + 1)) l
  rw [hline] at hmarks
  obtain ⟨st, ms, ev, hbar, hreach⟩ := reachBarrier_frame ((s.moveRt l (pos + 1)).reachMarks l) l pos
  have hmid : ((s.moveRt l (pos + 1)).reachMarks l).line l = { s.line l with
      Rt := pos + 1, outQ := (s.line l).outQ.dropWhile (OutCell.covered (pos + 1)), grantDue := b
      markers := (s.line l).markers.filter (fun m => !(m.kind == .mark && posLt m.pos (pos + 1))) } := by
    rw [hmarks]; exact State.line_setLine_same _ l _
  rw [hmid] at hbar hreach
  rw [hmarks] at hbar hreach
  refine ⟨b, st, ms, ev, ?_, hb, ?_⟩
  · rw [State.byteCompletes, if_pos hpos]
    rw [hmarks, hbar, hmove]
    simp [State.setLine, State.freeCells]
  · rw [hmove] at hreach
    exact reachesBarrier_congr hreach (barrier_filter _ (pos + 1)).symm rfl rfl rfl

/-- Settles O39: the byte that lies at Rt retires, and another only ends. -/
theorem bytesRetire : Obligations.BytesRetire := by
  refine ⟨fun s l ch pos hx hk hp => ?_, fun rt c => Iff.rfl⟩
  intro x p gone left marked
  have hline : (s.mapLine l (·.count Counters.addSent)).line l = x.count Counters.addSent := s.line_mapLine_same l _
  have hprof : (s.mapLine l (·.count Counters.addSent)).prof l = p := s.prof_setLine_same l _ rfl
  have hpacer : (s.mapLine l (·.count Counters.addSent)).pacerCompletes l ch = (s.mapLine l (·.count Counters.addSent)).byteCompletes l pos := by
    simp only [State.pacerCompletes, hk, hprof]; exact if_neg hp
  by_cases hpos : pos = x.Rt
  · obtain ⟨b, st, ms, ev, heq, hdue, hreach⟩ := byteCompletes_frame (s.mapLine l (·.count Counters.addSent)) l pos
      (by rw [hline]; exact hpos)
    rw [hline] at heq hdue hreach
    rw [hprof] at hdue
    have heq' := heq.trans (show _ = ({ s.setLine l _ with events := ev, pool := _ } : State) by rw [State.mapLine, State.setLine_setLine])
    obtain ⟨tx, bk, g, k, t, hcompl, hexec, hthen, hcalm⟩ := completion_follows s l hx (hpacer.trans heq') rfl rfl ⟨rfl, rfl, rfl⟩
    refine ⟨{ x.count Counters.addSent with
        Rt := pos + 1, outQ := x.outQ.dropWhile (OutCell.covered (pos + 1)), grantDue := b, state := st, markers := ms
        tx := tx, brk := bk, gapTimer := g, breakTimer := k }, ev, t, rfl, hcompl, fun h => absurd hpos h, fun _ => ⟨rfl, rfl, ?_, ?_⟩,
      hexec, hthen, hcalm⟩
    · exact hdue.trans (or_congr Iff.rfl (Line.becomesDue_congr p x _ _ rfl rfl rfl rfl rfl rfl))
    · exact reachesBarrier_congr hreach rfl rfl rfl rfl
  · have heq : (s.mapLine l (·.count Counters.addSent)).pacerCompletes l ch
        = { s.setLine l (x.count Counters.addSent) with events := s.events, pool := s.pool } :=
      hpacer.trans (if_neg (by rw [hline]; exact hpos))
    obtain ⟨tx, bk, g, k, t, hcompl, hexec, hthen, hcalm⟩ := completion_follows s l hx heq rfl rfl ⟨rfl, rfl, rfl⟩
    refine ⟨{ x.count Counters.addSent with tx := tx, brk := bk, gapTimer := g, breakTimer := k }, s.events, t, rfl, hcompl,
      fun _ => ⟨rfl, rfl, rfl, rfl, rfl, rfl⟩, fun h => absurd h hpos, ?_⟩
    have hpool : ({ s.pool with free := s.pool.free + (x.outQ.length - x.outQ.length) } : Pool) = s.pool := by rw [Nat.sub_self]; rfl
    intro w
    have hw : w = { s.setLine l { x.count Counters.addSent with tx := tx, brk := bk, gapTimer := g, breakTimer := k } with
        events := s.events, pool := s.pool } := congrArg (fun q => ({ s.setLine l _ with events := s.events, pool := q } : State)) hpool
    rw [hw]
    exact ⟨hexec, hthen, hcalm⟩

/-! ## A block's end in BLOCK mode (R76, R85, R134, R135) -/

/-- The ack timer after a start: from stopped, and not in STALLED (R77, R78). -/
def Line.started (p : Profile) (x : Line) : AckTimer :=
  if x.ackTimer = .stopped ∧ x.state ≠ .stalled then
    (if x.cond = .offline ∨ x.cond = .mediaOut ∨ x.cond = .detached then AckTimer.suspended else .running p.ackTimeout)
  else x.ackTimer

theorem ite_eq_of_iff {α : Type} {p q : Prop} [Decidable p] [Decidable q] {a b c d : α} (h : p ↔ q) (ht : a = c) (he : b = d) :
    (if p then a else b) = if q then c else d := by
  simp only [h, ht, he]

theorem ackStart_started (p : Profile) (x : Line) : x.ackStart p = { x with ackTimer := x.started p } := by
  rw [ackStart_eq]
  refine congrArg (fun a => ({ x with ackTimer := a } : Line)) (ite_eq_of_iff Iff.rfl (ite_eq_of_iff (suspends_iff x.cond) rfl rfl) rfl)

/-- What a block's end makes of a line, y after x, and of the Event Unit, ev after e (R76, R85, R134, R135). -/
def Line.endsBlock (p : Profile) (src : Fin 9) (ch : ShiftChar) (e : EventUnit) (x y : Line) (ev : EventUnit) : Prop :=
  ((ch.role = .noEnd ∨ (ch.role = .openEnd ∧ x.openBlock = none) ∨ ∃ e, ch.role = .entryEnd e ∧ ∀ k ∈ x.blocks, k.fin ≠ e) →
      y.blocks = x.blocks ∧ y.openBlock = x.openBlock ∧ y.ackTimer = x.ackTimer ∧ y.resend = x.resend
      ∧ y.markers = x.markers ∧ y.state = x.state ∧ ev = e)
  ∧ (∀ o, ch.role = .openEnd → x.openBlock = some o →
      y.blocks = x.blocks ++ [⟨o.start, x.T, if ch.kind = .insertedEnd then .inserted else .inData, true⟩]
      ∧ y.openBlock = none ∧ y.resend = x.resend ∧ y.ackTimer = x.started p
      ∧ x.reachesBarrier (x.T - 1) src x.markers e y ev)
  ∧ (∀ q, ch.role = .entryEnd q → (∃ k ∈ x.blocks, k.fin = q) →
      y.blocks = x.blocks.map (fun k => if k.fin = q then { k with sent := true } else k)
      ∧ y.openBlock = x.openBlock
      ∧ ((∃ k, x.blocks.head? = some k ∧ k.fin = q) → y.resend = false)
      ∧ ((∀ k, x.blocks.head? = some k → k.fin ≠ q) → y.resend = x.resend)
      ∧ y.ackTimer = x.started p ∧ x.reachesBarrier (q - 1) src x.markers e y ev)

/-- A character that ends nothing (R76, R85). -/
theorem endCompletes_nothing (s : State) (l : Fin 8) (ch : ShiftChar)
    (h : ch.role = .noEnd ∨ (ch.role = .openEnd ∧ (s.line l).openBlock = none)
      ∨ ∃ e, ch.role = .entryEnd e ∧ ∀ k ∈ (s.line l).blocks, k.fin ≠ e) : s.endCompletes l ch = s := by
  unfold State.endCompletes
  rcases h with h | ⟨h, ho⟩ | ⟨e, h, hne⟩
  · simp only [h]
  · simp only [h, ho]
  · simp only [h]
    refine if_neg (fun hany => ?_)
    obtain ⟨k, hk, hfin⟩ := List.any_eq_true.mp hany
    exact hne k hk (beq_iff_eq.mp hfin)

theorem endCompletes_open (s : State) (l : Fin 8) (ch : ShiftChar) (o : OpenBlock) (h : ch.role = .openEnd)
    (ho : (s.line l).openBlock = some o) : s.endCompletes l ch
      = (s.mapLine l (Line.joinBlock (s.prof l) (if ch.kind = .insertedEnd then .inserted else .inData) o)).reachBarrier l ((s.line l).T - 1) := by
  unfold State.endCompletes
  simp only [h, ho]

theorem endCompletes_entry (s : State) (l : Fin 8) (ch : ShiftChar) (q : Pos) (h : ch.role = .entryEnd q)
    (hk : ∃ k ∈ (s.line l).blocks, k.fin = q) :
    s.endCompletes l ch = (s.mapLine l (Line.markSent (s.prof l) q)).reachBarrier l (q - 1) := by
  obtain ⟨k, hk, hfin⟩ := hk
  unfold State.endCompletes
  simp only [h]
  exact if_pos (List.any_eq_true.mpr ⟨k, hk, hfin ▸ BEq.rfl⟩)

/-- An entry's end sets its sent flag, clears the resend flag when the entry is the oldest, and starts the ack timer (R76, R85). -/
theorem markSent_frame (p : Profile) (q : Pos) (x : Line) : ∃ rs, x.markSent p q = { x with
      blocks := x.blocks.map (fun k => if k.fin = q then { k with sent := true } else k), resend := rs, ackTimer := x.started p }
    ∧ ((∃ k, x.blocks.head? = some k ∧ k.fin = q) → rs = false) ∧ ((∀ k, x.blocks.head? = some k → k.fin ≠ q) → rs = x.resend) := by
  refine ⟨_, ackStart_started p _, fun ⟨k, hk, hfin⟩ => ?_, fun h => ?_⟩
  · simp [hk, hfin]
  · cases hk : x.blocks.head? with
    | none => simp
    | some k => simp [h k hk]

/-- Everything a block's end can do. -/
theorem endCompletes_frame (s : State) (l : Fin 8) (ch : ShiftChar) : ∃ bl ob rs ak st ms ev,
    s.endCompletes l ch = { s.setLine l { s.line l with
        blocks := bl, openBlock := ob, resend := rs, ackTimer := ak, state := st, markers := ms } with events := ev, pool := s.pool }
      ∧ (s.line l).endsBlock (s.prof l) l.castSucc ch s.events
        { s.line l with blocks := bl, openBlock := ob, resend := rs, ackTimer := ak, state := st, markers := ms } ev := by
  by_cases hno : ch.role = .noEnd ∨ (ch.role = .openEnd ∧ (s.line l).openBlock = none)
      ∨ ∃ e, ch.role = .entryEnd e ∧ ∀ k ∈ (s.line l).blocks, k.fin ≠ e
  · let x := s.line l
    refine ⟨x.blocks, x.openBlock, x.resend, x.ackTimer, x.state, x.markers, s.events, (endCompletes_nothing s l ch hno).trans (s.setLine_line l).symm,
      fun _ => ⟨rfl, rfl, rfl, rfl, rfl, rfl, rfl⟩, fun o hr ho => ?_, fun q hr ⟨k, hk, hfin⟩ => ?_⟩
    · rcases hno with h | ⟨-, h⟩ | ⟨e, h, -⟩
      · rw [h] at hr; cases hr
      · rw [h] at ho; cases ho
      · rw [h] at hr; cases hr
    · rcases hno with h | ⟨h, -⟩ | ⟨e, h, hne⟩
      · rw [h] at hr; cases hr
      · rw [h] at hr; cases hr
      · rw [h] at hr; cases hr; exact absurd hfin (hne k hk)
  · cases hr : ch.role with
    | noEnd => exact absurd (Or.inl hr) hno
    | openEnd =>
      cases ho : (s.line l).openBlock with
      | none => exact absurd (Or.inr (Or.inl ⟨hr, ho⟩)) hno
      | some o =>
        obtain ⟨st, ms, ev, heq, hreach⟩ := reachBarrier_frame
          (s.mapLine l (Line.joinBlock (s.prof l) (if ch.kind = .insertedEnd then .inserted else .inData) o)) l ((s.line l).T - 1)
        rw [s.line_mapLine_same, Line.joinBlock, ackStart_started] at heq hreach
        refine ⟨(s.line l).blocks ++ [⟨o.start, (s.line l).T, if ch.kind = .insertedEnd then .inserted else .inData, true⟩], none,
          (s.line l).resend, (s.line l).started (s.prof l), st, ms, ev, ((endCompletes_open s l ch o hr ho).trans heq).trans ?_, fun h => absurd h hno,
          fun o' _ ho' => ?_, fun q hr' => by rw [hr] at hr'; cases hr'⟩
        · rw [State.mapLine, State.setLine_setLine]; rfl
        · rw [ho] at ho'; cases ho'
          exact ⟨rfl, rfl, rfl, rfl, reachesBarrier_congr hreach rfl rfl rfl rfl⟩
    | entryEnd q =>
      have hk : ∃ k ∈ (s.line l).blocks, k.fin = q := by
        refine Classical.byContradiction fun hc => ?_
        exact hno (Or.inr (Or.inr ⟨q, hr, fun k hk hfin => hc ⟨k, hk, hfin⟩⟩))
      obtain ⟨rs, hmark, hres, hres'⟩ := markSent_frame (s.prof l) q (s.line l)
      obtain ⟨st, ms, ev, heq, hreach⟩ := reachBarrier_frame (s.mapLine l (Line.markSent (s.prof l) q)) l (q - 1)
      rw [s.line_mapLine_same, hmark] at heq hreach
      refine ⟨(s.line l).blocks.map (fun k => if k.fin = q then { k with sent := true } else k), (s.line l).openBlock, rs,
        (s.line l).started (s.prof l), st, ms, ev, ((endCompletes_entry s l ch q hr hk).trans heq).trans ?_, fun h => absurd h hno,
        fun o hr' => (by rw [hr] at hr'; cases hr'), fun q' hr' _ => ?_⟩
      · rw [State.mapLine, State.setLine_setLine]; rfl
      · rw [hr] at hr'; cases hr'
        exact ⟨rfl, rfl, hres, hres', rfl, reachesBarrier_congr hreach rfl rfl rfl rfl⟩

/-- Settles O40: the end of the open block, of an entry, or of nothing. -/
theorem blockEndsComplete : Obligations.BlockEndsComplete := by
  intro s l ch hx hk hp x p full started
  have hline : (s.mapLine l (·.count Counters.addSent)).line l = x.count Counters.addSent := s.line_mapLine_same l _
  have hprof : (s.mapLine l (·.count Counters.addSent)).prof l = p := s.prof_setLine_same l _ rfl
  have hpacer : (s.mapLine l (·.count Counters.addSent)).pacerCompletes l ch = (s.mapLine l (·.count Counters.addSent)).endCompletes l ch := by
    cases hkind : ch.kind with
    | pacingCode => exact absurd hkind hk
    | insertedEnd => simp only [State.pacerCompletes, hkind]
    | data pos => simp only [State.pacerCompletes, hkind, hprof]; exact if_pos hp
  obtain ⟨bl, ob, rs, ak, st, ms, ev, heq, hnone, hopen, hentry⟩ := endCompletes_frame (s.mapLine l (·.count Counters.addSent)) l ch
  rw [hline] at heq hnone hopen hentry
  rw [hprof] at hopen hentry
  have heq' := heq.trans (show _ = ({ s.setLine l _ with events := ev, pool := s.pool } : State) by rw [State.mapLine, State.setLine_setLine]; rfl)
  obtain ⟨tx, b, g, k, t, hcompl, hexec, hthen, hcalm⟩ := completion_follows s l hx (hpacer.trans heq') rfl rfl ⟨rfl, rfl, rfl⟩
  refine ⟨{ x.count Counters.addSent with
      blocks := bl, openBlock := ob, resend := rs, ackTimer := ak, state := st, markers := ms
      tx := tx, brk := b, gapTimer := g, breakTimer := k }, ev, t, rfl, hcompl, hnone, fun o hr ho => ?_, fun e hr he => ?_,
    hexec, hthen, hcalm⟩
  · obtain ⟨h1, h2, h3, h4, hreach⟩ := hopen o hr ho
    exact ⟨h1, h2, h3, h4, reachesBarrier_congr hreach rfl rfl rfl rfl⟩
  · obtain ⟨h1, h2, h3, h4, h5, hreach⟩ := hentry e hr he
    exact ⟨h1, h2, h3, h4, h5, reachesBarrier_congr hreach rfl rfl rfl rfl⟩

end Sys2Proof.Machine
end

section
/-!
PROOF. The expiry of the ack timer (O42): a resend while retries remain, and a stall at the limit.
-/
namespace Sys2Proof.Machine

/-! ## A resend or a stall, with what follows (R83 to R86) -/

theorem inCharacter_abandon {x y : Line} (h : y.tx = x.tx.abandon) : y.inCharacter = x.inCharacter := by
  unfold Line.inCharacter
  rw [h]
  cases x.tx <;> rfl

/-- A line with a block outstanding that is open or under a drain, and has no FLUSH to complete, is calm. -/
theorem calm_of_blocks {x : Line} {b : Block} (h : x.isOpen ∨ x.underDrain = true) (hf : x.flushDone = false)
    (hb : x.blocks.head? = some b) : x.calm := by
  refine h.imp (fun h => ⟨h, hf⟩) (fun h => ⟨h, ?_⟩)
  rw [Bool.eq_false_iff]
  intro hd
  rw [((drainDone_iff x).mp hd).2.2.2.1] at hb
  cases hb

/-- A resend begins, and the standing updates follow (R84). -/
theorem settle_retry {s : State} {l : Fin 8} {b : Block} (hlt : (s.line l).retry < (s.prof l).retryLimit)
    (ho : (s.line l).isOpen ∨ (s.line l).underDrain = true) (hf : (s.line l).flushDone = false)
    (hb : (s.line l).blocks.head? = some b) :
    (s.retryOrStall l).settle l
      = s.setLine l (Line.standing (s.prof l) (Line.beginResend { s.line l with retry := (s.line l).retry + 1 })) := by
  unfold State.retryOrStall
  simp only [if_pos hlt]
  have hblocks : (Line.beginResend { s.line l with retry := (s.line l).retry + 1 }).blocks.head? = some { b with sent := false } := by
    simp [Line.beginResend, hb]
  have hflush : (Line.beginResend { s.line l with retry := (s.line l).retry + 1 }).flushDone = (s.line l).flushDone :=
    flushDone_congr (s.line l) (Line.beginResend { s.line l with retry := (s.line l).retry + 1 }) rfl (inCharacter_abandon rfl)
  exact settle_setLine_calm (calm_of_blocks ho (hflush.trans hf) hblocks) rfl

/-- A stall, and the standing updates (R86, R49). -/
theorem settle_stall {s : State} {l : Fin 8} {first last : Block} (hge : (s.prof l).retryLimit ≤ (s.line l).retry)
    (hf : (s.line l).flushDone = false) (hfirst : (s.line l).blocks.head? = some first)
    (hlast : (s.line l).blocks.getLast? = some last) :
    (s.retryOrStall l).settle l = { s.setLine l (Line.standing (s.prof l)
        { s.line l with
          state := .stalled
          ackTimer := .stopped
          pauseTimer := .stopped
          pause := .none
          T := if posLt (s.line l).T last.fin then last.fin else (s.line l).T
          long := if (s.line l).longIs .closeDrain then none else (s.line l).long }) with
      events := s.events.raise l.castSucc (.stall (s.line l).blocks.length (s.line l).retry first.start)
      reqs := if (s.line l).longIs .closeDrain then
          (match (s.line l).long with
          | some g => s.reqs.answerLong g ⟨.drainFailed, []⟩
          | none => s.reqs)
        else s.reqs } := by
  unfold State.retryOrStall
  simp only [if_neg (Nat.not_lt.mpr hge), s.stall_eq l first last hfirst hlast]
  refine settle_setLine_with s l _ _ _ rfl ((isOpen_iff _).mpr ⟨by simp, by simp⟩) ?_
  cases hd : (s.line l).longIs .closeDrain with
  | true => rfl
  | false => exact hf

/-! ## The obligation -/

theorem ackExpiry_of_not_running (s : State) (l : Fin 8) (h : ∀ ms, (s.line l).ackTimer ≠ .running ms) : s.ackExpiry l = s := by
  refine if_neg (fun hr => ?_)
  cases ha : (s.line l).ackTimer with
  | running ms => exact h ms ha
  | _ => rw [ha] at hr; cases hr

theorem ackExpiry_of_running (s : State) (l : Fin 8) {ms : Nat} (h : (s.line l).ackTimer = .running ms) :
    s.ackExpiry l = ((s.setLine l { s.line l with ackTimer := .stopped }).retryOrStall l).settle l :=
  if_pos (by rw [h]; rfl)

theorem longIs_iff (x : Line) (k : LongKind) : x.longIs k = true ↔ ∃ g, x.long = some g ∧ g.kind = k := by
  unfold Line.longIs
  cases x.long with
  | none => simp
  | some g => simp

/-- Settles O42: a resend below the limit, and a stall at it. -/
theorem ackTimersExpire : Obligations.AckTimersExpire := by
  refine ⟨fun s l => ?_, fun ch => rfl, rfl, rfl, rfl, longIs_iff⟩
  intro x p
  refine ⟨fun h => congrArg Host.Outcome.next (ackExpiry_of_not_running s l h), fun ms first last hrun hfirst hlast hst hf => ?_⟩
  have hopen := isOpen_or_underDrain ((sendsData_iff x).mpr hst)
  have hline : (s.setLine l { x with ackTimer := .stopped }).line l = { x with ackTimer := .stopped } := s.line_setLine_same l _
  have hprof : (s.setLine l { x with ackTimer := .stopped }).prof l = p := s.prof_setLine_same l _ rfl
  have hexec : exec (.ackTimerExpiry l) s = .next (((s.setLine l { x with ackTimer := .stopped }).retryOrStall l).settle l) :=
    congrArg Host.Outcome.next (ackExpiry_of_running s l hrun)
  refine ⟨fun hlt => hexec.trans (congrArg Host.Outcome.next ?_), fun hge => hexec.trans (congrArg Host.Outcome.next ?_)⟩
  · have := settle_retry (s := s.setLine l { x with ackTimer := .stopped }) (l := l) (b := first)
      (by rw [hline, hprof]; exact hlt) (by rw [hline]; exact hopen) (by rw [hline]; exact hf) (by rw [hline]; exact hfirst)
    rw [this, hline, hprof, State.setLine_setLine]
    rfl
  · have := settle_stall (s := s.setLine l { x with ackTimer := .stopped }) (l := l) (first := first) (last := last)
      (by rw [hline, hprof]; exact hge) (by rw [hline]; exact hf) (by rw [hline]; exact hfirst) (by rw [hline]; exact hlast)
    rw [this, hline, hprof, State.setLine_setLine]
    rfl

end Sys2Proof.Machine
end

section
/-!
PROOF. The receiver: edges, errors and breaks (O43).
-/
namespace Sys2Proof.Machine

/-! ## Edges (R94, R98) -/

theorem getLsbD_maskWidth (width : Nat) (v : Byte) (i : Nat) :
    (maskWidth width v).getLsbD i = (v.getLsbD i && decide (i < width)) := by
  rw [maskWidth, BitVec.getLsbD_and, BitVec.getLsbD_ofNat, Nat.testBit_two_pow_sub_one]
  rcases Nat.lt_or_ge i 8 with h | h
  · rw [decide_eq_true h, Bool.true_and]
  · rw [BitVec.getLsbD_of_ge v i h, Bool.false_and, Bool.false_and]

/-- Where the receiver does not work, every edge is only the level it shows (R111). -/
theorem edges_of_not_working {x : Line} (h : ¬ x.working = true) :
    x.startEdge = { x with rxd := .space } ∧ x.falseStart = { x with rxd := .mark } ∧ x.arm = { x with rxd := .mark }
      ∧ x.breakEnd = { x with rxd := .mark } :=
  ⟨if_neg (fun hc => h hc.1), if_neg (fun hc => h hc.1), if_neg (fun hc => h hc.1), if_neg (fun hc => h hc.1)⟩

/-- A character that completes where none is under way is only its stop level (R94). -/
theorem exec_character_level (s : State) (l : Fin 8) (v : Byte) (parity stop : Bool)
    (h : ¬ ((s.line l).working = true ∧ (s.line l).rx = .character)) :
    exec (.characterReceived l v parity stop) s = .next (s.setLine l { s.line l with rxd := if stop then .mark else .space }) :=
  congrArg Host.Outcome.next (if_neg h)

/-- A character that completes is sorted, and what follows (R95). -/
theorem exec_character_sorted (s : State) (l : Fin 8) (v : Byte) (parity stop : Bool) (hw : (s.line l).working = true)
    (hx : (s.line l).rx = .character) : exec (.characterReceived l v parity stop) s
      = .next (((s.setLine l { s.line l with rxd := if stop then .mark else .space }).sortCharacter l v parity stop).settle l) :=
  congrArg Host.Outcome.next (if_pos ⟨hw, hx⟩)

/-! ## The sorting of a character (R95) -/

theorem currentCell_none {x : Line} (h : ∀ q c, x.inQ = q ++ [c] → c.isSealed = true) : x.currentCell = none := by
  rcases List.eq_nil_or_concat x.inQ with hq | ⟨q, c, hq⟩
  · rw [Line.currentCell, hq]; rfl
  · rw [List.concat_eq_append] at hq
    exact (currentCell_append hq).trans (if_pos (h q c hq))

theorem sealCurrent_none {x : Line} (h : ∀ q c, x.inQ = q ++ [c] → c.isSealed = true) : x.sealCurrent = x := by
  rw [Line.sealCurrent, currentCell_none h]

theorem parityFails_iff (p : Profile) (v : Byte) (parity : Bool) :
    parityFails p v parity = true ↔ ∃ e, parityBitOf p.parity (dataBitList p.dataBits v) = some e ∧ e ≠ parity := by
  unfold parityFails
  cases parityBitOf p.parity (dataBitList p.dataBits v) with
  | none => simp
  | some b => simp

section
variable {s : State} {l : Fin 8} {p : Profile} {v : Byte} {parity : Bool}

theorem sortCharacter_break (hs : s.prof l = p) (hv : maskWidth p.dataBits v = 0#8) (hp : p.parity = .none ∨ parity = false) :
    s.sortCharacter l v parity false = s.breakDetected l := by
  subst hs; exact if_pos ⟨rfl, hv, hp⟩

theorem sortCharacter_framing (hs : s.prof l = p) (h : maskWidth p.dataBits v ≠ 0#8 ∨ (p.parity ≠ .none ∧ parity = true)) :
    s.sortCharacter l v parity false = s.framingError l := by
  subst hs
  refine (if_neg ?_).trans (if_pos rfl)
  rintro ⟨-, hv, hp⟩
  rcases h with h | ⟨h1, h2⟩
  · exact h hv
  · rcases hp with hp | hp
    · exact h1 hp
    · rw [h2] at hp; cases hp

theorem sortCharacter_stop (hs : s.prof l = p) : s.sortCharacter l v parity true
    = if parityFails p (maskWidth p.dataBits v) parity = true then s.parityError l else s.goodCharacter l (maskWidth p.dataBits v) := by
  subst hs
  simp only [State.sortCharacter, Bool.true_eq_false, false_and, if_false]

theorem sortCharacter_parity (hs : s.prof l = p) {e : Bool}
    (he : parityBitOf p.parity (dataBitList p.dataBits (maskWidth p.dataBits v)) = some e) (hne : e ≠ parity) :
    s.sortCharacter l v parity true = s.parityError l :=
  (sortCharacter_stop hs).trans (if_pos ((parityFails_iff _ _ _).mpr ⟨e, he, hne⟩))

theorem sortCharacter_good (hs : s.prof l = p)
    (h : ∀ e, parityBitOf p.parity (dataBitList p.dataBits (maskWidth p.dataBits v)) = some e → e = parity) :
    s.sortCharacter l v parity true = s.goodCharacter l (maskWidth p.dataBits v) := by
  refine (sortCharacter_stop hs).trans (if_neg (fun hf => ?_))
  obtain ⟨e, he, hne⟩ := (parityFails_iff _ _ _).mp hf
  exact hne (h e he)

end

/-- A break on a line in any state: counted, the current cell sealed, reported, and under break action FLUSH cells discarded. -/
theorem breakDetected_eq (s : State) (l : Fin 8) (x : Line) {z : Line} (hz : Line.sealCurrent { x.count Counters.addBreak with rx := .brk, armed := false } = z)
    (hb : x.binding = (s.line l).binding) :
    ((s.prof l).breakAction = .report → (s.setLine l x).breakDetected l
        = (s.setLine l z).raise l (.lineError { KindSet.empty with brk := true } 0 0 0))
      ∧ ((s.prof l).breakAction = .flush → (s.setLine l x).breakDetected l
        = ((s.setLine l z).raise l (.lineError { KindSet.empty with brk := true } 0 0 0)).dropInbound l (fun c => !c.isSealed || c.inFrame)) := by
  subst hz
  unfold State.breakDetected
  rw [s.prof_setLine_same l x hb, State.setLine_mapLine]
  exact ⟨fun h => if_neg (by rw [h]; exact BreakAction.noConfusion), fun h => if_pos h⟩

/-- Settles O43: the receiver's edges, and its errors and breaks. -/
theorem receiverEdgesAndErrors : Obligations.ReceiverEdgesAndErrors := by
  refine ⟨fun s l => ?_, fun s l v parity => ?_, getLsbD_maskWidth⟩
  · intro x
    refine ⟨fun ho => ?_, fun hno => ?_⟩
    · have hw := (working_iff x).mpr ho
      have at_line : ∀ {f : Line → Line} {y : Line}, f x = y → (Host.Outcome.next (s.mapLine l f) : Host.Outcome State Fault Refusal) = .next (s.setLine l y) :=
        fun h => congrArg (fun y => Host.Outcome.next (s.setLine l y)) h
      refine ⟨fun hr ha => at_line (if_pos ⟨hw, hr, ha⟩), fun h => at_line (if_neg ?_), fun hr => at_line (if_pos ⟨hw, hr⟩),
        fun hr => at_line (if_pos ⟨hw, hr⟩), fun hr => at_line (if_pos ⟨hw, hr⟩),
        fun hr => ⟨at_line (if_neg (fun h => hr h.2)), fun v parity stop => exec_character_level s l v parity stop (fun h => hr h.2)⟩,
        fun hr => at_line (if_neg (fun h => hr h.2)), fun hr => at_line (if_neg (fun h => hr h.2))⟩
      rintro ⟨-, hr, ha⟩
      rcases h with h | h
      · exact h hr
      · rw [h] at ha; cases ha
    · have hw := working_false hno
      obtain ⟨h1, h2, h3, h4⟩ := edges_of_not_working hw
      exact ⟨congrArg (fun y => Host.Outcome.next (s.setLine l y)) h1, congrArg (fun y => Host.Outcome.next (s.setLine l y)) h2,
        congrArg (fun y => Host.Outcome.next (s.setLine l y)) h3, congrArg (fun y => Host.Outcome.next (s.setLine l y)) h4,
        fun v parity stop => exec_character_level s l v parity stop (fun h => hw h.1)⟩
  · intro x p ho hrx
    have hw := (working_iff x).mpr ho
    have hprof : ∀ lv : Level, (s.setLine l { x with rxd := lv }).prof l = p := fun lv => s.prof_setLine_same l _ rfl
    have raised : ∀ (y : Line) (f : Line → Line) (r : EventRec), (((s.setLine l y).mapLine l f).raise l r) = (s.setLine l (f y)).raise l r :=
      fun y f r => by rw [State.setLine_mapLine]
    refine ⟨fun e he hne => ?_, fun h => ?_, fun hv hp => ?_⟩
    · refine (exec_character_sorted s l v parity true hw hrx).trans ?_
      rw [sortCharacter_parity (hprof _) he hne]
      exact congrArg (fun t : State => Host.Outcome.next (t.settle l)) (raised _ _ _)
    · refine (exec_character_sorted s l v parity false hw hrx).trans ?_
      rw [sortCharacter_framing (hprof _) h]
      exact congrArg (fun t : State => Host.Outcome.next (t.settle l)) (raised _ _ _)
    · intro y z
      have hsort : exec (.characterReceived l v parity false) s
          = .next (((s.setLine l { x with rxd := .space }).breakDetected l).settle l) :=
        (exec_character_sorted s l v parity false hw hrx).trans
          (congrArg (fun t : State => Host.Outcome.next (t.settle l)) (sortCharacter_break (hprof _) hv hp))
      refine ⟨fun q c hq hc => ?_, fun hsealed => ?_⟩
      · obtain ⟨hreport, hflush⟩ := breakDetected_eq s l { x with rxd := .space }
          (sealCurrent_append (x := { ({ x with rxd := .space } : Line).count Counters.addBreak with rx := .brk, armed := false }) hq hc) rfl
        exact ⟨fun h => hsort.trans (congrArg (fun t : State => Host.Outcome.next (t.settle l)) (hreport h)),
          fun h => hsort.trans (congrArg (fun t : State => Host.Outcome.next (t.settle l)) (hflush h))⟩
      · obtain ⟨hreport, hflush⟩ := breakDetected_eq s l { x with rxd := .space }
          (sealCurrent_none (x := { ({ x with rxd := .space } : Line).count Counters.addBreak with rx := .brk, armed := false }) hsealed) rfl
        exact ⟨fun h => hsort.trans (congrArg (fun t : State => Host.Outcome.next (t.settle l)) (hreport h)),
          fun h => hsort.trans (congrArg (fun t : State => Host.Outcome.next (t.settle l)) (hflush h))⟩

end Sys2Proof.Machine
end

section
/-!
PROOF. Good characters: stored (O44), and the stop, go and nak codes consumed (O45).
-/
namespace Sys2Proof.Machine

/-! ## A good character (R100) -/

/-- The line to which a good character has come: its level, the receiver ready for the next, and the count (R94, R100). -/
def Line.gotGood (x : Line) : Line :=
  { x with
    rxd := .mark, rx := .idle, armed := true
    counters := { x.counters with received := min 65535 (x.counters.received + 1) } }

theorem prof_rxd (s : State) (l : Fin 8) (lv : Level) : (s.setLine l { s.line l with rxd := lv }).prof l = s.prof l :=
  s.prof_setLine_same l _ rfl

section
variable {s : State} {l : Fin 8} {p : Profile} {v : Byte}

/-- Where a good character goes, by the outbound pacing mode (R71, R79, R81, R100). -/
theorem goodCharacter_none (hp : s.prof l = p) (hm : p.outPacing = .none) :
    (s.setLine l { s.line l with rxd := .mark }).goodCharacter l v = (s.setLine l (s.line l).gotGood).storeIn l v := by
  have hprof : (s.setLine l { s.line l with rxd := .mark }).prof l = p := (prof_rxd s l .mark).trans hp
  unfold State.goodCharacter
  simp only [hprof, hm, State.setLine_mapLine]; rfl

theorem goodCharacter_code (hp : s.prof l = p) (hm : p.outPacing = .code) :
    (s.setLine l { s.line l with rxd := .mark }).goodCharacter l v = (s.setLine l (s.line l).gotGood).goodUnderCode l p v := by
  have hprof : (s.setLine l { s.line l with rxd := .mark }).prof l = p := (prof_rxd s l .mark).trans hp
  unfold State.goodCharacter
  simp only [hprof, hm, State.setLine_mapLine]; rfl

theorem goodCharacter_block (hp : s.prof l = p) (hm : p.outPacing = .block) :
    (s.setLine l { s.line l with rxd := .mark }).goodCharacter l v
      = if v = p.ackCode then (s.setLine l (s.line l).gotGood).takeAck l
        else if p.nakCode = some v then (s.setLine l (s.line l).gotGood).takeNak l
        else (s.setLine l (s.line l).gotGood).storeIn l v := by
  have hprof : (s.setLine l { s.line l with rxd := .mark }).prof l = p := (prof_rxd s l .mark).trans hp
  unfold State.goodCharacter
  simp only [hprof, hm, State.setLine_mapLine]; rfl

/-- A good character that completes is counted and goes where its mode has it, and what follows (R95, R100). -/
theorem exec_good {b : Byte} {parity : Bool} (hp : s.prof l = p) (hc : (s.line l).calm) (hx : (s.line l).rx = .character)
    (he : ∀ e, parityBitOf p.parity (dataBitList p.dataBits (maskWidth p.dataBits b)) = some e → e = parity) :
    exec (.characterReceived l b parity true) s
      = .next (((s.setLine l { s.line l with rxd := .mark }).goodCharacter l (maskWidth p.dataBits b)).settle l) :=
  (exec_character_sorted s l b parity true (working_of_calm _ hc) hx).trans
    (congrArg (fun t : State => Host.Outcome.next (t.settle l)) (sortCharacter_good ((prof_rxd s l .mark).trans hp) he))

end

/-! ## Storing (R101, R103) -/

/-- After a store: the current cell is sealed, or the idle timer starts (R101). -/
theorem sealOrTime_append {p : Profile} {b : Byte} {x : Line} {q : List InCell} {c : InCell} (h : x.inQ = q ++ [c]) (hs : c.isSealed = false) :
    x.sealOrTime p b = { x with
      inQ := q ++ [{ c with isSealed := decide (32 ≤ c.bytes.length ∨ p.flushCode = some b) }]
      idleTimer := if decide (32 ≤ c.bytes.length ∨ p.flushCode = some b) then .stopped else .running p.inboundIdle } := by
  have hcur : x.currentCell = some c := (currentCell_append h).trans (if_neg (by rw [hs]; exact Bool.false_ne_true))
  unfold Line.sealOrTime
  simp only [hcur]
  by_cases hfull : 32 ≤ c.bytes.length ∨ p.flushCode = some b
  · rw [decide_eq_true hfull]
    exact (if_pos hfull).trans (sealCurrent_append h hs)
  · rw [decide_eq_false hfull]
    refine (if_neg hfull).trans ?_
    obtain ⟨bytes, sl, fr⟩ := c
    cases (show sl = false from hs)
    rw [← h]
    rfl

section
variable {s : State} {l : Fin 8} {p : Profile} {v : Byte} {y : Line}

theorem storeIn_current (hp : s.prof l = p) (hb : y.binding = (s.line l).binding) {q : List InCell} {c : InCell}
    (hq : y.inQ = q ++ [c]) (hs : c.isSealed = false) :
    (s.setLine l y).storeIn l v = s.setLine l { y with
      inQ := q ++ [{ c with bytes := c.bytes ++ [v], isSealed := decide (32 ≤ c.bytes.length + 1 ∨ p.flushCode = some v) }]
      idleTimer := if decide (32 ≤ c.bytes.length + 1 ∨ p.flushCode = some v) then .stopped else .running p.inboundIdle } := by
  have hcur : y.currentCell = some c := (currentCell_append hq).trans (if_neg (by rw [hs]; exact Bool.false_ne_true))
  have hprof : (s.setLine l y).prof l = p := (s.prof_setLine_same l y hb).trans hp
  unfold State.storeIn
  simp only [s.line_setLine_same, hprof, hcur, State.setLine_setLine, hq, List.dropLast_concat]
  rw [sealOrTime_append (q := q) (c := { c with bytes := c.bytes ++ [v] }) rfl hs]
  simp only [List.length_append, List.length_singleton]

theorem storeIn_new (hp : s.prof l = p) (hb : y.binding = (s.line l).binding) (hs : ∀ q c, y.inQ = q ++ [c] → c.isSealed = true)
    (hlt : y.inQ.length < y.resIn) : ∃ a b c, (s.setLine l y).storeIn l v = { s.setLine l { y with
        inQ := y.inQ ++ [⟨[v], decide (32 ≤ 1 ∨ p.flushCode = some v), false⟩]
        idleTimer := if decide (32 ≤ 1 ∨ p.flushCode = some v) then .stopped else .running p.inboundIdle
        wanted := a, lastSent := b, rdyo := c } with pool := { s.pool with free := s.pool.free - 1 } }
      ∧ y.marksApplied p { y with inQ := y.inQ ++ [⟨[v], decide (32 ≤ 1 ∨ p.flushCode = some v), false⟩], wanted := a }
      ∧ y.pacesPeripheral p { y with wanted := a, lastSent := b, rdyo := c } := by
  have hprof : (s.setLine l y).prof l = p := (s.prof_setLine_same l y hb).trans hp
  obtain ⟨a, b, c, heq, hhigh, hlow, hmid, hb', hc'⟩ := Line.applyMarks_frame p { y with inQ := y.inQ ++ [⟨[v], false, false⟩] }
  refine ⟨a, b, c, ?_, ⟨fun h => ?_, fun _ => ⟨?_, ?_, ?_⟩⟩, hb', hc'⟩
  · unfold State.storeIn
    simp only [s.line_setLine_same, hprof, currentCell_none hs, if_pos hlt, State.setLine_setLine, heq]
    rw [sealOrTime_append (q := y.inQ) (c := ⟨[v], false, false⟩) rfl rfl]
    rfl
  · simp at h
  · simpa using hhigh
  · simpa using hlow
  · simpa using hmid

theorem storeIn_lost (hs : ∀ q c, y.inQ = q ++ [c] → c.isSealed = true) (hge : y.resIn ≤ y.inQ.length) :
    (s.setLine l y).storeIn l v = (s.setLine l { y with counters := { y.counters with overruns := min 65535 (y.counters.overruns + 1) } }).raise l
      (.lineError { KindSet.empty with overrun := true } 0 0 1) := by
  unfold State.storeIn
  simp only [s.line_setLine_same, currentCell_none hs, if_neg (Nat.not_lt.mpr hge), State.setLine_mapLine]
  rfl

end

/-- A good character that no pacing consumes goes to the store (R72, R100). -/
theorem exec_stored {s : State} {l : Fin 8} {p : Profile} {b : Byte} {parity : Bool} (hp : s.prof l = p) (hc : (s.line l).calm)
    (hx : (s.line l).rx = .character)
    (he : ∀ e, parityBitOf p.parity (dataBitList p.dataBits (maskWidth p.dataBits b)) = some e → e = parity)
    (hcode : p.outPacing = .code → maskWidth p.dataBits b ≠ p.stopCode ∧ maskWidth p.dataBits b ≠ p.goCode)
    (hblock : p.outPacing = .block → maskWidth p.dataBits b ≠ p.ackCode ∧ p.nakCode ≠ some (maskWidth p.dataBits b)) :
    exec (.characterReceived l b parity true) s
      = .next (((s.setLine l { (s.line l).gotGood with
          stopped := (s.line l).stopped && !(decide (p.outPacing = .code) && p.goOnAny) }).storeIn l (maskWidth p.dataBits b)).settle l) := by
  refine (exec_good hp hc hx he).trans (congrArg (fun t : State => Host.Outcome.next (t.settle l)) ?_)
  cases hm : p.outPacing with
  | none =>
    rw [goodCharacter_none hp hm, decide_eq_false OutPacing.noConfusion, Bool.false_and, Bool.not_false, Bool.and_true]; rfl
  | code =>
    obtain ⟨hstop, hgo⟩ := hcode hm
    rw [goodCharacter_code hp hm, decide_eq_true rfl, Bool.true_and, State.goodUnderCode, if_neg hstop, if_neg hgo, State.setLine_mapLine]; rfl
  | block =>
    obtain ⟨hack, hnak⟩ := hblock hm
    rw [goodCharacter_block hp hm, decide_eq_false OutPacing.noConfusion, Bool.false_and, Bool.not_false, Bool.and_true, if_neg hack, if_neg hnak]
    rfl

/-- What follows on a calm line, with the Event Unit and the pool replaced too. -/
theorem settle_pool_calm (s : State) (l : Fin 8) (z : Line) (ev : EventUnit) (pl : Pool) (hb : z.binding = (s.line l).binding) (hc : z.calm) :
    ({ s.setLine l z with events := ev, pool := pl } : State).settle l
      = { s.setLine l (z.standing (s.prof l)) with events := ev, pool := pl } := by
  rw [(settle_follows s l z ev pl hb).2 hc]
  simp only [State.setLine, Vector.set_set]

/-- Settles O44: into the current cell, into a new one, or lost. -/
theorem goodCharactersStored : Obligations.GoodCharactersStored := by
  intro s l b parity x p v y full hc hx he hcode hblock
  have hexec : exec (.characterReceived l b parity true) s = .next (((s.setLine l y).storeIn l v).settle l) :=
    exec_stored rfl hc hx he hcode hblock
  refine ⟨fun q c hq hs => ?_, fun hs hlt => ?_, fun hs hge => ?_⟩
  · refine hexec.trans (congrArg Host.Outcome.next ?_)
    rw [storeIn_current (y := y) (p := p) rfl rfl hq hs]
    exact settle_setLine_calm hc rfl
  · obtain ⟨a, b', c, heq, hmarks, hpaces⟩ := storeIn_new (s := s) (l := l) (p := p) (v := v) (y := y) rfl rfl hs hlt
    refine ⟨{ y with
        inQ := x.inQ ++ [⟨[v], full 1, false⟩], idleTimer := if full 1 then .stopped else .running p.inboundIdle
        wanted := a, lastSent := b', rdyo := c }, rfl, hmarks, hpaces, hexec.trans (congrArg Host.Outcome.next ?_)⟩
    exact (congrArg (State.settle · l) heq).trans (settle_pool_calm s l _ s.events { s.pool with free := s.pool.free - 1 } rfl hc)
  · refine hexec.trans (congrArg Host.Outcome.next ?_)
    rw [storeIn_lost (y := y) hs hge]
    exact settle_raise_calm hc rfl

/-! ## The pacing codes (R71, R81) -/

theorem flushDone_of_calm {x : Line} (h : x.calm) : x.flushDone = false := by
  rcases h with ⟨-, h⟩ | ⟨h, -⟩
  · exact h
  · obtain ⟨-, g, hg, hk, -⟩ := (underDrain_iff x).mp h
    rw [Line.flushDone, Line.longIs, hg]
    simp [hk]

/-- The oldest entry has its end sent, and no resend is in progress (R79, R81). -/
theorem oldestAnswerable_iff (x : Line) (k : Block) : x.oldestAnswerable k = true ↔ x.resend = false ∧ k.sent = true := by
  rw [Line.oldestAnswerable, Bool.and_eq_true, Bool.not_eq_true']

section
variable {s : State} {l : Fin 8}

/-- A nak that answers nothing is stray (R81). -/
theorem takeNak_stray (h : (s.line l).state = .stalled ∨ (s.line l).resend = true ∨ ∀ k, (s.line l).blocks.head? = some k → k.sent = false) :
    s.takeNak l = s.strayAck l := by
  unfold State.takeNak
  cases hk : (s.line l).blocks.head? with
  | none => simp only [hk]
  | some k =>
    simp only [hk]
    refine if_neg ?_
    rintro ⟨hst, hans⟩
    obtain ⟨hres, hsent⟩ := (oldestAnswerable_iff _ k).mp hans
    rcases h with h | h | h
    · exact hst h
    · rw [h] at hres; cases hres
    · rw [h k hk] at hsent; cases hsent

/-- A nak that answers the oldest block is an expiry of the ack timer (R81). -/
theorem takeNak_taken {k : Block} (hst : (s.line l).state ≠ .stalled) (hres : (s.line l).resend = false)
    (hk : (s.line l).blocks.head? = some k) (hsent : k.sent = true) : s.takeNak l = s.retryOrStall l := by
  unfold State.takeNak
  simp only [hk]
  exact if_pos ⟨hst, (oldestAnswerable_iff _ k).mpr ⟨hres, hsent⟩⟩

/-- A stray ack on a calm line, with what follows (R80). -/
theorem settle_strayAck {y : Line} (hb : y.binding = (s.line l).binding) (hc : y.calm) : ((s.setLine l y).strayAck l).settle l
    = (s.setLine l (Line.standing (s.prof l) { y with counters := { y.counters with strayAcks := min 65535 (y.counters.strayAcks + 1) } })).raise l
      (.lineError { KindSet.empty with strayAck := true } 0 0 0) := by
  rw [State.strayAck, State.setLine_mapLine]
  exact settle_raise_calm hc hb

theorem settle_lateAck {y : Line} (hb : y.binding = (s.line l).binding) (hc : y.calm) : ((s.setLine l y).lateAck l).settle l
    = (s.setLine l (Line.standing (s.prof l) { y with counters := { y.counters with lateAcks := min 65535 (y.counters.lateAcks + 1) } })).raise l
      (.lineError { KindSet.empty with lateAck := true } 0 0 0) := by
  rw [State.lateAck, State.setLine_mapLine]
  exact settle_raise_calm hc hb

end

/-- Settles O45: the stop and go codes, and the nak code. -/
theorem pacingCodesConsumed : Obligations.PacingCodesConsumed := by
  refine ⟨fun s l b parity => ?_, fun s l b parity => ?_⟩
  · intro x p v y hc hx he hm
    have hexec := exec_good (s := s) (l := l) (p := p) rfl hc hx he
    rw [goodCharacter_code (s := s) (l := l) (p := p) rfl hm] at hexec
    refine ⟨fun hv => hexec.trans (congrArg Host.Outcome.next ?_), fun hv hne => hexec.trans (congrArg Host.Outcome.next ?_)⟩
    · rw [State.goodUnderCode, if_pos hv, State.setLine_mapLine]
      exact settle_setLine_calm hc rfl
    · rw [State.goodUnderCode, if_neg hne, if_pos hv, State.setLine_mapLine]
      exact settle_setLine_calm hc rfl
  · intro x p v y hc hx he hm hnak hne
    have hexec : exec (.characterReceived l b parity true) s = .next (((s.setLine l y).takeNak l).settle l) := by
      rw [exec_good (s := s) (l := l) (p := p) rfl hc hx he, goodCharacter_block (s := s) (l := l) (p := p) rfl hm, if_neg hne, if_pos hnak]
      rfl
    have hline : (s.setLine l y).line l = y := s.line_setLine_same l y
    have hprof : (s.setLine l y).prof l = p := s.prof_setLine_same l y rfl
    refine ⟨fun h => hexec.trans (congrArg Host.Outcome.next ?_), fun k hst hres hk hsent => ?_⟩
    · rw [takeNak_stray (by rw [hline]; exact h)]
      exact settle_strayAck rfl hc
    · rw [takeNak_taken (k := k) (by rw [hline]; exact hst) (by rw [hline]; exact hres) (by rw [hline]; exact hk) hsent] at hexec
      refine ⟨fun hlt => hexec.trans (congrArg Host.Outcome.next ?_), fun hge last hlast => hexec.trans (congrArg Host.Outcome.next ?_)⟩
      · have := settle_retry (s := s.setLine l y) (l := l) (b := k) (by rw [hline, hprof]; exact hlt)
          (by rw [hline]; exact (working_iff y).mp (working_of_calm y hc)) (by rw [hline]; exact flushDone_of_calm hc) (by rw [hline]; exact hk)
        rw [this, hline, hprof, State.setLine_setLine]
        rfl
      · have := settle_stall (s := s.setLine l y) (l := l) (first := k) (last := last) (by rw [hline, hprof]; exact hge)
          (by rw [hline]; exact flushDone_of_calm hc) (by rw [hline]; exact hk) (by rw [hline]; exact hlast)
        rw [this, hline, hprof, State.setLine_setLine]
        rfl

end Sys2Proof.Machine
end

section
/-!
PROOF. Acks (O46): stray, late, or the retirement of the oldest block.
-/
namespace Sys2Proof.Machine

/-! ## The retirement of the oldest block (R77, R79, R87) -/

theorem ackAfterRetire_eq (p : Profile) (x : Line) : x.ackAfterRetire p = { x with
    ackTimer := if x.blocks = [] then .stopped else if x.state = .stalled then x.ackTimer
      else if x.cond = .offline ∨ x.cond = .mediaOut ∨ x.cond = .detached then .suspended else .running p.ackTimeout } := by
  unfold Line.ackAfterRetire Line.fullAck
  by_cases hnil : x.blocks = []
  · rw [if_pos (List.isEmpty_iff.mpr hnil), if_pos hnil]
  · rw [if_neg (mt List.isEmpty_iff.mp hnil), if_neg hnil]
    by_cases hst : x.state = .stalled
    · rw [if_pos hst, if_pos hst]
    · rw [if_neg hst, if_neg hst, ite_eq_of_iff (suspends_iff x.cond) rfl rfl]

/-- STALLED is left when the list is empty (R87, R57). -/
theorem leaveStalled_eq (x : Line) : (if x.state = .stalled ∧ x.blocks.isEmpty = true then x.leaveStalled else x) = { x with
    state := if x.state = .stalled ∧ x.blocks = [] then (if x.barrierReached then .held else .running) else x.state
    endWaiting := if x.state = .stalled ∧ x.blocks = [] then x.endWaiting && x.openBlock.isSome else x.endWaiting } := by
  by_cases h : x.state = .stalled ∧ x.blocks = []
  · rw [if_pos (h.imp_right List.isEmpty_iff.mpr), if_pos h, if_pos h]; rfl
  · rw [if_neg (mt (And.imp_right List.isEmpty_iff.mp) h), if_neg h, if_neg h]

theorem barrierReached_filter (x : Line) (rt : Pos) :
    ({ x with markers := x.markers.filter (fun m => !(m.kind == .mark && posLt m.pos rt)) } : Line).barrierReached = x.barrierReached := by
  unfold Line.barrierReached
  rw [barrier_filter]

/-- The line after its oldest block is retired, from the grant-due flag. -/
def Line.retired (p : Profile) (k : Block) (ks : List Block) (due : Bool) (x : Line) : Line :=
  { x with
    Rt := k.fin
    blocks := ks
    retry := 0
    outQ := x.outQ.dropWhile (OutCell.covered k.fin)
    markers := x.markers.filter (fun m => !(m.kind == .mark && posLt m.pos k.fin))
    ackTimer := if ks = [] then .stopped else if x.state = .stalled then x.ackTimer
      else if x.cond = .offline ∨ x.cond = .mediaOut ∨ x.cond = .detached then .suspended else .running p.ackTimeout
    state := if x.state = .stalled ∧ ks = [] then (if x.barrierReached then .held else .running) else x.state
    endWaiting := if x.state = .stalled ∧ ks = [] then x.endWaiting && x.openBlock.isSome else x.endWaiting
    grantDue := due }

/-- What follows the move of Rt, on the line. -/
theorem retired_eq (p : Profile) (k : Block) (ks : List Block) (due : Bool) (x y : Line)
    (hy : y = { x with
      blocks := ks, retry := 0, Rt := k.fin, outQ := x.outQ.dropWhile (OutCell.covered k.fin), grantDue := due
      markers := x.markers.filter (fun m => !(m.kind == .mark && posLt m.pos k.fin)) }) :
    (if (y.ackAfterRetire p).state = .stalled ∧ (y.ackAfterRetire p).blocks.isEmpty = true then (y.ackAfterRetire p).leaveStalled
      else y.ackAfterRetire p) = x.retired p k ks due := by
  have hbar : y.barrierReached = x.barrierReached := by rw [hy]; exact barrierReached_filter x k.fin
  rw [leaveStalled_eq, ackAfterRetire_eq, Line.retired, ← hbar]
  subst hy
  rfl

/-- A line set and then changed, with the Event Unit and the pool replaced too. -/
theorem mapLine_setLine_with (s : State) (l : Fin 8) (y : Line) (ev : EventUnit) (pl : Pool) (f : Line → Line) :
    ({ s.setLine l y with events := ev, pool := pl } : State).mapLine l f = { s.setLine l (f y) with events := ev, pool := pl } := by
  show ({ (s.setLine l y).setLine l (f ((s.setLine l y).line l)) with events := ev, pool := pl } : State) = _
  rw [s.line_setLine_same, State.setLine_setLine]

/-- The oldest block is retired: the line, the cells freed, and the marks reached (R79). -/
theorem retireOldest_frame (s : State) (l : Fin 8) (x : Line) (hb : x.binding = (s.line l).binding) (k : Block) (ks : List Block)
    (hk : x.blocks = k :: ks) : ∃ due, (s.setLine l x).retireOldest l k = { s.setLine l (x.retired (s.prof l) k ks due) with
        events := (x.markers.filter (fun m => m.kind == .mark && posLt m.pos k.fin)).foldl
          (fun e m => e.raise l.castSucc (.mark 1 m.tag m.accepted)) s.events
        pool := { s.pool with free := s.pool.free + (x.outQ.length - (x.outQ.dropWhile (OutCell.covered k.fin)).length) } }
      ∧ (due = true ↔ x.grantDue = true ∨ x.becomesDue (s.prof l) { x with Rt := k.fin, outQ := x.outQ.dropWhile (OutCell.covered k.fin) }) := by
  have hprof : (s.setLine l x).prof l = s.prof l := s.prof_setLine_same l x hb
  have hfirst : (s.setLine l x).mapLine l (fun ln => { ln with blocks := ln.blocks.tail, retry := 0 })
      = s.setLine l { x with blocks := ks, retry := 0 } := by
    rw [State.setLine_mapLine, hk]; rfl
  obtain ⟨due, hmove, hdue⟩ := State.moveRt_frame (s.setLine l { x with blocks := ks, retry := 0 }) l k.fin
  rw [s.line_setLine_same] at hmove hdue
  rw [show (s.setLine l { x with blocks := ks, retry := 0 }).prof l = s.prof l from s.prof_setLine_same l _ hb] at hdue
  refine ⟨due, ?_, hdue⟩
  have hline : ((s.setLine l { x with blocks := ks, retry := 0 }).moveRt l k.fin).line l = { x with
      blocks := ks, retry := 0, Rt := k.fin, outQ := x.outQ.dropWhile (OutCell.covered k.fin), grantDue := due } := by
    rw [hmove]; exact State.line_setLine_same _ l _
  have hmarks := reachMarks_eq ((s.setLine l { x with blocks := ks, retry := 0 }).moveRt l k.fin) l
  rw [hline] at hmarks
  have hmid : ((s.setLine l { x with blocks := ks, retry := 0 }).moveRt l k.fin).reachMarks l = { s.setLine l { x with
        blocks := ks, retry := 0, Rt := k.fin, outQ := x.outQ.dropWhile (OutCell.covered k.fin), grantDue := due
        markers := x.markers.filter (fun m => !(m.kind == .mark && posLt m.pos k.fin)) } with
      events := (x.markers.filter (fun m => m.kind == .mark && posLt m.pos k.fin)).foldl
        (fun e m => e.raise l.castSucc (.mark 1 m.tag m.accepted)) s.events
      pool := { s.pool with free := s.pool.free + (x.outQ.length - (x.outQ.dropWhile (OutCell.covered k.fin)).length) } } := by
    rw [hmarks, hmove]
    simp [State.setLine, State.freeCells]
  unfold State.retireOldest
  simp only [hprof, hfirst, State.mapLine_mapLine, hmid]
  rw [mapLine_setLine_with, retired_eq (s.prof l) k ks due x _ rfl]

/-! ## The obligation -/

section
variable {s : State} {l : Fin 8} {k : Block} {ks : List Block}

theorem takeAck_none (h : (s.line l).blocks = []) : s.takeAck l = s.strayAck l := by
  unfold State.takeAck
  simp only [h, List.head?_nil]

theorem takeAck_late (h : (s.line l).blocks = k :: ks) (hst : (s.line l).state ≠ .stalled)
    (hl : (s.line l).resend = true ∨ k.sent = false) : s.takeAck l = s.lateAck l := by
  unfold State.takeAck
  simp only [h, List.head?_cons]
  refine if_neg (fun hc => ?_)
  obtain ⟨hres, hsent⟩ := (oldestAnswerable_iff _ k).mp (hc.resolve_left hst)
  rcases hl with hl | hl
  · rw [hl] at hres; cases hres
  · rw [hl] at hsent; cases hsent

theorem takeAck_taken (h : (s.line l).blocks = k :: ks) (ht : (s.line l).state = .stalled ∨ ((s.line l).resend = false ∧ k.sent = true)) :
    s.takeAck l = s.retireOldest l k := by
  unfold State.takeAck
  simp only [h, List.head?_cons]
  exact if_pos (ht.imp_right (oldestAnswerable_iff _ k).mpr)

end

/-- Settles O46: stray with no entry, late, or taken. -/
theorem acksTaken : Obligations.AcksTaken := by
  intro s l b parity x p v y hc hx he hm hv
  have hexec : exec (.characterReceived l b parity true) s = .next (((s.setLine l y).takeAck l).settle l) := by
    rw [exec_good (s := s) (l := l) (p := p) rfl hc hx he, goodCharacter_block (s := s) (l := l) (p := p) rfl hm, if_pos hv]
    rfl
  have hline : (s.setLine l y).line l = y := s.line_setLine_same l y
  refine ⟨fun hnil => hexec.trans (congrArg Host.Outcome.next ?_), fun k ks hk hst hl => hexec.trans (congrArg Host.Outcome.next ?_),
    fun k ks hk ht => ?_⟩
  · rw [takeAck_none (by rw [hline]; exact hnil)]
    exact settle_strayAck rfl hc
  · rw [takeAck_late (k := k) (ks := ks) (by rw [hline]; exact hk) (by rw [hline]; exact hst) (by rw [hline]; exact hl)]
    exact settle_lateAck rfl hc
  · rw [takeAck_taken (k := k) (ks := ks) (by rw [hline]; exact hk) (by rw [hline]; exact ht)] at hexec
    obtain ⟨due, heq, hdue⟩ := retireOldest_frame s l y rfl k ks hk
    rw [heq] at hexec
    obtain ⟨hthen, hcalm⟩ := settle_follows s l (y.retired p k ks due) _ _ rfl
    exact ⟨y.retired p k ks due, _, rfl, hdue.trans (or_congr Iff.rfl (Line.becomesDue_congr p y _ _ rfl rfl rfl rfl rfl rfl)), hexec, hthen, hcalm⟩

end Sys2Proof.Machine
end

section
/-!
PROOF. Status inputs (O47): the debounce, the adoption of a combination, and the change of condition.
-/
namespace Sys2Proof.Machine

/-! ## Adoption (R116, R118, R119) -/

theorem reported_iff (m : MapEntry) : m.reported = true ↔ m.report = true ∨ m.cond = .invalid := by
  rw [MapEntry.reported, Bool.or_eq_true, beq_iff_eq]

/-- The line when a different condition is adopted, before its report (R116, R119). -/
def Line.adopting (p : Profile) (c : Fin 8) (x : Line) : Line :=
  { x with
    settled := c, candidate := none, debounceTimer := .stopped
    cond := p.map[c].cond
    unreported := min 255 (x.unreported + 1)
    ackTimer := match x.ackTimer with
      | .stopped => AckTimer.stopped
      | .running ms => if p.map[c].cond = .offline ∨ p.map[c].cond = .mediaOut ∨ p.map[c].cond = .detached then .suspended else .running ms
      | .suspended => if p.map[c].cond = .offline ∨ p.map[c].cond = .mediaOut ∨ p.map[c].cond = .detached then .suspended
          else .running p.ackTimeout }

theorem ackOnCondition_adopting (p : Profile) (c : Fin 8) (x : Line) :
    Line.ackOnCondition p { x with
        settled := c, candidate := none, debounceTimer := .stopped, cond := (p.entry c).cond, unreported := addCount x.unreported 1 }
      = x.adopting p c := by
  rw [ackOnCondition_eq]
  rfl

section
variable {s : State} {l c : Fin 8}

theorem adopt_same (h : (s.prof l).map[c].cond = (s.line l).cond) :
    s.adopt l c = s.setLine l { s.line l with settled := c, candidate := none, debounceTimer := .stopped } := if_pos h

/-- A different condition, with its report still to come (R118). -/
theorem adopt_other (h : (s.prof l).map[c].cond ≠ (s.line l).cond) : s.adopt l c
    = if (s.prof l).map[c].reported then (s.setLine l ((s.line l).adopting (s.prof l) c)).reportCondition l
      else s.setLine l ((s.line l).adopting (s.prof l) c) := by
  refine (if_neg h).trans ?_
  rw [State.mapLine_mapLine, State.mapLine, ackOnCondition_adopting]
  rfl

theorem reportCondition_setLine (y : Line) : (s.setLine l y).reportCondition l
    = (s.setLine l { y with lastReported := y.cond, unreported := 0 }).raise l (.condition y.cond y.lastReported y.unreported) := by
  unfold State.reportCondition
  simp only [s.line_setLine_same, State.setLine_mapLine]

end

/-! ## The obligation -/

theorem decodes_iff (p : Profile) (x : Line) : x.decodes p = true ↔ (x.isOpen ∨ x.underDrain = true) ∧ p.decoding = true := by
  rw [Line.decodes, Bool.and_eq_true, working_iff]

/-- Settles O47: what a change of the status inputs and the debounce timer do, and what an adoption does. -/
theorem conditionsChange : Obligations.ConditionsChange := by
  refine ⟨fun s l c => ?_, fun s l c hc ht => ?_, fun s l c => ?_⟩
  · intro x p
    refine ⟨fun ho hd hne => ?_, fun h => congrArg Host.Outcome.next (if_neg ?_)⟩
    · have hgo : x.decodes p = true ∧ c ≠ x.st := ⟨(decodes_iff p x).mpr ⟨ho, hd⟩, hne⟩
      refine ⟨fun hdb => congrArg Host.Outcome.next ((if_pos hgo).trans (congrArg (State.settle · l) ((if_neg hdb).trans ?_))),
        fun hdb => congrArg Host.Outcome.next ((if_pos hgo).trans (congrArg (State.settle · l) (if_pos hdb)))⟩
      exact s.setLine_mapLine l _ _
    · rintro ⟨hdec, hne⟩
      obtain ⟨ho, hd⟩ := (decodes_iff p x).mp hdec
      rcases h with h | h | h
      · rw [h] at hd; cases hd
      · exact hne h
      · exact working_false h ((working_iff x).mpr ho)
  · refine congrArg Host.Outcome.next ?_
    show s.debounceExpiry l = _
    unfold State.debounceExpiry
    simp only [hc]
    exact if_pos ht
  · intro x p m y n
    refine ⟨adopt_same, fun hne => ?_⟩
    intro a
    refine ⟨fun hrep => ?_, fun hrep hinv => ?_⟩
    · rw [adopt_other hne, if_pos ((reported_iff _).mpr hrep), reportCondition_setLine]
      rfl
    · rw [adopt_other hne, if_neg]
      · rfl
      · rw [reported_iff]
        rintro (h | h)
        · rw [show p.map[c].report = false from hrep] at h; cases h
        · exact hinv h

end Sys2Proof.Machine
end

section
/-!
PROOF. The arbiter's choice (O48).
-/
namespace Sys2Proof.Machine

/-! ## The order of the choice (R172, R175) -/

section
variable {s : State}

theorem arbiterChoice_busy {f : TxFrame} (h : s.trunk.tx = some f) : s.arbiterChoice = s := by
  unfold State.arbiterChoice
  simp only [h]

theorem arbiterChoice_announcing (h : s.trunk.tx = none) (hl : s.trunk.link = .announcing) :
    s.arbiterChoice = if s.trunk.announceDue then s.buildAnnounce else s := by
  unfold State.arbiterChoice
  simp only [h, hl]

theorem arbiterChoice_up (h : s.trunk.tx = none) (hl : s.trunk.link = .up) : s.arbiterChoice = s.arbitrateUp := by
  unfold State.arbiterChoice
  simp only [h, hl]

theorem arbitrateUp_session {w : SessionResponse} (h : s.trunk.session = some w) : s.arbitrateUp = s.buildSession w := by
  unfold State.arbitrateUp
  simp only [h]

theorem arbitrateUp_response (h : s.trunk.session = none) {i : RespItem} {rest : List RespItem} (ho : s.reqs.order = i :: rest) :
    s.arbitrateUp = s.buildResponse i := by
  unfold State.arbitrateUp
  simp only [h, ho, List.head?_cons]

theorem arbitrateUp_report (h : s.trunk.session = none) (ho : s.reqs.order = []) {t : EventUnit × Report} (ht : s.events.turn = some t) :
    s.arbitrateUp = s.buildReport t := by
  unfold State.arbitrateUp
  simp only [h, ho, List.head?_nil, ht]

theorem arbitrateUp_lines (h : s.trunk.session = none) (ho : s.reqs.order = []) (ht : s.events.turn = none) :
    (s.dueLines.isEmpty = false → s.arbitrateUp = s.buildGrant)
      ∧ (s.dueLines.isEmpty = true → ∀ l, (fromPointer s.trunk.pointer).find? (fun l => (s.line l).offers) = some l →
        s.arbitrateUp = s.buildData l)
      ∧ (s.dueLines.isEmpty = true → (fromPointer s.trunk.pointer).find? (fun l => (s.line l).offers) = none → s.arbitrateUp = s) := by
  unfold State.arbitrateUp
  simp only [h, ho, List.head?_nil, ht]
  exact ⟨fun hd => if_pos hd, fun hd l hl => by simp [hd, hl], fun hd hn => by simp [hd, hn]⟩

end

/-! ## What is built (R159, R160, R176) -/

/-- A completed slot's response: the slot becomes sending, and the other slots stay (R159). -/
theorem buildSlot_completed (s : State) {n : Fin 4} {rest : List RespItem} {k : Slot} {reply : Reply} (ho : s.reqs.order = .slot n :: rest)
    (hk : s.reqs.slots.find? (fun k => k.num == n) = some k) (hp : k.phase = .completed reply) :
    s.buildSlot n = State.buildUp { s with reqs := { s.reqs with
        order := rest, slots := s.reqs.slots.map (fun (x : Slot) => if x.num = n then x.send else x) } } .response 15#4
      ([k.tag, k.code, reply.result.code] ++ reply.data) (.slot n) := by
  unfold State.buildSlot
  simp only [hk, hp, Phase.reply?]
  rw [RequestUnit.popOrder, ho]
  rfl

theorem mem_sent_slots {slots : List Slot} {n : Fin 4} {k : Slot} {reply : Reply} (hk : slots.find? (fun k => k.num == n) = some k)
    (hp : k.phase = .completed reply) :
    { k with phase := .sending reply } ∈ slots.map (fun (x : Slot) => if x.num = n then x.send else x)
      ∧ ∀ j ∈ slots, j.num ≠ n → j ∈ slots.map (fun (x : Slot) => if x.num = n then x.send else x) := by
  have hn : k.num = n := beq_iff_eq.mp (List.find?_some (p := fun k : Slot => k.num == n) hk)
  refine ⟨List.mem_map.mpr ⟨k, List.mem_of_find?_eq_some hk, (if_pos hn).trans ?_⟩, fun j hj hne => List.mem_map.mpr ⟨j, hj, if_neg hne⟩⟩
  unfold Slot.send
  simp only [hp]

theorem buildRefusal_head (s : State) {rest : List RespItem} {e : RefusalEntry} (ho : s.reqs.order = .refusal :: rest)
    (he : s.reqs.refusals.head? = some e) :
    s.buildRefusal = State.buildUp { s with reqs := { s.reqs with order := rest } } .response 15#4 [e.tag, e.code, e.result.code] .refusal := by
  unfold State.buildRefusal
  simp only [he]
  rw [RequestUnit.popOrder, ho]
  rfl

theorem granted_of_due (x : Line) (h : x.grantDue = true) : x.granted =
    { x with Lsent := x.A + BitVec.ofNat 32 x.room, grantDue := false, recentGrant := true } := if_pos h

theorem granted_of_not_due (x : Line) (h : x.grantDue = false) : x.granted = x := if_neg (by rw [h]; exact Bool.false_ne_true)

theorem offers_iff (x : Line) : x.offers = true ↔ x.paused = false ∧ ∃ c ∈ x.inQ, c.isSealed = true ∧ c.inFrame = false := by
  simp only [Line.offers, Bool.and_eq_true, Bool.not_eq_true', List.any_eq_true]

/-- An inbound DATA frame: the frame, the pointer, and the line's cells (R22, R175). -/
theorem buildData_frame (s : State) (l : Fin 8) :
    (s.buildData l).trunk = { s.trunk with
        tx := some ⟨.data, BitVec.ofNat 4 l.val, s.trunk.txSeq,
          (((s.line l).inQ.filter (fun c => c.isSealed && !c.inFrame)).take 2).flatMap InCell.bytes, .cells l⟩
        txSeq := s.trunk.txSeq + 1
        pointer := l + 1 }
      ∧ (s.buildData l).line l = { s.line l with inQ := markInFrame (s.line l).frameCells.length (s.line l).inQ }
      ∧ (s.buildData l).pool = s.pool ∧ (s.buildData l).events = s.events ∧ (s.buildData l).reqs = s.reqs
      ∧ ∀ k, k ≠ l → (s.buildData l).line k = s.line k :=
  ⟨rfl, s.line_mapLine_same l (fun ln => { ln with inQ := markInFrame (s.line l).frameCells.length ln.inQ }), rfl, rfl, rfl, fun _ h => s.line_mapLine_ne (fun ln => { ln with inQ := markInFrame (s.line l).frameCells.length ln.inQ }) h⟩

/-! ## The obligation -/

theorem not_offers_of_all {s : State} (h : ∀ l, (s.line l).offers = false) :
    (fromPointer s.trunk.pointer).find? (fun l => (s.line l).offers) = none :=
  List.find?_eq_none.mpr (fun l _ => by rw [h l]; exact Bool.false_ne_true)

/-- Settles O48: what the arbiter builds, in the order of its choice. -/
theorem arbiterChooses : Obligations.ArbiterChooses := by
  refine ⟨fun s f h => congrArg Host.Outcome.next (arbiterChoice_busy h), fun s htx hl => ?_, fun s htx hl => ?_, offers_iff, rfl, rfl, rfl⟩
  · refine ⟨fun h => congrArg Host.Outcome.next ((arbiterChoice_announcing htx hl).trans (if_neg ?_)),
      fun h => congrArg Host.Outcome.next ((arbiterChoice_announcing htx hl).trans ((if_pos h).trans rfl))⟩
    rw [h]; exact Bool.false_ne_true
  · intro sent
    have hexec : ∀ {t : State}, s.arbitrateUp = t → exec .arbiterChoice s = .next t :=
      fun h => congrArg Host.Outcome.next ((arbiterChoice_up htx hl).trans h)
    refine ⟨fun w hw => hexec (arbitrateUp_session hw), fun hs => ⟨fun n rest k reply ho hk hp => ?_, fun rest e ho he => ?_, fun ho => ?_⟩⟩
    · obtain ⟨hsending, hothers⟩ := mem_sent_slots hk hp
      exact ⟨_, hexec ((arbitrateUp_response hs ho).trans (buildSlot_completed s ho hk hp)), rfl, hsending, hothers⟩
    · exact hexec ((arbitrateUp_response hs ho).trans (buildRefusal_head s ho he))
    · refine ⟨fun e rep ht => hexec (arbitrateUp_report hs ho ht), fun ht => ?_⟩
      obtain ⟨hgrant, hdata, hnothing⟩ := arbitrateUp_lines hs ho ht
      refine ⟨fun hdue => ⟨hexec (hgrant ((dueLines_iff s).mpr hdue)), fun l => ⟨granted_of_due _, granted_of_not_due _⟩⟩, fun hno => ?_⟩
      have hempty : s.dueLines.isEmpty = true := by
        rw [← Bool.not_eq_false, dueLines_iff]
        rintro ⟨l, hd⟩
        rw [hno l] at hd; cases hd
      refine ⟨fun hn => hexec (hnothing hempty (not_offers_of_all hn)), fun l hoff hbefore => ?_⟩
      obtain ⟨htrunk, hline, hpool, hev, hreqs, hother⟩ := buildData_frame s l
      refine ⟨_, hexec (hdata hempty l (find_fromPointer (fun l => (s.line l).offers) _ l hoff hbefore)), htrunk, by rw [hline], ?_, ?_, ?_, hpool, hev, hreqs,
        hother⟩
      · rw [hline]; exact markInFrame_contents _ _
      · intro i c hi hc
        rw [hline]; exact markInFrame_inFrame _ _ i c hi hc
      · rw [hline]
        exact (markInFrame_filter _ _).trans (drop_length_take _)

end Sys2Proof.Machine
end

section
/-!
PROOF. The Event Unit's turn (O49), and the end of a frame on TTX (O50).
-/
namespace Sys2Proof.Machine

/-! ## Eligibility and records (R142, R144) -/

theorem mem_allSources : ∀ src : Fin 9, src ∈ allSources := by decide

theorem mem_records (e : EventUnit) (c : Fin 8) (src : Fin 9) (r : EventRec) : (src, r) ∈ e.records c ↔ e.place c src = some r := by
  unfold EventUnit.records
  rw [List.mem_filterMap]
  refine ⟨fun ⟨q, _, hq⟩ => ?_, fun h => ⟨src, mem_allSources src, by rw [h]; rfl⟩⟩
  obtain ⟨r', hr, heq⟩ := Option.map_eq_some_iff.mp hq
  cases heq
  exact hr

/-- Records stand in ascending source order (R144). -/
theorem records_sorted (e : EventUnit) (c : Fin 8) : (e.records c).Pairwise (fun a b => a.1 < b.1) := by
  unfold EventUnit.records
  refine List.Pairwise.filterMap _ (R := (· < ·)) (fun a a' hlt b hb b' hb' => ?_) (by decide)
  obtain ⟨r, -, rfl⟩ := Option.map_eq_some_iff.mp hb
  obtain ⟨r', -, rfl⟩ := Option.map_eq_some_iff.mp hb'
  exact hlt

theorem records_ne_nil_iff (e : EventUnit) (c : Fin 8) : (e.records c).isEmpty = false ↔ ∃ src r, e.place c src = some r := by
  rw [List.isEmpty_eq_false_iff_exists_mem]
  exact ⟨fun ⟨⟨src, r⟩, h⟩ => ⟨src, r, (mem_records e c src r).mp h⟩, fun ⟨src, r, h⟩ => ⟨(src, r), (mem_records e c src r).mpr h⟩⟩

theorem eligible_iff (e : EventUnit) (c : Fin 8) : e.eligible c = true ↔ ((e.cls c).mask = false ∧ (∃ src r, e.place c src = some r)
    ∧ (e.cls c).report = none ∧ ∀ d, (e.cls d).report ≠ none → e.order.idxOf c < e.order.idxOf d) := by
  have hin : e.inService c = false ↔ (e.cls c).report = none := by rw [← Bool.not_eq_true, inService_iff, Classical.not_not]
  have habove : allClasses.all (fun d => !e.inService d || e.above c d) = true
      ↔ ∀ d, (e.cls d).report ≠ none → e.order.idxOf c < e.order.idxOf d := by
    rw [List.all_eq_true]
    simp only [Bool.or_eq_true, Bool.not_eq_true', EventUnit.above, decide_eq_true_eq]
    refine ⟨fun h d hd => (h d (by clear hd; revert d; decide)).resolve_left (by rw [(inService_iff e d).mpr hd]; exact Bool.noConfusion), fun h d _ => ?_⟩
    cases hs : e.inService d with
    | false => exact Or.inl rfl
    | true => exact Or.inr (h d ((inService_iff e d).mp hs))
  rw [EventUnit.eligible, Bool.and_eq_true, Bool.and_eq_true, Bool.and_eq_true, Bool.not_eq_true', Bool.not_eq_true', Bool.not_eq_true',
    records_ne_nil_iff, hin, habove, and_assoc, and_assoc]

/-! ## The turn (R143 to R145) -/

theorem repeats_iff (e : EventUnit) (c : Fin 8) : ((e.cls c).due && e.inService c) = true ↔ (e.cls c).due = true ∧ (e.cls c).report ≠ none := by
  rw [Bool.and_eq_true, inService_iff]

theorem turn_repeat (e : EventUnit) {c : Fin 8} {rep : Report} (hrep : (e.cls c).report = some rep) (hdue : (e.cls c).due = true) (hc : c ∈ e.order)
    (hfirst : ∀ d ∈ e.order, (e.cls d).due = true → (e.cls d).report ≠ none → e.order.idxOf c ≤ e.order.idxOf d) :
    e.turn = some (e.repeatSent c, rep) := by
  have hfind : e.repeatClass = some c := find_of_idxOf_le hc ((repeats_iff e c).mpr ⟨hdue, by rw [hrep]; exact Option.some_ne_none _⟩)
    (fun d hd hp => hfirst d hd ((repeats_iff e d).mp hp).1 ((repeats_iff e d).mp hp).2)
  unfold EventUnit.turn
  simp only [hfind, hrep, Option.map_some]

theorem turn_new (e : EventUnit) (hno : ∀ c ∈ e.order, ¬ ((e.cls c).due = true ∧ (e.cls c).report ≠ none)) :
    e.turn = (e.order.find? e.eligible).map e.newReport := by
  have hfind : e.repeatClass = none := List.find?_eq_none.mpr (fun c hc hp => hno c hc ((repeats_iff e c).mp hp))
  unfold EventUnit.turn
  simp only [hfind]
  rfl

theorem flagByte_three : ∀ a b c : Bool, flagByte [a, b, c] = (if a then 1#8 else 0#8) + (if b then 2#8 else 0#8) + (if c then 4#8 else 0#8) := by
  decide

theorem flagByte_six : ∀ a b c d e f : Bool, flagByte [a, b, c, d, e, f]
    = (if a then 1#8 else 0#8) + (if b then 2#8 else 0#8) + (if c then 4#8 else 0#8) + (if d then 8#8 else 0#8)
      + (if e then 16#8 else 0#8) + (if f then 32#8 else 0#8) := by
  decide

/-- Settles O49: the repeat, the new report, and what a report carries. -/
theorem eventTurns : Obligations.EventTurns := by
  refine ⟨fun e => ⟨fun c rep hrep hdue hc hfirst => turn_repeat e hrep hdue hc hfirst, fun hno => ⟨fun c hc hel hfirst => ?_, fun hel => ?_⟩,
      eligible_iff e⟩, fun e c => ⟨records_sorted e c, mem_records e c⟩, fun _ => rfl, fun _ _ _ _ _ _ => rfl, fun _ _ _ => rfl, ?_,
    fun _ _ _ => rfl, ?_, ?_, fun _ _ _ => rfl, fun _ _ => rfl, rfl⟩
  · refine ⟨(e.newReport c).1, ?_, ?_, fun d hd => ?_, place_newReport e c⟩
    · rw [turn_new e hno, find_of_idxOf_le hc hel hfirst]; rfl
    · rw [cls_newReport, if_pos rfl]; rfl
    · rw [cls_newReport, if_neg hd]
  · rw [turn_new e hno, List.find?_eq_none.mpr (fun c hc => by rw [hel c hc]; exact Bool.false_ne_true)]; rfl
  · intro a b c n
    exact congrArg (· :: [byteOf n]) (flagByte_three a b c)
  · intro a b c d e f x y z
    exact congrArg (· :: [byteOf x, byteOf y, byteOf z]) (flagByte_six a b c d e f)
  · intro a b c x y
    exact congrArg (· :: ([byteOf x] ++ be16 y)) (flagByte_three a b c)

/-! ## The end of a frame (O50) -/

/-- A line's entry to CLOSED gives back the cells that are left to it, with those just freed (R7, R22). -/
theorem closedBy_freed (u : State) (l : Fin 8) (g : LongReq) (nIn nOut : Nat) {z : Line} (hz : z.closedFrom = (u.line l).closedFrom)
    (hq : z.outQ = (u.line l).outQ ∧ z.resOut = (u.line l).resOut ∧ z.resIn = (u.line l).resIn) (hin : z.inQ.length ≤ (u.line l).inQ.length) :
    State.closedBy { u.setLine l z with pool := { u.pool with free := u.pool.free + ((u.line l).inQ.length - z.inQ.length) } } l g nIn nOut
      = u.closedBy l g nIn nOut := by
  have hline : ({ u.setLine l z with pool := { u.pool with free := u.pool.free + ((u.line l).inQ.length - z.inQ.length) } } : State).line l = z :=
    u.line_setLine_same l z
  obtain ⟨hout, hro, hri⟩ := hq
  have hfree : u.pool.free + ((u.line l).inQ.length - z.inQ.length) + ((u.line l).outQ.length + z.inQ.length)
      = u.pool.free + ((u.line l).outQ.length + (u.line l).inQ.length) := by omega
  unfold State.closedBy
  rw [hline, hz, hout, hro, hri]
  simp only [hfree, State.setLine, Vector.set_set]

/-- Settles O50: what the frame on TTX carried is given back. -/
theorem framesEnd : Obligations.FramesEnd := by
  intro s f hf u
  have hexec : ∀ {t : State}, s.frameEnd = t → exec .frameEnd s = .next t := fun h => congrArg Host.Outcome.next h
  refine ⟨fun hc => hexec ?_, fun n hc => hexec ?_, fun hc => hexec ?_, fun l hc => ?_⟩
  · unfold State.frameEnd; simp only [hf, hc]; rfl
  · unfold State.frameEnd; simp only [hf, hc]; rfl
  · unfold State.frameEnd; simp only [hf, hc]; rfl
  · intro x p
    obtain ⟨t, a, b, c, hdrop, hmarks, hpaces, hidle⟩ := dropInbound_of_line u l x rfl (fun c => !c.inFrame)
    have hend : s.frameEnd = (u.dropInbound l (fun c => !c.inFrame)).settle l := by
      unfold State.frameEnd; simp only [hf, hc]; rfl
    generalize hz : ({ x with inQ := x.inQ.filter (fun c => !c.inFrame), idleTimer := t, wanted := a, lastSent := b, rdyo := c } : Line) = z at *
    have hinQ : z.inQ = x.inQ.filter (fun c => !c.inFrame) := by rw [← hz]
    have hle : z.inQ.length ≤ x.inQ.length := by rw [hinQ]; exact List.length_filter_le _ _
    rw [hdrop, ← hinQ] at hend
    have hthen := settle_thenSettles ((u.setLine l z).freeCells (x.inQ.length - z.inQ.length)) l
    have hline : ((u.setLine l z).freeCells (x.inQ.length - z.inQ.length)).line l = z := u.line_setLine_same l z
    have hprof : ((u.setLine l z).freeCells (x.inQ.length - z.inQ.length)).prof l = p := u.prof_setLine_same l z (by rw [← hz]; rfl)
    refine ⟨z, _, by rw [← hz], hidle, hmarks, hpaces, ⟨hexec hend, hthen, fun hcalm => ?_⟩, fun g hst hg hk => ?_⟩
    · have hzc : z.calm := by rw [← hz]; exact hcalm
      rw [settle_calm _ l (by rw [hline]; exact hzc), hline, hprof]
      rfl
    · obtain ⟨-, -, hdrain⟩ := hthen
      rw [hline] at hdrain
      obtain ⟨-, hclose, -⟩ := hdrain g (by rw [← hz]; exact hst) (by rw [← hz]; exact hg)
      have hchar : z.inCharacter = x.inCharacter ∧ z.tx = x.tx := by rw [← hz]; exact ⟨rfl, rfl⟩
      have := hclose (by rw [hchar.1, hchar.2]; exact hk) (fun c hc' => by
        rw [hinQ] at hc'
        simpa using (List.mem_filter.mp hc').2)
      exact Eq.mp (congrArg (State.thenCompletesReset · _)
        (closedBy_freed u l g _ _ (by rw [← hz]; rfl) (by rw [← hz]; exact ⟨rfl, rfl, rfl⟩) hle)) this

end Sys2Proof.Machine
end

section
/-!
PROOF. Drains: taken (O27), and the completions of a close (O28).
-/
namespace Sys2Proof.Machine

/-! ## Completions of a close (R48, R51) -/

theorem noneInFrame_iff (x : Line) : x.noneInFrame = true ↔ ∀ c ∈ x.inQ, c.inFrame = false := by
  simp only [Line.noneInFrame, List.all_eq_true, Bool.not_eq_true']

/-- A line closes when its drain is complete, or its abort has a free transmitter, and no frame carries its cells (R7, R48, R51). -/
theorem closesNow_of {x : Line} {g : LongReq} (hst : x.state = .draining) (hg : x.long = some g) (hn : ∀ c ∈ x.inQ, c.inFrame = false)
    (h : (g.kind = .closeDrain ∧ g.completing = true) ∨ (g.kind = .closeAbort ∧ x.inCharacter = false ∧ x.tx ≠ .brk)) : x.closesNow = true := by
  have hnone := (noneInFrame_iff x).mpr hn
  rcases h with ⟨hk, hc⟩ | ⟨hk, hch, htx⟩
  · simp [Line.closesNow, Line.drainTaken, hst, hg, hk, hc, hnone]
  · simp [Line.closesNow, Line.abortDone, Line.longIs, hst, hg, hk, hch, htx, hnone]

/-- A line that is ready enters CLOSED, and PART RESET may complete (R7, R163). -/
theorem testClose_completes (s : State) (l : Fin 8) {g : LongReq} (hg : (s.line l).long = some g) (hc : (s.line l).closesNow = true) :
    (s.closedBy l g g.inBytes g.outBytes).thenCompletesReset (s.testClose l).testPartReset := by
  rw [testClose_closedBy s l g hg hc]
  exact testPartReset_thenCompletesReset _

theorem underAbort_of {x : Line} {g : LongReq} (hst : x.state = .draining) (hg : x.long = some g) (hk : g.kind = .closeAbort) :
    x.underAbort = true := by
  simp [Line.underAbort, Line.longIs, hst, hg, hk]

/-- Settles O28: the completion of a drain, the entry to CLOSED, and the completion of an abort. -/
theorem closesComplete : Obligations.ClosesComplete := by
  intro s l g hst hg
  refine ⟨fun hk hnc hS hob he hbl htx => ⟨_, rfl, ?_⟩, fun hk hc hn => ⟨_, rfl, ?_⟩, fun hk hch htx hn => ⟨(s.testClose l).testPartReset, ?_, rfl, ?_⟩,
    s.line_setLine_same l _, fun n hn => ?_⟩
  · exact testDrain_complete s l (s.line l) g rfl hst hg hk hnc ((drainDone_iff _).mpr ⟨hS, hob, he, hbl, htx⟩)
  · exact testClose_completes s l hg (closesNow_of hst hg hn (Or.inl ⟨hk, hc⟩))
  · exact congrArg Host.Outcome.next (if_pos (underAbort_of hst hg hk))
  · exact testClose_completes s l hg (closesNow_of hst hg hn (Or.inr ⟨hk, hch, htx⟩))
  · show s.reqs.answerLong g _ = _
    rw [RequestUnit.answerLong, hn]

/-! ## A drain taken (R46) -/

theorem u8_second (a b : Byte) (ops : List Byte) : u8 (a :: b :: ops) 1 = b.toNat := rfl

section
variable (s : State) (n : Fin 4) (a b : Byte)

theorem ownCloseLine_bad (h : 8 ≤ a.toNat ∨ 1 < b.toNat) : ownCloseLine s n [a, b] = s.complete n (.plain .badOperand) := by
  unfold ownCloseLine
  rw [u8_second]
  rcases h with h | h
  · rw [indexOperand_head_none 8 a _ h]
  · obtain ⟨k, hk⟩ := Nat.exists_eq_add_of_lt h
    rw [show b.toNat = k + 2 by omega]
    cases indexOperand 8 [a, b] 0 <;> rfl

theorem ownCloseLine_drain {l : Fin 8} (ha : a.toNat = l.val) : ownCloseLine s n [a, 0#8] = closeDrain s n l := by
  unfold ownCloseLine
  rw [u8_second, indexOperand_head 8 a _ l ha]
  rfl

theorem ownCloseLine_abort {l : Fin 8} (ha : a.toNat = l.val) : ownCloseLine s n [a, 1#8] = closeAbort s n l := by
  unfold ownCloseLine
  rw [u8_second, indexOperand_head 8 a _ l ha]
  rfl

end

/-- With no PART RESET in progress nothing more happens (R163). -/
theorem eq_of_thenCompletesReset {v t : State} (h : v.thenCompletesReset t) (hn : v.reqs.partReset = none) : t = v := h.1 (Or.inl hn)

/-- The line a drain has just been taken on (R46). -/
def Line.draining (n : Fin 4) (x : Line) : Line :=
  { x with
    state := .draining, markers := x.markers.filter (fun m => m.kind != .hold), long := some ⟨.closeDrain, some n, false, 0, 0⟩ }

theorem drainDone_draining (n : Fin 4) (x : Line) : (x.draining n).drainDone = x.drainDone := rfl

theorem underDrain_draining (n : Fin 4) (x : Line) : (x.draining n).underDrain = true := rfl

theorem beginDrain_eq (s : State) (l : Fin 8) (n : Fin 4) :
    s.beginDrain l (some n) = (s.setLine l ((s.line l).draining n)).settle l := rfl

/-- A drain that is not complete when it is taken waits (R47). -/
theorem beginDrain_waits (s : State) (l : Fin 8) (n : Fin 4) (h : (s.line l).drainDone = false) :
    s.beginDrain l (some n) = s.setLine l (((s.line l).draining n).standing (s.prof l)) :=
  settle_setLine_calm (y := (s.line l).draining n) (Or.inr ⟨underDrain_draining n _, h⟩) rfl

/-- A drain that is complete when it is taken (R48). -/
theorem beginDrain_completes (s : State) (l : Fin 8) (n : Fin 4) (h : (s.line l).drainDone = true) :
    (s.setLine l ((s.line l).draining n)).drainCompletes l ⟨.closeDrain, some n, false, 0, 0⟩
      (((s.line l).draining n).standing (s.prof l)) (s.beginDrain l (some n)) := by
  have := settle_drainDone (s.setLine l ((s.line l).draining n)) l ((s.line l).draining n) ⟨.closeDrain, some n, false, 0, 0⟩
    (s.line_setLine_same l _) rfl rfl rfl rfl h
  rwa [s.prof_setLine_same l ((s.line l).draining n) rfl] at this

theorem takes_partReset {s : State} {c : ReqCode} {r : Req} {n : Fin 4} (h : s.takes c r n) : s.reqs.partReset = none := by
  obtain ⟨-, -, -, hp, -⟩ := h
  exact hp

/-- The close of a line at once, in a slot just taken (R52, R159). -/
theorem closedBy_inSlot {s : State} {c : ReqCode} {r : Req} {n : Fin 4} (h : s.takes c r n) (l : Fin 8) (y : Line) (k : LongKind)
    (cp : Bool) (i o nIn nOut : Nat) : State.closedBy ((s.inSlot c r n).setLine l y) l ⟨k, some n, cp, i, o⟩ nIn nOut
      = { (s.answered c r n ⟨.ok, be16 nIn ++ be16 nOut⟩).setLine l y.closedFrom with
          pool := { s.pool with
            free := s.pool.free + (y.outQ.length + y.inQ.length)
            unreserved := s.pool.unreserved + (y.resOut + y.resIn) } } := by
  unfold State.closedBy
  rw [State.line_setLine_same, State.setLine_setLine]
  have hreqs : ((s.inSlot c r n).reqs).answerLong ⟨k, some n, cp, i, o⟩ ⟨.ok, be16 nIn ++ be16 nOut⟩
      = (s.answered c r n ⟨.ok, be16 nIn ++ be16 nOut⟩).reqs := reqs_complete_inSlot s c r n h _
  rw [show ((s.inSlot c r n).setLine l y).reqs = (s.inSlot c r n).reqs from rfl, hreqs]
  rfl

/-- Settles O27: a drain refused, or taken, or taken and complete. -/
theorem drainsTaken : Obligations.DrainsTaken := by
  intro s r n a b h hops
  refine ⟨fun hbad => ?_, fun l ha hb => ?_⟩
  · refine exec_turnedAway rfl h ?_
    rw [hops]; exact ownCloseLine_bad _ n a b hbad
  · intro x
    subst hb
    have hown : (s.inSlot .closeLine r n).toOwner n .closeLine r.operands = closeDrain (s.inSlot .closeLine r n) n l := by
      rw [hops]; exact ownCloseLine_drain _ n a ha
    refine ⟨fun hc => exec_turnedAway rfl h (hown.trans (if_pos hc)),
      fun hc hl => exec_turnedAway rfl h (hown.trans ((if_neg hc).trans (if_pos (Option.isSome_iff_ne_none.mpr hl)))),
      fun hst hl => exec_turnedAway rfl h (hown.trans ((if_neg ?_).trans ((if_neg ?_).trans (if_pos hst)))), fun hst hl => ?_⟩
    · exact fun hc => LineState.noConfusion ((show x.state = .closed from hc).symm.trans hst)
    · rw [State.line_inSlot, show (s.line l).long = none from hl]; exact Bool.false_ne_true
    have htaken : exec (.closeLineDrain r) s = .next ((s.inSlot .closeLine r n).beginDrain l (some n)) := by
      rw [exec_owner rfl h, hown]
      refine congrArg Host.Outcome.next ((if_neg ?_).trans ((if_neg ?_).trans (if_neg ?_)))
      · rw [State.line_inSlot]; rcases hst with h | h <;> rw [show (s.line l).state = _ from h] <;> exact LineState.noConfusion
      · rw [State.line_inSlot, show (s.line l).long = none from hl]; exact Bool.false_ne_true
      · rw [State.line_inSlot]; rcases hst with h | h <;> rw [show (s.line l).state = _ from h] <;> exact LineState.noConfusion
    intro done m
    have hdone : x.drainDone = true ↔ done := drainDone_iff x
    refine ⟨fun hnd => htaken.trans (congrArg Host.Outcome.next ?_), fun hd hnone => ?_, fun hd hsome => ?_⟩
    · exact beginDrain_waits _ l n (Bool.eq_false_iff.mpr (fun hd => hnd (hdone.mp hd)))
    · obtain ⟨hclose, -⟩ := beginDrain_completes (s.inSlot .closeLine r n) l n (hdone.mpr hd)
      obtain ⟨-, hbytes, -⟩ := drainDone_standing_true (s.prof l) (x.draining n) (hdone.mpr hd)
      have hthen := hclose (by rw [Line.inQ_standing]; exact hnone)
      refine htaken.trans (congrArg Host.Outcome.next ((eq_of_thenCompletesReset hthen ?_).trans ?_))
      · exact (partReset_answerLong _ _ _).trans (takes_partReset (s := s) h)
      · refine (closedBy_inSlot h l (x.draining n) .closeDrain false 0 0 _ 0).trans ?_
        rw [show (((s.inSlot .closeLine r n).line l).draining n).standing ((s.inSlot .closeLine r n).prof l) = (x.draining n).standing (s.prof l) from rfl,
          hbytes]
        rfl
    · obtain ⟨-, hwait⟩ := beginDrain_completes (s.inSlot .closeLine r n) l n (hdone.mpr hd)
      obtain ⟨y, hy, heq⟩ := hwait (by rw [Line.inQ_standing]; exact hsome)
      rw [State.prof_setLine_same (s.inSlot .closeLine r n) l (((s.inSlot .closeLine r n).line l).draining n) rfl] at hy
      rw [State.setLine_setLine, Line.inQ_standing] at heq
      exact ⟨y, hy, htaken.trans (congrArg Host.Outcome.next heq)⟩

end Sys2Proof.Machine
end

section
/-!
PROOF. Aborts taken (O29).
-/
namespace Sys2Proof.Machine

/-! ## What an abort may overtake (R44) -/

theorem abortable_of {x : Line} (h : ∀ g, x.long = some g → g.kind = .sendBreak ∨ (g.kind = .closeDrain ∧ g.completing = false)) :
    x.abortable = true := by
  unfold Line.abortable
  cases hg : x.long with
  | none => rfl
  | some g =>
    rcases h g hg with hk | ⟨hk, hc⟩
    · simp [hk]
    · simp [hk, hc]

theorem abortable_false_of {x : Line} {g : LongReq} (hg : x.long = some g)
    (h : g.kind = .closeAbort ∨ g.kind = .flush ∨ (g.kind = .closeDrain ∧ g.completing = true)) : x.abortable = false := by
  unfold Line.abortable
  rw [hg]
  rcases h with hk | hk | ⟨hk, hc⟩
  · simp [hk]
  · simp [hk]
  · simp [hk, hc]

/-! ## The line under the abort (R50) -/

theorem Line.abortTaken.tx {p : Profile} {slot : Option (Fin 4)} {x y : Line} (h : x.abortTaken p slot y) :
    y.tx ≠ .brk ∧ y.inCharacter = x.inCharacter ∧ y.inQ = x.inQ.filter (fun c => c.inFrame) := by
  obtain ⟨heq, -⟩ := h
  have htx : y.tx = if x.tx = .brk then .idle else x.tx.abandon := by rw [heq]
  refine ⟨?_, ?_, by rw [heq]⟩
  · rw [htx]
    cases x.tx <;> simp [TxState.abandon]
  · unfold Line.inCharacter
    rw [htx]
    exact inCharacter_abandoned x

/-- An abort overtakes what is in progress, whose answer is ABORTED (R44). -/
theorem closeAbort_taken (s : State) (n : Fin 4) (l : Fin 8) (hst : (s.line l).state ≠ .closed) (ha : (s.line l).abortable = true) :
    closeAbort s n l = ((s.finishLong l (.plain .aborted)).abortLine l (some n)).settle l := (if_neg hst).trans (if_pos ha)

/-- Everything the taking of an abort can do, once what it overtakes is answered: CLOSED at once or DRAINING, the line's records
gone, and no other line touched (R50, R51, R153). -/
theorem abort_follows (s : State) (l : Fin 8) (n : Fin 4) (q : RequestUnit) (hq : q.partReset = none) :
    ∃ y f u q', (State.abortLine { s.setLine l { s.line l with long := none } with reqs := q } l (some n)).settle l
        = { s.setLine l y with
            pool := { s.pool with free := f, unreserved := u }, events := s.events.removeLine l, reqs := q' }
      ∧ ((s.line l).inCharacter = false → (∀ c ∈ (s.line l).inQ, c.inFrame = false) →
        y = (s.line l).closedFrom
        ∧ q' = q.complete n ⟨.ok, be16 (s.line l).discardableBytes ++ be16 ((s.line l).S - (s.line l).Rt).toNat⟩
        ∧ f = s.pool.free + ((s.line l).outQ.length + (s.line l).inQ.length)
        ∧ u = s.pool.unreserved + ((s.line l).resOut + (s.line l).resIn))
      ∧ (((s.line l).inCharacter = true ∨ ∃ c ∈ (s.line l).inQ, c.inFrame = true) →
        (s.line l).abortTaken (s.prof l) (some n) y ∧ q' = q
        ∧ f + y.inQ.length = s.pool.free + ((s.line l).outQ.length + (s.line l).inQ.length) ∧ u = s.pool.unreserved) := by
  have hline : ({ s.setLine l { s.line l with long := none } with reqs := q } : State).line l = { s.line l with long := none } :=
    s.line_setLine_same l _
  have hprof : ({ s.setLine l { s.line l with long := none } with reqs := q } : State).prof l = s.prof l :=
    s.prof_setLine_same l { s.line l with long := none } rfl
  have hset : ∀ y : Line, (s.setLine l { s.line l with long := none }).lines.set l.val y l.isLt = s.lines.set l.val y l.isLt :=
    fun y => by simp [State.setLine]
  obtain ⟨hcloses, hwaits⟩ := settle_abortLine _ l (some n) _ hline
  by_cases hc : (s.line l).inCharacter = false ∧ ∀ c ∈ (s.line l).inQ, c.inFrame = false
  · refine ⟨(s.line l).closedFrom, s.pool.free + ((s.line l).outQ.length + (s.line l).inQ.length),
      s.pool.unreserved + ((s.line l).resOut + (s.line l).resIn),
      q.complete n ⟨.ok, be16 (s.line l).discardableBytes ++ be16 ((s.line l).S - (s.line l).Rt).toNat⟩,
      (hcloses hc).trans ((State.testPartReset_none _ hq).trans ?_), fun _ _ => ⟨rfl, rfl, rfl, rfl⟩, fun h => ?_⟩
    · exact congrArg (fun ls => ({ s with
        lines := ls
        pool := { s.pool with
          free := s.pool.free + ((s.line l).outQ.length + (s.line l).inQ.length)
          unreserved := s.pool.unreserved + ((s.line l).resOut + (s.line l).resIn) }
        events := s.events.removeLine l
        reqs := q.complete n ⟨.ok, be16 (s.line l).discardableBytes ++ be16 ((s.line l).S - (s.line l).Rt).toNat⟩ } : State)) (hset _)
    · exfalso
      rcases h with h | ⟨c, hm, h⟩
      · rw [hc.1] at h; cases h
      · rw [hc.2 c hm] at h; cases h
  · obtain ⟨y, hy, heq⟩ := hwaits hc
    rw [hprof] at hy
    have hy' : (s.line l).abortTaken (s.prof l) (some n) y := hy
    obtain ⟨-, -, hin⟩ := hy'.tx
    refine ⟨y, s.pool.free + (s.line l).outQ.length + ((s.line l).inQ.length - ((s.line l).inQ.filter (fun c => c.inFrame)).length),
      s.pool.unreserved, q, heq.trans ?_, fun h1 h2 => absurd ⟨h1, h2⟩ hc, fun _ => ⟨hy', rfl, ?_, rfl⟩⟩
    · exact congrArg (fun ls => ({ s with
        lines := ls
        pool := { s.pool with free := s.pool.free + (s.line l).outQ.length
          + ((s.line l).inQ.length - ((s.line l).inQ.filter (fun c => c.inFrame)).length) }
        events := s.events.removeLine l
        reqs := q } : State)) (hset y)
    · rw [hin]
      have hle := List.length_filter_le (fun c : InCell => c.inFrame) (s.line l).inQ
      omega

/-- Settles O29: an abort refused, or taken with what it overtakes answered first. -/
theorem abortsTaken : Obligations.AbortsTaken := by
  intro s r n a b h hops
  refine ⟨fun hbad => ?_, fun l ha hb => ?_⟩
  · refine exec_turnedAway rfl h ?_
    rw [hops]; exact ownCloseLine_bad _ n a b hbad
  · intro x nIn nOut
    subst hb
    have hown : (s.inSlot .closeLine r n).toOwner n .closeLine r.operands = closeAbort (s.inSlot .closeLine r n) n l := by
      rw [hops]; exact ownCloseLine_abort _ n a ha
    refine ⟨fun hc => exec_turnedAway rfl h (hown.trans (if_pos hc)),
      fun hc g hg hk => exec_turnedAway rfl h (hown.trans ((if_neg hc).trans (if_neg ?_))), fun hc hlong => ?_⟩
    · rw [abortable_false_of (x := (s.inSlot .closeLine r n).line l) hg hk]; exact Bool.false_ne_true
    · have hq : (match (s.line l).long with
          | some g => (s.inSlot .closeLine r n).reqs.answerLong g ⟨.aborted, []⟩
          | none => (s.inSlot .closeLine r n).reqs).partReset = none := by
        cases x.long with
        | none => exact takes_partReset (s := s) h
        | some g => exact (partReset_answerLong _ g _).trans (takes_partReset (s := s) h)
      obtain ⟨y, f, u, q', heq, hcloses, hwaits⟩ := abort_follows (s.inSlot .closeLine r n) l n _ hq
      have hexec : exec (.closeLineAbort r) s = .next _ := (exec_owner rfl h).trans (congrArg Host.Outcome.next
        (hown.trans ((closeAbort_taken (s.inSlot .closeLine r n) n l hc (abortable_of hlong)).trans
          ((congrArg (fun t : State => (t.abortLine l (some n)).settle l) (finishLong_eq _ l _)).trans heq))))
      refine ⟨_, hexec, ?_, fun c src => place_removeLine s.events l c src, rfl, rfl, rfl, fun k hk => State.line_setLine_ne _ y hk⟩
      intro reqs
      refine ⟨fun hch hfr => ?_, fun hw => ?_⟩
      · obtain ⟨hy, hq', hf, hu⟩ := hcloses hch hfr
        exact ⟨(State.line_setLine_same _ l y).trans hy, hq', hf, hu⟩
      · obtain ⟨hy, hq', hf, hu⟩ := hwaits hw
        obtain ⟨htx, hch, -⟩ := hy.tx
        have hl : ((s.inSlot .closeLine r n).setLine l y).line l = y := State.line_setLine_same _ l y
        refine ⟨?_, ?_, ?_, hq', ?_, hu⟩
        · exact hl.symm ▸ hy
        · exact hl.symm ▸ htx
        · exact hl.symm ▸ hch
        · exact hl.symm ▸ hf

end Sys2Proof.Machine
end

section
/-!
PROOF. FLUSH (O30).
-/
namespace Sys2Proof.Machine

/-! ## The discards (R54, R55) -/

/-- The line once its outbound data is given up, if outbound is selected (R54). -/
def Line.outFlushed (out : Bool) (gd : Bool) (x : Line) : Line :=
  if out then { x with
    T := x.S, Rt := x.S, outQ := [], blocks := [], openBlock := none, endWaiting := false, resend := false, retry := 0
    ackTimer := .stopped, lingerTimer := .stopped, stopped := false, markers := [], tx := x.tx.abandon, state := .running
    grantDue := gd }
  else { x with grantDue := gd }

/-- The outbound part of a FLUSH (R17, R54). -/
theorem flushOut_frame (s : State) (l : Fin 8) (out : Bool) :
    ∃ gd, (if out then (s.giveUpOutbound l).mapLine l Line.flushedOut else s)
        = (s.setLine l ((s.line l).outFlushed out gd)).freeCells ((s.line l).outQ.length - ((s.line l).outFlushed out gd).outQ.length)
      ∧ (out = true → (gd = true ↔ (s.line l).grantDue = true
          ∨ (s.line l).becomesDue (s.prof l) { s.line l with T := (s.line l).S, Rt := (s.line l).S, outQ := [] }))
      ∧ (out = false → gd = (s.line l).grantDue) := by
  cases out with
  | true =>
    obtain ⟨gd, heq, hdue⟩ := s.giveUpOutbound_frame l
    refine ⟨gd, ?_, fun _ => hdue, Bool.noConfusion⟩
    rw [if_pos rfl, heq]
    show ((s.setLine l _).freeCells _).setLine l (Line.flushedOut ((s.setLine l _).line l)) = _
    rw [s.line_setLine_same]
    exact congrArg (State.freeCells · _) (s.setLine_setLine l _ _)
  | false =>
    refine ⟨(s.line l).grantDue, ?_, Bool.noConfusion, fun _ => rfl⟩
    rw [if_neg Bool.false_ne_true]
    show s = (s.setLine l (s.line l)).freeCells ((s.line l).outQ.length - (s.line l).outQ.length)
    rw [s.setLine_line, Nat.sub_self]
    rfl

/-- The inbound part of a FLUSH (R23, R55, R105). -/
theorem flushIn_frame (s : State) (l : Fin 8) (inn : Bool) (x : Line) (hx : s.line l = x) :
    ∃ t a b c, let z : Line := { x with
        inQ := if inn then x.inQ.filter (fun c => c.inFrame) else x.inQ, idleTimer := t, wanted := a, lastSent := b, rdyo := c }
      (if inn then s.dropInbound l (fun c => c.inFrame) else s) = (s.setLine l z).freeCells (x.inQ.length - z.inQ.length)
      ∧ x.marksApplied (s.prof l) z ∧ x.pacesPeripheral (s.prof l) z
      ∧ (inn = true → (∀ c ∈ z.inQ, c.isSealed = true) → z.idleTimer = .stopped) ∧ (inn = false → z.idleTimer = x.idleTimer) := by
  cases inn with
  | true =>
    obtain ⟨t, a, b, c, heq, hm, hp, hi⟩ := dropInbound_of_line s l x hx (fun c => c.inFrame)
    exact ⟨t, a, b, c, (if_pos rfl).trans heq, hm, hp, fun _ => hi, Bool.noConfusion⟩
  | false =>
    refine ⟨x.idleTimer, x.wanted, x.lastSent, x.rdyo, (if_neg Bool.false_ne_true).trans ?_, ⟨fun _ => rfl, fun h => absurd rfl h⟩, ⟨?_, ?_⟩,
      Bool.noConfusion, fun _ => rfl⟩
    · show s = (s.setLine l x).freeCells (x.inQ.length - x.inQ.length)
      rw [← hx, s.setLine_line, Nat.sub_self]
      rfl
    · exact (if_pos (Or.inr rfl)).symm
    · exact (if_pos (Or.inr rfl)).symm

/-- What the outbound part leaves of the inbound side, and of the transmitter (R54). -/
theorem outFlushed_keeps (out gd : Bool) (x : Line) : (x.outFlushed out gd).inQ = x.inQ ∧ (x.outFlushed out gd).wanted = x.wanted
    ∧ (x.outFlushed out gd).lastSent = x.lastSent ∧ (x.outFlushed out gd).rdyo = x.rdyo ∧ (x.outFlushed out gd).idleTimer = x.idleTimer
    ∧ (x.outFlushed out gd).inCharacter = x.inCharacter ∧ (x.outFlushed out gd).grantDue = gd
    ∧ (x.outFlushed out gd).binding = x.binding := by
  cases out with
  | true => exact ⟨rfl, rfl, rfl, rfl, rfl, inCharacter_abandon rfl, rfl, rfl⟩
  | false => exact ⟨rfl, rfl, rfl, rfl, rfl, rfl, rfl, rfl⟩

theorem isOpen_outFlushed (out gd : Bool) (x : Line) (h : x.isOpen) : (x.outFlushed out gd).isOpen := by
  cases out with
  | true => exact (isOpen_iff _).mpr ⟨LineState.noConfusion, LineState.noConfusion⟩
  | false => exact h

/-- The standing updates on a line whose outbound data is given up: no timer of its own runs (R69, R75). -/
theorem standing_emptied {p : Profile} {z : Line} (ho : z.openBlock = none) (he : z.endWaiting = false) (ht : z.T = z.S) :
    (z.standing p).lingerTimer = .stopped ∧ (z.standing p).pauseTimer = .stopped ∧ (z.standing p).pause = .none := by
  have hl : z.lingers = false := by
    rw [Bool.eq_false_iff, Ne, lingers_iff]
    rintro ⟨⟨b, hb, -⟩, -⟩
    rw [ho] at hb; cases hb
  have hwork : z.workWaits p = false := by
    have : z.dataReady p = false := by
      rw [Bool.eq_false_iff, Ne, dataReady_iff]
      rintro ⟨-, hlt, -⟩
      exact ((posLt_iff _ _).mp hlt).1 ht
    rw [Line.workWaits, he, this, Bool.or_false, Bool.and_false]
  have hself : ({ z with endWaiting := z.endWaiting || (z.underDrain && z.lingers) } : Line) = z := by
    rw [hl, Bool.and_false, Bool.or_false]
  rw [standing_eq]
  simp only [hself]
  exact ⟨if_neg (fun h => by rw [hl] at h; cases h.2), if_neg (fun h => by rw [hwork] at h; cases h.1),
    if_neg (fun h => by rw [hwork] at h; cases h.1)⟩

/-- The line under FLUSH once its discards are made: the directions, the counts, and what the discards set (R53). -/
def Line.flushedTo (out inn : Bool) (n : Fin 4) (nIn nOut : Nat) (x : Line) (gd : Bool) (t : Timer) (a b : Pace) (c : Bool) : Line :=
  { x.outFlushed out gd with
    inQ := if inn then x.inQ.filter (fun c => c.inFrame) else x.inQ
    idleTimer := t, wanted := a, lastSent := b, rdyo := c
    long := some ⟨.flush, some n, false, nIn, nOut⟩ }

/-- What is taken of a FLUSH before it can complete (R53 to R55). -/
theorem flush_frame (s : State) (l : Fin 8) (n : Fin 4) (out inn : Bool) (nIn nOut : Nat) :
    ∃ gd t a b c, let z := (s.line l).flushedTo out inn n nIn nOut gd t a b c
      (s.flushDiscard l out inn).mapLine l (Line.setLong .flush (some n) nIn nOut) = { s.setLine l z with
        pool := { s.pool with free := s.pool.free + (((s.line l).outQ.length - z.outQ.length) + ((s.line l).inQ.length - z.inQ.length)) } }
      ∧ (out = true → (gd = true ↔ (s.line l).grantDue = true
          ∨ (s.line l).becomesDue (s.prof l) { s.line l with T := (s.line l).S, Rt := (s.line l).S, outQ := [] }))
      ∧ (out = false → gd = (s.line l).grantDue)
      ∧ (s.line l).marksApplied (s.prof l) z ∧ (s.line l).pacesPeripheral (s.prof l) z
      ∧ (inn = true → (∀ c ∈ z.inQ, c.isSealed = true) → z.idleTimer = .stopped) ∧ (inn = false → z.idleTimer = (s.line l).idleTimer) := by
  obtain ⟨gd, hout, hdue, hsame⟩ := flushOut_frame s l out
  obtain ⟨hinQ, hwanted, hsent, hrdyo, hidle, -, -, hbind⟩ := outFlushed_keeps out gd (s.line l)
  generalize hu : (s.setLine l ((s.line l).outFlushed out gd)).freeCells ((s.line l).outQ.length - ((s.line l).outFlushed out gd).outQ.length) = u at hout
  have hline : u.line l = (s.line l).outFlushed out gd := by rw [← hu]; exact s.line_setLine_same l _
  have hprof : u.prof l = s.prof l := by rw [← hu]; exact s.prof_setLine_same l _ hbind
  obtain ⟨t, a, b, c, hin, hm, hp, hi, hi'⟩ := flushIn_frame u l inn _ hline
  rw [hprof] at hm hp
  rw [hinQ] at hin hi
  rw [hidle] at hi'
  refine ⟨gd, t, a, b, c, ?_, hdue, hsame, ?_, ?_, hi, hi'⟩
  · unfold State.flushDiscard
    simp only [hout, hin]
    rw [← hu]
    simp only [State.mapLine, State.freeCells, State.setLine, State.line, Vector.set_set, Line.setLong, Line.flushedTo, Nat.add_assoc,
      Vector.getElem_set_self, Fin.getElem_fin]
  · unfold Line.marksApplied at hm ⊢
    rw [hinQ, hwanted] at hm
    exact hm
  · unfold Line.pacesPeripheral at hp ⊢
    rw [hsent, hwanted, hrdyo] at hp
    exact hp

/-! ## The request (R53) -/

section
variable (s : State) (n : Fin 4) (a sel : Byte)

theorem ownFlush_bad (h : 8 ≤ a.toNat ∨ sel = 0#8 ∨ 3 < sel.toNat) : ownFlush s n [a, sel] = s.complete n (.plain .badOperand) := by
  unfold ownFlush
  rw [u8_second]
  cases hi : indexOperand 8 [a, sel] 0 with
  | none => rfl
  | some l =>
    have ha := toNat_of_indexOperand_head hi
    refine if_neg (fun hw => ?_)
    obtain ⟨h1, h3⟩ := (within_iff _ _ _).mp hw
    rcases h with h | h | h
    · omega
    · rw [h] at h1; exact absurd h1 (by decide)
    · omega

theorem ownFlush_eq {l : Fin 8} (ha : a.toNat = l.val) (h1 : 1 ≤ sel.toNat) (h3 : sel.toNat ≤ 3) : ownFlush s n [a, sel]
    = if (s.line l).state = .closed ∨ (s.line l).state = .draining then s.complete n (.plain .wrongState)
      else if (s.line l).long.isSome then s.complete n (.plain .lineBusy)
      else s.beginFlush l n (sel.toNat != 2) (sel.toNat != 1) := by
  unfold ownFlush
  rw [u8_second, indexOperand_head 8 a _ l ha]
  exact if_pos ((within_iff _ _ _).mpr ⟨h1, h3⟩)

end

theorem bne_two_iff (sel : Byte) : (sel.toNat != 2) = true ↔ sel ≠ 2#8 := by
  rw [bne_iff_ne, Ne, Ne, toNat_eq_iff (by decide)]

theorem bne_one_iff (sel : Byte) : (sel.toNat != 1) = true ↔ sel ≠ 1#8 := by
  rw [bne_iff_ne, Ne, Ne, toNat_eq_iff (by decide)]

/-- A FLUSH with its discards made: it completes with no character in the shift register, and waits otherwise (R53). -/
theorem settle_flushed {s : State} {r : Req} {n : Fin 4} (h : s.takes .flush r n) (l : Fin 8) (z : Line) (pl : Pool) (nIn nOut : Nat)
    (hb : z.binding = (s.line l).binding) (ho : z.isOpen) (hg : z.long = some ⟨.flush, some n, false, nIn, nOut⟩) :
    (z.inCharacter = true → State.settle { (s.inSlot .flush r n).setLine l z with pool := pl } l
        = { (s.inSlot .flush r n).setLine l (z.standing (s.prof l)) with pool := pl })
    ∧ (z.inCharacter = false → State.settle { (s.inSlot .flush r n).setLine l z with pool := pl } l
        = { (s.answered .flush r n ⟨.ok, be16 nIn ++ be16 nOut⟩).setLine l { z.standing (s.prof l) with long := none } with pool := pl }) := by
  have hline : ({ (s.inSlot .flush r n).setLine l z with pool := pl } : State).line l = z := State.line_setLine_same _ l z
  have hprof : ({ (s.inSlot .flush r n).setLine l z with pool := pl } : State).prof l = s.prof l :=
    State.prof_setLine_same (s.inSlot .flush r n) l z hb
  obtain ⟨hdone, hwait⟩ := settle_flush _ l z _ hline ho hg rfl
  rw [hprof] at hdone hwait
  refine ⟨fun hc => (hwait hc).trans ?_, fun hc => (hdone hc).trans ?_⟩
  · simp only [State.setLine, Vector.set_set]
  · have hreqs : ((s.inSlot .flush r n).reqs).answerLong ⟨.flush, some n, false, nIn, nOut⟩ ⟨.ok, be16 nIn ++ be16 nOut⟩
        = (s.answered .flush r n ⟨.ok, be16 nIn ++ be16 nOut⟩).reqs := reqs_complete_inSlot s .flush r n h _
    show ({ ((s.inSlot .flush r n).setLine l z).setLine l _ with pool := pl, reqs := RequestUnit.answerLong (s.inSlot .flush r n).reqs _ _ } : State) = _
    rw [State.setLine_setLine]
    exact congrArg (fun q => ({ (s.inSlot .flush r n).setLine l { z.standing (s.prof l) with long := none } with pool := pl, reqs := q } : State)) hreqs

/-- Settles O30: FLUSH refused, or taken, and its completion. -/
theorem flushesTaken : Obligations.FlushesTaken := by
  refine ⟨fun s r n a sel h hops => ⟨fun hbad => ?_, fun l ha h1 h3 => ?_⟩, fun x => rfl, fun s l g hg hk hc => ?_⟩
  · refine exec_turnedAway rfl h ?_
    rw [hops]; exact ownFlush_bad _ n a sel hbad
  · intro x nIn nOut
    have hown := ownFlush_eq (s.inSlot .flush r n) n a sel ha h1 h3
    have hto : (s.inSlot .flush r n).toOwner n .flush r.operands = ownFlush (s.inSlot .flush r n) n [a, sel] := by rw [hops]; rfl
    refine ⟨fun hst => exec_turnedAway rfl h (hto.trans (hown.trans (if_pos hst))),
      fun ho hl => exec_turnedAway rfl h (hto.trans (hown.trans ((if_neg ?_).trans (if_pos (Option.isSome_iff_ne_none.mpr hl))))), fun ho hl => ?_⟩
    · exact not_or.mpr ((isOpen_iff x).mp ho)
    intro p y
    generalize hout : (sel.toNat != 2) = out at hown
    generalize hinn : (sel.toNat != 1) = inn at hown
    have hout' : out = true ↔ sel ≠ 2#8 := by rw [← hout]; exact bne_two_iff sel
    have hinn' : inn = true ↔ sel ≠ 1#8 := by rw [← hinn]; exact bne_one_iff sel
    have hnIn : (if inn then x.discardableBytes else 0) = nIn := by
      by_cases hs : sel = 1#8
      · rw [if_neg (fun hi => hinn'.mp hi hs)]; exact (if_pos hs).symm
      · rw [if_pos (hinn'.mpr hs)]; exact (if_neg hs).symm
    have hnOut : (if out then (x.S - x.Rt).toNat else 0) = nOut := by
      by_cases hs : sel = 2#8
      · rw [if_neg (fun hi => hout'.mp hi hs)]; exact (if_pos hs).symm
      · rw [if_pos (hout'.mpr hs)]; exact (if_neg hs).symm
    have hy : ∀ gd, x.outFlushed out gd = { y with grantDue := gd } := by
      intro gd
      by_cases hs : sel = 2#8
      · exact (if_neg (fun hi => hout'.mp hi hs)).trans (by rw [show y = x from if_pos hs])
      · exact (if_pos (hout'.mpr hs)).trans (by rw [show y = _ from if_neg hs])
    have hin : (if inn then x.inQ.filter (fun c => c.inFrame) else x.inQ) = if sel = 1#8 then x.inQ else x.inQ.filter (fun c => c.inFrame) := by
      by_cases hs : sel = 1#8
      · rw [if_neg (fun hi => hinn'.mp hi hs), if_pos hs]
      · rw [if_pos (hinn'.mpr hs), if_neg hs]
    obtain ⟨gd, t, a', b', c', heq, hdue, hsame, hm, hp, hi, hi'⟩ := flush_frame (s.inSlot .flush r n) l n out inn nIn nOut
    generalize hz : ((s.inSlot .flush r n).line l).flushedTo out inn n nIn nOut gd t a' b' c' = z at heq hm hp hi hi'
    have hzy : z = { y with
        inQ := if sel = 1#8 then x.inQ else x.inQ.filter (fun c => c.inFrame), long := some ⟨.flush, some n, false, nIn, nOut⟩
        grantDue := gd, idleTimer := t, wanted := a', lastSent := b', rdyo := c' } := by
      rw [← hz, ← hin]
      exact congrArg (fun w : Line => ({ w with
        inQ := if inn then x.inQ.filter (fun c => c.inFrame) else x.inQ, idleTimer := t, wanted := a', lastSent := b', rdyo := c'
        long := some ⟨.flush, some n, false, nIn, nOut⟩ } : Line)) (hy gd)
    obtain ⟨-, -, -, -, -, hchar, -, hbind⟩ := outFlushed_keeps out gd x
    have hzc : z.inCharacter = x.inCharacter := by rw [← hz]; exact hchar
    have hzo : z.isOpen := by rw [← hz]; exact isOpen_outFlushed out gd x ho
    have hgd : z.grantDue = gd := by rw [hzy]
    have hexec : exec (.flush r) s = .next (State.settle { (s.inSlot .flush r n).setLine l z with
        pool := { s.pool with free := s.pool.free + ((x.outQ.length - z.outQ.length) + (x.inQ.length - z.inQ.length)) } } l) := by
      have hfree : ¬ ((s.inSlot .flush r n).line l).long.isSome = true := by
        rw [State.line_inSlot, show (s.line l).long = none from hl]; exact Bool.false_ne_true
      rw [exec_owner rfl h, hto, hown]
      refine congrArg Host.Outcome.next ((if_neg (not_or.mpr ((isOpen_iff x).mp ho))).trans ((if_neg hfree).trans
        (congrArg (State.settle · l) (Eq.trans ?_ heq))))
      rw [← hnIn, ← hnOut]
      rfl
    obtain ⟨hwait, hdone⟩ := settle_flushed h l z { s.pool with
      free := s.pool.free + ((x.outQ.length - z.outQ.length) + (x.inQ.length - z.inQ.length)) } nIn nOut (by rw [← hz]; exact hbind) hzo (by rw [hzy])
    refine ⟨z, by rw [hzy], fun hs => ⟨?_, ?_⟩, fun hs => ?_, fun hs => hi' ?_, fun hs => hi (hinn'.mpr hs), hm, hp, ?_, hzc, ?_⟩
    · rw [hgd]
      refine (hdue (hout'.mpr hs)).trans (or_congr Iff.rfl ?_)
      have hto' : out = true := hout'.mpr hs
      subst hto'
      rw [← hz]
      exact Line.becomesDue_congr p x _ _ rfl rfl rfl rfl rfl rfl
    · have hto' : out = true := hout'.mpr hs
      subst hto'
      exact standing_emptied (by rw [← hz]; rfl) (by rw [← hz]; rfl) (by rw [← hz]; rfl)
    · rw [hgd]
      exact hsame (Bool.eq_false_iff.mpr (fun hi => hout'.mp hi hs))
    · exact Bool.eq_false_iff.mpr (fun hi => hinn'.mp hi hs)
    · rw [endWaiting_standing_open p z hzo, hzy]
    · intro pool
      exact ⟨fun hc => hexec.trans (congrArg Host.Outcome.next (hwait (hzc.trans hc))),
        fun hc => hexec.trans (congrArg Host.Outcome.next (hdone (hzc.trans hc)))⟩
  · refine congrArg Host.Outcome.next ((if_pos ?_).trans ?_)
    · simp [Line.flushDone, Line.longIs, hg, hk, hc]
    · unfold State.completeFlush
      rw [hg]
      simp only [finishLong_eq, hg]
      rfl

end Sys2Proof.Machine
end

section
/-!
PROOF. RESUME and DISCARD BLOCKS (O31).
-/
namespace Sys2Proof.Machine

/-! ## RESUME (R56) -/

section
variable (s : State) (a : Byte)

theorem ownResume_bad (h : 8 ≤ a.toNat) : ownResume s [a] = (s, .plain .badOperand) := by
  unfold ownResume
  rw [indexOperand_head_none 8 a _ h]

theorem ownResume_wrong {l : Fin 8} (ha : a.toNat = l.val)
    (hst : (s.line l).state = .closed ∨ (s.line l).state = .running ∨ (s.line l).state = .draining) :
    ownResume s [a] = (s, .plain .wrongState) := by
  unfold ownResume
  rw [indexOperand_head 8 a _ l ha]
  rcases hst with h | h | h <;> simp only [h]

theorem ownResume_held {l : Fin 8} (ha : a.toNat = l.val) (hst : (s.line l).state = .held) :
    ownResume s [a] = ((s.mapLine l Line.release).settle l, .plain .ok) := by
  unfold ownResume
  rw [indexOperand_head 8 a _ l ha]
  simp only [hst]

theorem ownResume_stalled {l : Fin 8} (ha : a.toNat = l.val) (hst : (s.line l).state = .stalled) :
    ownResume s [a] = ((s.mapLine l Line.resumeStalled).settle l, .plain .ok) := by
  unfold ownResume
  rw [indexOperand_head 8 a _ l ha]
  simp only [hst]

theorem ownDiscardBlocks_bad (h : 8 ≤ a.toNat) : ownDiscardBlocks s [a] = (s, .plain .badOperand) := by
  unfold ownDiscardBlocks
  rw [indexOperand_head_none 8 a _ h]

theorem ownDiscardBlocks_eq {l : Fin 8} (ha : a.toNat = l.val) :
    ownDiscardBlocks s [a] = if (s.line l).state = .stalled then (s.discardBlocks l, .plain .ok) else (s, .plain .wrongState) := by
  unfold ownDiscardBlocks
  rw [indexOperand_head 8 a _ l ha]

end

theorem isOpen_running {x : Line} (h : x.state = .running) : x.isOpen :=
  (isOpen_iff x).mpr (by rw [h]; exact ⟨LineState.noConfusion, LineState.noConfusion⟩)

theorem flushDone_resumeStalled (x : Line) : x.resumeStalled.flushDone = x.flushDone :=
  flushDone_congr x x.resumeStalled rfl (inCharacter_abandon rfl)

/-! ## DISCARD BLOCKS (R57) -/

theorem isOpen_leaveStalled (x : Line) : x.leaveStalled.isOpen := by
  rw [isOpen_iff, Line.leaveStalled]
  cases x.barrierReached <;> exact ⟨LineState.noConfusion, LineState.noConfusion⟩

/-- The line with every outstanding block given up, from the grant-due flag (R57). -/
def Line.blocksDropped (rt : Pos) (due : Bool) (x : Line) : Line :=
  { x with
    Rt := rt
    outQ := x.outQ.dropWhile (OutCell.covered rt)
    markers := x.markers.filter (fun m => !(m.kind == .mark && posLt m.pos rt))
    blocks := [], retry := 0, resend := false, ackTimer := .stopped
    endWaiting := x.endWaiting && x.openBlock.isSome
    state := if x.barrierReached then .held else .running
    grantDue := due }

theorem discardedBlocks_eq (rt : Pos) (due : Bool) (x : Line) :
    Line.discardedBlocks { x with Rt := rt, outQ := x.outQ.dropWhile (OutCell.covered rt), grantDue := due } = x.blocksDropped rt due := by
  rw [Line.blocksDropped, ← barrierReached_filter x rt]
  rfl

theorem isOpen_blocksDropped (rt : Pos) (due : Bool) (x : Line) : (x.blocksDropped rt due).isOpen := by
  rw [← discardedBlocks_eq]
  exact isOpen_leaveStalled _

/-- Every outstanding block given up (R17, R57). -/
theorem discardBlocks_frame (s : State) (l : Fin 8) {e : Block} (he : (s.line l).blocks.getLast? = some e)
    (hf : (s.line l).flushDone = false) : ∃ due, s.discardBlocks l
        = { s.setLine l (((s.line l).blocksDropped e.fin due).standing (s.prof l)) with
          pool := { s.pool with free := s.pool.free + ((s.line l).outQ.length - ((s.line l).blocksDropped e.fin due).outQ.length) } }
      ∧ (due = true ↔ (s.line l).grantDue = true ∨ (s.line l).becomesDue (s.prof l) ((s.line l).blocksDropped e.fin due)) := by
  obtain ⟨due, hmove, hdue⟩ := State.moveRt_frame s l e.fin
  refine ⟨due, ?_, hdue.trans (or_congr Iff.rfl (Line.becomesDue_congr _ _ _ _ rfl rfl rfl rfl rfl rfl))⟩
  have hrt : (s.line l).newestEnd = some e.fin := by rw [Line.newestEnd, he]; rfl
  unfold State.discardBlocks
  simp only [hrt, hmove]
  refine Eq.trans (congrArg (State.settle · l) ?_) (settle_pool_calm s l ((s.line l).blocksDropped e.fin due) s.events
    { s.pool with free := s.pool.free + ((s.line l).outQ.length - ((s.line l).blocksDropped e.fin due).outQ.length) } rfl
    (Or.inl ⟨isOpen_blocksDropped _ _ _, hf⟩))
  refine (mapLine_setLine_with s l _ s.events
    { s.pool with free := s.pool.free + ((s.line l).outQ.length - ((s.line l).blocksDropped e.fin due).outQ.length) } _).trans ?_
  rw [discardedBlocks_eq]

theorem barrierReached_iff (x : Line) : x.barrierReached = true ↔ ∃ m, x.barrier = some m ∧ m.reached = true := by
  unfold Line.barrierReached
  cases x.barrier with
  | none => simp
  | some m => simp

/-- Settles O31: RESUME and DISCARD BLOCKS by the line's state. -/
theorem blockedLinesReleased : Obligations.BlockedLinesReleased := by
  refine ⟨fun s r n a h hops => ⟨fun ha => ?_, fun l ha => ⟨fun hst => ?_, fun hst hf => ?_, fun hst hf => ?_⟩⟩,
    fun s r n a h hops => ⟨fun ha => ?_, fun l ha => ⟨fun hst => ?_, fun hst hf e he => ?_⟩⟩, barrierReached_iff⟩
  · exact exec_short_answered (own := ownResume) rfl h (fun _ _ => rfl) (by rw [hops]; exact ownResume_bad _ a ha)
  · exact exec_short_answered (own := ownResume) rfl h (fun _ _ => rfl) (by rw [hops]; exact ownResume_wrong _ a ha hst)
  · have hset : ((s.inSlot .resume r n).mapLine l Line.release).settle l
        = (s.inSlot .resume r n).setLine l (Line.standing (s.prof l) (s.line l).release) :=
      settle_setLine_isOpen (s.inSlot .resume r n) l (s.line l).release rfl (isOpen_running rfl) hf
    exact exec_short (own := ownResume) (reply := .plain .ok)
      (t := (s.inSlot .resume r n).setLine l (Line.standing (s.prof l) (s.line l).release)) rfl h (fun _ _ => rfl)
      (by rw [hops, ownResume_held (s.inSlot .resume r n) a ha hst, hset]) rfl
  · have hset : ((s.inSlot .resume r n).mapLine l Line.resumeStalled).settle l
        = (s.inSlot .resume r n).setLine l (Line.standing (s.prof l) (s.line l).resumeStalled) :=
      settle_setLine_isOpen (s.inSlot .resume r n) l (s.line l).resumeStalled rfl (isOpen_running rfl)
        ((flushDone_resumeStalled _).trans hf)
    exact exec_short (own := ownResume) (reply := .plain .ok)
      (t := (s.inSlot .resume r n).setLine l (Line.standing (s.prof l) (s.line l).resumeStalled)) rfl h (fun _ _ => rfl)
      (by rw [hops, ownResume_stalled (s.inSlot .resume r n) a ha hst, hset]) rfl
  · exact exec_short_answered (own := ownDiscardBlocks) rfl h (fun _ _ => rfl) (by rw [hops]; exact ownDiscardBlocks_bad _ a ha)
  · exact exec_short_answered (own := ownDiscardBlocks) rfl h (fun _ _ => rfl)
      (by rw [hops, ownDiscardBlocks_eq _ a ha]; exact if_neg hst)
  · obtain ⟨due, heq, hdue⟩ := discardBlocks_frame (s.inSlot .discardBlocks r n) l he hf
    have hown : ownDiscardBlocks (s.inSlot .discardBlocks r n) r.operands = ((s.inSlot .discardBlocks r n).discardBlocks l, .plain .ok) := by
      rw [hops, ownDiscardBlocks_eq _ a ha]
      exact if_pos hst
    exact ⟨(s.line l).blocksDropped e.fin due, rfl, hdue,
      exec_short (own := ownDiscardBlocks) rfl h (fun _ _ => rfl) (hown.trans (congrArg (fun t : State => (t, Reply.plain .ok)) heq)) rfl⟩

end Sys2Proof.Machine
end

section
/-!
PROOF. The checks of LOAD PROFILE (O19): the range checks in the order of the fields, then the consistency checks in the order of
Table 2-5; and what a record that passes them carries.
-/
namespace Sys2Proof.Machine

/-! ## The first check that fails -/

/-- The fields reported by checks: none while they hold, and first that of the first which fails. -/
def Reports : List (Prop × Nat) → List Nat → Prop
  | [], fs => fs = []
  | (q, f) :: cs, fs => (q → Reports cs fs) ∧ (¬ q → fs.head? = some f)

namespace Reports

theorem append : ∀ {cs cs' : List (Prop × Nat)} {fs fs' : List Nat}, Reports cs fs → Reports cs' fs' → Reports (cs ++ cs') (fs ++ fs')
  | [], _, fs, _, h, h' => by rw [show fs = [] from h]; exact h'
  | (q, f) :: cs, _, fs, _, ⟨hq, hnq⟩, h' => ⟨fun hq' => (hq hq').append h', fun hq' => by rw [List.head?_append, hnq hq', Option.some_or]⟩

theorem of_all : ∀ {cs : List (Prop × Nat)}, (∀ r ∈ cs, r.1) → Reports cs []
  | [], _ => rfl
  | (_, _) :: _, h => ⟨fun _ => of_all (fun r hr => h r (List.mem_cons_of_mem _ hr)), fun hq => absurd (h _ List.mem_cons_self) hq⟩

theorem eq_nil : ∀ {cs : List (Prop × Nat)} {fs : List Nat}, Reports cs fs → (∀ r ∈ cs, r.1) → fs = []
  | [], _, h, _ => h
  | (_, _) :: _, _, ⟨hq, _⟩, hall => (hq (hall _ List.mem_cons_self)).eq_nil (fun r hr => hall r (List.mem_cons_of_mem _ hr))

/-- The first check that fails says the field reported. -/
theorem head_of_first : ∀ {before : List (Prop × Nat)} {q : Prop} {f : Nat} {rest : List (Prop × Nat)} {fs : List Nat},
    Reports (before ++ (q, f) :: rest) fs → (∀ r ∈ before, r.1) → ¬ q → fs.head? = some f
  | [], _, _, _, _, ⟨_, hn⟩, _, hq => hn hq
  | (_, _) :: _, _, _, _, _, ⟨h, _⟩, hall, hq =>
    (h (hall _ List.mem_cons_self)).head_of_first (fun r hr => hall r (List.mem_cons_of_mem _ hr)) hq

/-- One check, with the test that it fails. -/
theorem single {q b : Prop} [Decidable b] (f : Nat) (h : b ↔ ¬ q) : Reports [(q, f)] (if b then [f] else []) :=
  ⟨fun hq => if_neg (fun hb => h.mp hb hq), fun hq => by rw [if_pos (h.mpr hq)]; rfl⟩

/-- Two checks with one field, and the test that one of them fails. -/
theorem double {q q' b : Prop} [Decidable b] (f : Nat) (h : b ↔ ¬ (q ∧ q')) : Reports [(q, f), (q', f)] (if b then [f] else []) := by
  refine ⟨fun hq => single f (h.trans ?_), fun hq => ?_⟩
  · rw [not_and]; exact ⟨fun h => h hq, fun h _ => h⟩
  · rw [if_pos (h.mpr (fun hb => hq hb.1))]; rfl

/-- Checks under a condition. -/
theorem guard {cs : List (Prop × Nat)} {fs : List Nat} (c : Prop) [Decidable c] (h : c → Reports cs fs) :
    Reports (cs.map (fun r => (c → r.1, r.2))) (if c then fs else []) := by
  by_cases hc : c
  · rw [if_pos hc, show cs.map (fun r => ((c → r.1), r.2)) = cs by simp [hc]]
    exact h hc
  · rw [if_neg hc]
    exact of_all (fun r hr => by
      obtain ⟨k, -, rfl⟩ := List.mem_map.mp hr
      exact fun h => absurd h hc)

/-- Codes that must fit the data width (R33). -/
theorem fits (p : Profile) : ∀ L : List (Nat × Byte),
    Reports (L.map (fun k => (p.fits k.2 = true, k.1))) ((L.filter (fun k => !p.fits k.2)).map Prod.fst)
  | [] => rfl
  | k :: L => by
    refine ⟨fun hk => ?_, fun hk => ?_⟩
    · rw [List.filter_cons_of_neg (by simp [hk])]
      exact fits p L
    · rw [List.filter_cons_of_pos (by simpa using hk)]
      rfl

end Reports

/-! ## The range checks (R31) -/

/-- Propositions and the Booleans that decide them. -/
inductive Verdicts : List Prop → List Bool → Prop
  | nil : Verdicts [] []
  | cons {q : Prop} {b : Bool} {qs : List Prop} {bs : List Bool} (h : b = true ↔ q) (t : Verdicts qs bs) : Verdicts (q :: qs) (b :: bs)

theorem verdicts_nil : Verdicts [] [] ↔ True := iff_true_intro .nil

theorem verdicts_cons {q : Prop} {b : Bool} {qs : List Prop} {bs : List Bool} :
    Verdicts (q :: qs) (b :: bs) ↔ (b = true ↔ q) ∧ Verdicts qs bs :=
  ⟨fun h => by cases h with | cons h t => exact ⟨h, t⟩, fun ⟨h, t⟩ => .cons h t⟩

theorem findIdx_first : ∀ {qs : List Prop} {bs : List Bool}, Verdicts qs bs →
    ∀ {before : List Prop} {q : Prop} {rest : List Prop}, qs = before ++ q :: rest → (∀ r ∈ before, r) → ¬ q →
    bs.findIdx? (fun ok => !ok) = some before.length
  | _, _, .nil, before, _, _, h, _, _ => by cases before <;> cases h
  | _, _, .cons (b := b) hb htail, [], _, _, h, _, hq => by
    obtain ⟨rfl, -⟩ := List.cons.inj h
    have : b = false := Bool.eq_false_iff.mpr (fun h => hq (hb.mp h))
    rw [this]; rfl
  | _, _, .cons (b := b) hb htail, r :: before, _, _, h, hall, hq => by
    obtain ⟨rfl, hrest⟩ := List.cons.inj h
    have : b = true := hb.mpr (hall _ List.mem_cons_self)
    have ih := findIdx_first htail hrest (fun r hr => hall r (List.mem_cons_of_mem _ hr)) hq
    rw [this, List.findIdx?_cons, if_neg (by decide), ih]
    rfl

theorem findIdx_none : ∀ {qs : List Prop} {bs : List Bool}, Verdicts qs bs → (∀ r ∈ qs, r) →
    bs.findIdx? (fun ok => !ok) = none
  | _, _, .nil, _ => rfl
  | _, _, .cons (b := b) hb htail, hall => by
    have : b = true := hb.mpr (hall _ List.mem_cons_self)
    rw [this, List.findIdx?_cons, if_neg (by decide), findIdx_none htail (fun r hr => hall r (List.mem_cons_of_mem _ hr))]
    rfl

/-- Of propositions that do not all hold, there is a first that fails. -/
theorem exists_first_false : ∀ qs : List Prop, (∃ q ∈ qs, ¬ q) →
    ∃ before q rest, qs = before ++ q :: rest ∧ (∀ r ∈ before, r) ∧ ¬ q
  | [], ⟨_, hq, _⟩ => absurd hq List.not_mem_nil
  | q :: qs, h => by
    by_cases hq : q
    · obtain ⟨q', hq', hno⟩ := h
      have hne : q' ∈ qs := (List.mem_cons.mp hq').resolve_left (fun h => hno (h ▸ hq))
      obtain ⟨before, q'', rest, heq, hall, hno'⟩ := exists_first_false qs ⟨q', hne, hno⟩
      exact ⟨q :: before, q'', rest, congrArg (q :: ·) heq, List.forall_mem_cons.mpr ⟨hq, hall⟩, hno'⟩
    · exact ⟨[], q, qs, rfl, fun _ hr => absurd hr List.not_mem_nil, hq⟩

theorem mapByteOk_iff : ∀ b : Byte, mapByteOk b = true ↔ b.toNat % 8 ≤ 6 ∧ b.toNat / 8 % 16 = 0 := by decide +kernel

/-- A byte of a decode map: a listed condition, and zeros in its other four bits (R26). -/
def entryOk (r : List Byte) (o : Nat) : Prop := u8 r o % 8 ≤ 6 ∧ u8 r o / 8 % 16 = 0

/-- A field of two bytes (R1). -/
def word (r : List Byte) (o : Nat) : Nat := 256 * u8 r o + u8 r (o + 1)

theorem u16_eq_word (r : List Byte) (o : Nat) : u16 r o = word r o := congrArg (· + u8 r (o + 1)) (Nat.mul_comm _ _)

/-- What the range check of each field asks (Tables 2-1 and 2-2). -/
def rangeProps (r : List Byte) : List Prop :=
  [u8 r 0 ≤ 12, 5 ≤ u8 r 1 ∧ u8 r 1 ≤ 8, u8 r 2 ≤ 4, u8 r 3 ≤ 2, u8 r 4 ≤ 2, u8 r 5 ≤ 1, True, True, u8 r 8 ≤ 1, True, True,
   u8 r 11 ≤ 1, 1 ≤ word r 13 ∧ word r 13 ≤ 1024, 1 ≤ u8 r 15 ∧ u8 r 15 ≤ 4, 10 ≤ word r 16 ∧ word r 16 ≤ 65535, u8 r 18 ≤ 7, True,
   word r 21 = 0 ∨ (10 ≤ word r 21 ∧ word r 21 ≤ 65535), True, u8 r 24 ≤ 2, 2 ≤ u8 r 25 ∧ u8 r 25 ≤ 64, 1 ≤ u8 r 26 ∧ u8 r 26 ≤ 63,
   u8 r 27 ≤ 1, 1 ≤ u8 r 29 ∧ u8 r 29 ≤ 255, 2 ≤ u8 r 30 ∧ u8 r 30 ≤ 128, 2 ≤ u8 r 31 ∧ u8 r 31 ≤ 64, u8 r 32 ≤ 1, True,
   entryOk r 34, entryOk r 35, entryOk r 36, entryOk r 37, entryOk r 38, entryOk r 39, entryOk r 40, entryOk r 41,
   1 ≤ u8 r 42 ∧ u8 r 42 ≤ 255, u8 r 43 ≤ 1, 16 ≤ word r 44 ∧ word r 44 ≤ 2048]

theorem rangeChecks_props (r : List Byte) : Verdicts (rangeProps r) (rangeChecks r) := by
  have hmap : (List.range 8).map (fun i => mapByteOk (r.getD (34 + i) 0#8))
      = [mapByteOk (r.getD 34 0#8), mapByteOk (r.getD 35 0#8), mapByteOk (r.getD 36 0#8), mapByteOk (r.getD 37 0#8),
        mapByteOk (r.getD 38 0#8), mapByteOk (r.getD 39 0#8), mapByteOk (r.getD 40 0#8), mapByteOk (r.getD 41 0#8)] := rfl
  have hentry : ∀ o, mapByteOk (r.getD o 0#8) = true ↔ entryOk r o := fun o => mapByteOk_iff _
  rw [rangeChecks, hmap]
  simp only [rangeProps, List.cons_append, List.nil_append, verdicts_cons, verdicts_nil, hentry, u16_eq_word, within_iff, Bool.or_eq_true, beq_iff_eq,
    Nat.zero_le, true_and, and_true]

theorem rangeFail_of_first (r : List Byte) {before : List Prop} {q : Prop} {rest : List Prop} (h : rangeProps r = before ++ q :: rest)
    (hall : ∀ r ∈ before, r) (hq : ¬ q) : profileFail r = some before.length := by
  have hr : rangeFail r = some before.length := findIdx_first (rangeChecks_props r) h hall hq
  unfold profileFail
  simp only [hr]

theorem profileFail_of_range (r : List Byte) (hall : ∀ q ∈ rangeProps r, q) :
    profileFail r = (consistencyFailures (Profile.ofBytes r)).head? := by
  have hr : rangeFail r = none := findIdx_none (rangeChecks_props r) hall
  unfold profileFail
  simp only [hr]

theorem meets_iff {e f g : Prop} : e ∨ f ∧ g ↔ ¬ (¬ e ∧ (f → ¬ g)) := by grind

theorem clash_iff {a b c d e f g : Prop} :
    a ∧ (b ∨ c) ∨ d ∧ (e ∨ f ∧ g) ↔ ¬ ((a → ¬ b ∧ ¬ c) ∧ (d → ¬ e) ∧ (d ∧ f → ¬ g)) := by grind

/-! ## The consistency checks (R32 to R34) -/

section
variable (r : List Byte)

/-- An optional code that is present (R26). -/
theorem optCode_list (o : Nat) (f : Nat) : (optCodeOf r o).toList.map (fun b => (f, b)) = if u8 r o = 1 then [(f, r.getD (o + 1) 0#8)] else [] := by
  unfold optCodeOf
  split <;> rfl

theorem optCode_eq_some (o : Nat) (b : Byte) : optCodeOf r o = some b ↔ u8 r o = 1 ∧ r.getD (o + 1) 0#8 = b := by
  unfold optCodeOf
  split
  · next h => simp [h]
  · next h => simp [h]

theorem OutPacing.ofNum_eq_code : ∀ n, n ≤ 2 → (OutPacing.ofNum n = .code ↔ n = 1) := by decide
theorem OutPacing.ofNum_eq_block : ∀ n, n ≤ 2 → (OutPacing.ofNum n = .block ↔ n = 2) := by decide
theorem InPacing.ofNum_eq_code : ∀ n, n ≤ 2 → (InPacing.ofNum n = .code ↔ n = 1) := by decide
theorem StopBits.ofCode_eq_oneAndHalf : ∀ n, n ≤ 2 → (StopBits.ofCode n = .oneAndHalf ↔ n = 1) := by decide

theorem fits_ofBytes (b : Byte) : (Profile.ofBytes r).fits b = true ↔ b.toNat < 2 ^ u8 r 1 := by
  rw [Profile.fits, decide_eq_true_eq]; rfl

theorem getD_eq_iff (i j : Nat) : r.getD i 0#8 = r.getD j 0#8 ↔ u8 r i = u8 r j := BitVec.toNat_inj.symm

/-- The codes the receiver consumes (R34 check 8). -/
theorem mem_consumed (p : Profile) (f : Byte) : f ∈ p.consumed ↔ (p.outPacing = .code ∧ (f = p.stopCode ∨ f = p.goCode))
    ∨ (p.outPacing = .block ∧ (f = p.ackCode ∨ p.nakCode = some f)) := by
  unfold Profile.consumed
  cases p.outPacing with
  | none => simp
  | code => simp
  | block => simp

/-- What the consistency checks ask, with the field each reports (Table 2-5). -/
def checkProps : List (Prop × Nat) :=
  let b := u8 r
  let fits := fun o => b o < 2 ^ b 1
  let codes := b 4 = 1 ∨ b 24 = 1
  let nak := b 4 = 2 ∧ b 11 = 1
  let both := b 24 = 1 ∧ b 4 = 2
  [(b 3 = 1 → b 1 = 5, 3), (b 26 < b 25, 21), (b 25 ≤ b 31, 20),
    (codes → fits 6, 6), (codes → fits 7, 7), (b 4 = 2 → fits 9, 9), (b 4 = 2 → fits 10, 10), (nak → fits 12, 11),
    (b 27 = 1 → fits 28, 22), (codes → b 6 ≠ b 7, 7), (nak → b 12 ≠ b 10, 11),
    (both → b 6 ≠ b 10, 6), (both → b 11 = 1 → b 6 ≠ b 12, 6), (both → b 7 ≠ b 10, 7), (both → b 11 = 1 → b 7 ≠ b 12, 7),
    (b 27 = 1 → (b 4 = 1 → b 28 ≠ b 6 ∧ b 28 ≠ b 7) ∧ (b 4 = 2 → b 28 ≠ b 10) ∧ (nak → b 28 ≠ b 12), 22)]

variable {r}

/-- The codes in use that do not fit the data width, in the order of their fields (R33). -/
theorem codes_report (h : InRange r) :
    let b := u8 r
    let fits := fun o => b o < 2 ^ b 1
    Reports [(b 4 = 1 ∨ b 24 = 1 → fits 6, 6), (b 4 = 1 ∨ b 24 = 1 → fits 7, 7), (b 4 = 2 → fits 9, 9), (b 4 = 2 → fits 10, 10),
      (b 4 = 2 ∧ b 11 = 1 → fits 12, 11), (b 27 = 1 → fits 28, 22)]
      (((Profile.ofBytes r).codesInUse.filter (fun k => !(Profile.ofBytes r).fits k.2)).map Prod.fst) := by
  intro b fits
  have hcode : (Profile.ofBytes r).outPacing = .code ∨ (Profile.ofBytes r).inPacing = .code ↔ b 4 = 1 ∨ b 24 = 1 :=
    or_congr (OutPacing.ofNum_eq_code _ h.outPacing) (InPacing.ofNum_eq_code _ h.inPacing)
  have hblock : (Profile.ofBytes r).outPacing = .block ↔ b 4 = 2 := OutPacing.ofNum_eq_block _ h.outPacing
  have hlist : (Profile.ofBytes r).codesInUse
      = (if b 4 = 1 ∨ b 24 = 1 then [(6, r.getD 6 0#8), (7, r.getD 7 0#8)] else [])
        ++ (if b 4 = 2 then [(9, r.getD 9 0#8), (10, r.getD 10 0#8)] else [])
        ++ (if b 4 = 2 ∧ b 11 = 1 then [(11, r.getD 12 0#8)] else [])
        ++ (if b 27 = 1 then [(22, r.getD 28 0#8)] else []) := by
    unfold Profile.codesInUse
    rw [ite_eq_of_iff hcode rfl rfl, ite_eq_of_iff hblock rfl rfl]
    rw [show (Profile.ofBytes r).nakCode = optCodeOf r 11 from rfl, show (Profile.ofBytes r).flushCode = optCodeOf r 27 from rfl,
      optCode_list, optCode_list]
    by_cases h2 : b 4 = 2
    · simp only [h2, if_true, true_and, List.append_assoc]; rfl
    · simp only [h2, if_false, false_and, List.append_nil]; rfl
  have part : ∀ (c : Prop) [Decidable c] (L : List (Nat × Byte)),
      Reports (L.map (fun k => ((c → k.2.toNat < 2 ^ b 1), k.1)))
        (((if c then L else []).filter (fun k => !(Profile.ofBytes r).fits k.2)).map Prod.fst) := by
    intro c _ L
    have hL := Reports.guard c (fun _ => Reports.fits (Profile.ofBytes r) L)
    rw [List.map_map] at hL
    simp only [Function.comp_def, fits_ofBytes] at hL
    have hite : ((if c then L else []).filter (fun k => !(Profile.ofBytes r).fits k.2)).map Prod.fst
        = if c then (L.filter (fun k => !(Profile.ofBytes r).fits k.2)).map Prod.fst else [] := by split <;> rfl
    rw [hite]
    exact hL
  rw [hlist]
  simp only [List.filter_append, List.map_append]
  exact ((((part _ [(6, r.getD 6 0#8), (7, r.getD 7 0#8)]).append (part _ [(9, r.getD 9 0#8), (10, r.getD 10 0#8)])).append
    (part _ [(11, r.getD 12 0#8)])).append (part _ [(22, r.getD 28 0#8)]))

/-- A flush code that the outbound pacing consumes (R34 check 8). -/
theorem flush_report (h : InRange r) :
    let b := u8 r
    Reports [(b 27 = 1 → (b 4 = 1 → b 28 ≠ b 6 ∧ b 28 ≠ b 7) ∧ (b 4 = 2 → b 28 ≠ b 10) ∧ (b 4 = 2 ∧ b 11 = 1 → b 28 ≠ b 12), 22)]
      (if b 27 = 1 then (if (Profile.ofBytes r).consumed.contains (r.getD 28 0#8) then [22] else []) else []) := by
  intro b
  refine Reports.guard (cs := [(_, 22)]) _ (fun _ => Reports.single 22 ?_)
  rw [List.contains_iff_mem, mem_consumed, show (Profile.ofBytes r).nakCode = optCodeOf r 11 from rfl, optCode_eq_some]
  rw [show (Profile.ofBytes r).outPacing = .code ↔ b 4 = 1 from OutPacing.ofNum_eq_code _ h.outPacing,
    show (Profile.ofBytes r).outPacing = .block ↔ b 4 = 2 from OutPacing.ofNum_eq_block _ h.outPacing]
  rw [show (r.getD 28 0#8 = (Profile.ofBytes r).stopCode) ↔ b 28 = b 6 from getD_eq_iff r 28 6,
    show (r.getD 28 0#8 = (Profile.ofBytes r).goCode) ↔ b 28 = b 7 from getD_eq_iff r 28 7,
    show (r.getD 28 0#8 = (Profile.ofBytes r).ackCode) ↔ b 28 = b 10 from getD_eq_iff r 28 10,
    show (r.getD (11 + 1) 0#8 = r.getD 28 0#8) ↔ b 28 = b 12 from eq_comm.trans (getD_eq_iff r 28 12)]
  exact clash_iff

/-- The two checks of the codes that both pacings use (R34 check 7). -/
theorem both_report (h : InRange r) :
    let b := u8 r
    let both := b 24 = 1 ∧ b 4 = 2
    let p := Profile.ofBytes r
    Reports [(both → b 6 ≠ b 10, 6), (both → b 11 = 1 → b 6 ≠ b 12, 6), (both → b 7 ≠ b 10, 7), (both → b 11 = 1 → b 7 ≠ b 12, 7)]
      (if p.inPacing = .code ∧ p.outPacing = .block then
        (if p.stopCode = p.ackCode ∨ p.nakCode = some p.stopCode then [6] else [])
        ++ (if p.goCode = p.ackCode ∨ p.nakCode = some p.goCode then [7] else [])
      else []) := by
  intro b both p
  have hboth : p.inPacing = .code ∧ p.outPacing = .block ↔ both :=
    and_congr (InPacing.ofNum_eq_code _ h.inPacing) (OutPacing.ofNum_eq_block _ h.outPacing)
  have meets : ∀ i, (r.getD i 0#8 = p.ackCode ∨ p.nakCode = some (r.getD i 0#8)) ↔ ¬ (b i ≠ b 10 ∧ (b 11 = 1 → b i ≠ b 12)) := by
    intro i
    rw [show p.nakCode = optCodeOf r 11 from rfl, optCode_eq_some, show (r.getD i 0#8 = p.ackCode) ↔ b i = b 10 from getD_eq_iff r i 10,
      show (r.getD (11 + 1) 0#8 = r.getD i 0#8) ↔ b i = b 12 from eq_comm.trans (getD_eq_iff r i 12)]
    exact meets_iff
  rw [ite_eq_of_iff hboth rfl rfl]
  exact Reports.guard (cs := [(_, 6), (_, 6), (_, 7), (_, 7)]) both
    (fun _ => (Reports.double 6 (meets 6)).append (Reports.double 7 (meets 7)))

/-- The consistency checks report as Table 2-5 has them. -/
theorem checks_report (h : InRange r) : Reports (checkProps r) (consistencyFailures (Profile.ofBytes r)) := by
  have hstop : ((Profile.ofBytes r).stopBits = .oneAndHalf ∧ (Profile.ofBytes r).dataBits ≠ 5) ↔ ¬ (u8 r 3 = 1 → u8 r 1 = 5) := by
    rw [show (Profile.ofBytes r).stopBits = .oneAndHalf ↔ u8 r 3 = 1 from StopBits.ofCode_eq_oneAndHalf _ h.stopBits, Classical.not_imp]
    rfl
  have hcodes : (((Profile.ofBytes r).outPacing = .code ∨ (Profile.ofBytes r).inPacing = .code)
      ∧ (Profile.ofBytes r).stopCode = (Profile.ofBytes r).goCode) ↔ ¬ (u8 r 4 = 1 ∨ u8 r 24 = 1 → u8 r 6 ≠ u8 r 7) := by
    rw [show (Profile.ofBytes r).outPacing = .code ↔ u8 r 4 = 1 from OutPacing.ofNum_eq_code _ h.outPacing,
      show (Profile.ofBytes r).inPacing = .code ↔ u8 r 24 = 1 from InPacing.ofNum_eq_code _ h.inPacing,
      show ((Profile.ofBytes r).stopCode = (Profile.ofBytes r).goCode) ↔ u8 r 6 = u8 r 7 from getD_eq_iff r 6 7, Classical.not_imp, Classical.not_not]
  have hnak : ((Profile.ofBytes r).outPacing = .block ∧ (Profile.ofBytes r).nakCode = some (Profile.ofBytes r).ackCode)
      ↔ ¬ (u8 r 4 = 2 ∧ u8 r 11 = 1 → u8 r 12 ≠ u8 r 10) := by
    rw [show (Profile.ofBytes r).outPacing = .block ↔ u8 r 4 = 2 from OutPacing.ofNum_eq_block _ h.outPacing,
      show (Profile.ofBytes r).nakCode = optCodeOf r 11 from rfl, optCode_eq_some,
      show (r.getD (11 + 1) 0#8 = (Profile.ofBytes r).ackCode) ↔ u8 r 12 = u8 r 10 from getD_eq_iff r 12 10, Classical.not_imp, Classical.not_not,
      and_assoc]
  have hflush : ((match (Profile.ofBytes r).flushCode with
      | some f => if (Profile.ofBytes r).consumed.contains f then [22] else []
      | none => []) : List Nat) = if u8 r 27 = 1 then (if (Profile.ofBytes r).consumed.contains (r.getD 28 0#8) then [22] else []) else [] := by
    rw [show (Profile.ofBytes r).flushCode = optCodeOf r 27 from rfl, optCodeOf]
    by_cases h1 : u8 r 27 = 1
    · rw [if_pos h1, if_pos h1]
    · rw [if_neg h1, if_neg h1]
  have hall := (((((((Reports.single (q := u8 r 3 = 1 → u8 r 1 = 5) 3 hstop).append
    (Reports.single (q := u8 r 26 < u8 r 25) (b := u8 r 25 ≤ u8 r 26) 21 Nat.not_lt.symm)).append
    (Reports.single (q := u8 r 25 ≤ u8 r 31) (b := u8 r 31 < u8 r 25) 20 Nat.not_le.symm)).append (codes_report h)).append
    (Reports.single (q := u8 r 4 = 1 ∨ u8 r 24 = 1 → u8 r 6 ≠ u8 r 7) 7 hcodes)).append
    (Reports.single (q := u8 r 4 = 2 ∧ u8 r 11 = 1 → u8 r 12 ≠ u8 r 10) 11 hnak)).append (both_report h)).append (flush_report h)
  rw [← hflush] at hall
  exact hall

theorem rangeProps_iff : (∀ q ∈ rangeProps r, q) ↔ InRange r := by
  rw [← rangeFail_eq_none_iff]
  refine ⟨fun h => findIdx_none (rangeChecks_props r) h, fun h q hq => ?_⟩
  refine Classical.byContradiction fun hno => ?_
  obtain ⟨before, q', rest, heq, hall, hno'⟩ := exists_first_false (rangeProps r) ⟨q, hq, hno⟩
  have := findIdx_first (rangeChecks_props r) heq hall hno'
  rw [rangeFail, this] at h
  cases h

end

/-! ## What a record that passes carries -/

/-- A profile without a consistency failure (R32 to R34). -/
theorem sound_of_consistent {p : Profile} (h : consistencyFailures p = []) :
    (p.stopBits = .oneAndHalf → p.dataBits = 5) ∧ p.lowMark < p.highMark ∧ p.highMark ≤ p.inQuota
    ∧ (∀ k ∈ p.codesInUse, k.2.toNat < 2 ^ p.dataBits)
    ∧ (p.outPacing = .code ∨ p.inPacing = .code → p.stopCode ≠ p.goCode)
    ∧ (p.outPacing = .block → p.nakCode ≠ some p.ackCode)
    ∧ (p.inPacing = .code ∧ p.outPacing = .block → (p.stopCode ≠ p.ackCode ∧ p.nakCode ≠ some p.stopCode)
        ∧ p.goCode ≠ p.ackCode ∧ p.nakCode ≠ some p.goCode)
    ∧ ∀ f, p.flushCode = some f → f ∉ p.consumed := by
  have none_of : ∀ {c : Prop} [Decidable c] {k : Nat}, (if c then [k] else []) = [] → ¬ c := fun hk hc => by rw [if_pos hc] at hk; cases hk
  simp only [consistencyFailures, List.append_eq_nil_iff] at h
  obtain ⟨⟨⟨⟨⟨⟨⟨h1, h2⟩, h3⟩, h4⟩, h5⟩, h6⟩, h7⟩, h8⟩ := h
  refine ⟨fun hs => Classical.not_not.mp (fun hd => none_of h1 ⟨hs, hd⟩), Nat.not_le.mp (none_of h2), Nat.not_lt.mp (none_of h3), fun k hk => ?_,
    fun hc he => none_of h5 ⟨hc, he⟩, fun hb he => none_of h6 ⟨hb, he⟩, fun hb => ?_, fun f hf => ?_⟩
  · refine Classical.byContradiction fun hno => ?_
    have : k ∈ p.codesInUse.filter (fun k => !p.fits k.2) := List.mem_filter.mpr ⟨hk, by simpa [Profile.fits] using hno⟩
    rw [List.map_eq_nil_iff.mp h4] at this
    cases this
  · rw [if_pos hb, List.append_eq_nil_iff] at h7
    exact ⟨not_or.mp (none_of h7.1), not_or.mp (none_of h7.2)⟩
  · rw [hf] at h8
    intro hm
    exact none_of h8 (List.contains_iff_mem.mpr hm)

theorem consistent_of_none {r : List Byte} (h : profileFail r = none) : consistencyFailures (Profile.ofBytes r) = [] := by
  rw [profileFail_of_range r (rangeProps_iff.mpr (profileFail_range h))] at h
  exact List.head?_eq_none_iff.mp h

/-- Settles O19: the checks in their order, and what passes them. -/
theorem acceptedProfilesAreSound : Obligations.AcceptedProfilesAreSound := by
  refine ⟨fun rec _ => ⟨fun before q rest h hall hq => rangeFail_of_first rec h hall hq, fun hall => ?_⟩, fun rec _ hf => ?_⟩
  · have hreport := checks_report (rangeProps_iff.mp hall)
    have hfail := profileFail_of_range rec hall
    refine ⟨fun before q f rest hc hb hq => hfail.trans ?_, fun hc => hfail.trans ?_⟩
    · exact Reports.head_of_first (Eq.mp (congrArg (Reports · _) hc) hreport) hb hq
    · rw [hreport.eq_nil hc]; rfl
  · have hr := profileFail_range hf
    obtain ⟨hstop, hlow, hhigh, hfit, hcodes, hnak, hboth, hflush⟩ := sound_of_consistent (consistent_of_none hf)
    intro p
    have hfits : ∀ i b, (i, b) ∈ p.codesInUse → b.toNat < 2 ^ p.dataBits := fun i b hm => hfit (i, b) hm
    obtain ⟨hwin1, hwin4⟩ := hr.window
    refine ⟨hr.rate, hr.dataBits.1, hr.dataBits.2, hr.blockLimit.1, hr.blockLimit.2, hwin1, hwin4, hr.ackTimeout.1, hr.ackTimeout.2,
      hr.retryLimit, hr.pauseTimeout.imp id And.left, hr.inboundIdle.1, hr.outQuota.1, hr.outQuota.2, hr.inQuota.1, hr.inQuota.2,
      hr.breakTime.1, hr.grantStep.1, hr.grantStep.2, hr.lowMark.1, hlow, hhigh, hstop, fun hc => ⟨hfits 6 _ ?_, hfits 7 _ ?_, hcodes hc⟩,
      fun hb => ⟨hfits 9 _ ?_, hfits 10 _ ?_, fun k hk => ⟨hfits 11 k ?_, fun he => hnak hb (he ▸ hk)⟩⟩, fun hb hc => ?_,
      fun f hk => ⟨hfits 22 f ?_, hflush f hk⟩⟩
    · simp [Profile.codesInUse, hc]
    · simp [Profile.codesInUse, hc]
    · simp [Profile.codesInUse, hb]
    · simp [Profile.codesInUse, hb]
    · simp [Profile.codesInUse, hb, hk]
    · obtain ⟨⟨h1, h2⟩, h3, h4⟩ := hboth ⟨hc, hb⟩
      exact ⟨h1, h3, fun k hk => ⟨fun he => h2 (he ▸ hk), fun he => h4 (he ▸ hk)⟩⟩
    · simp [Profile.codesInUse, hk]

end Sys2Proof.Machine
end

section
/-!
PROOF. PART RESET taken (O33): the requests it overtakes, the lines it aborts, and its completion where every line is CLOSED.
-/
namespace Sys2Proof.Machine

/-! ## The requests overtaken (R163) -/

/-- A held slot that PART RESET answers ABORTED: in progress, and not that of a drain already complete. -/
def State.overtaken (s : State) (k : Slot) : Bool := k.phase == .inProgress && !s.slotOfTakenDrain k.num

/-- The held slots once those overtaken are answered. -/
def State.overtakenSlots (s : State) : List Slot :=
  s.reqs.slots.map (fun k => if s.reqs.slots.any (fun j => j.num == k.num && s.overtaken j) then { k with phase := .completed ⟨.aborted, []⟩ } else k)

/-- The response order then: no refusal left, and the slots overtaken at its tail, in the order of admission. -/
def State.overtakenOrder (s : State) : List RespItem :=
  s.reqs.order.filter (fun i => i != .refusal) ++ (s.reqs.slots.filter s.overtaken).map (fun k => .slot k.num)

/-- The refusals kept: only the entry whose frame is on TTX (log 15). -/
def State.keptRefusals (s : State) : List RefusalEntry :=
  match s.trunk.tx with
  | some f => if f.carries = .refusal then s.reqs.refusals.take 1 else []
  | none => []

theorem keptRefusals_on (s : State) (f : TxFrame) (h : s.trunk.tx = some f) (hc : f.carries = .refusal) :
    s.keptRefusals = s.reqs.refusals.take 1 := by
  unfold State.keptRefusals
  simp only [h, hc, if_true]

theorem keptRefusals_off (s : State) (h : ∀ f, s.trunk.tx = some f → f.carries ≠ .refusal) : s.keptRefusals = [] := by
  unfold State.keptRefusals
  cases htx : s.trunk.tx with
  | none => simp only
  | some f => simp only [if_neg (h f htx)]

/-- Slots completed one after another (R160). -/
theorem foldl_complete (reply : Reply) : ∀ (ns : List (Fin 4)) (s : State), ns.foldl (fun (t : State) k => t.complete k reply) s
    = { s with reqs := { s.reqs with
        slots := s.reqs.slots.map (fun k => if k.num ∈ ns then { k with phase := .completed reply } else k)
        order := s.reqs.order ++ ns.map .slot } }
  | [], s => by simp
  | n :: ns, s => by
    have hslots : ∀ k : Slot, (if (if k.num = n then { k with phase := Phase.completed reply } else k : Slot).num ∈ ns
        then { (if k.num = n then { k with phase := Phase.completed reply } else k : Slot) with phase := .completed reply }
        else (if k.num = n then { k with phase := Phase.completed reply } else k : Slot))
        = if k.num ∈ n :: ns then { k with phase := .completed reply } else k := by
      intro k
      by_cases hk : k.num = n
      · simp only [hk, if_true, List.mem_cons_self, ite_self]
      · simp only [hk, if_false, List.mem_cons, false_or]
    rw [List.foldl_cons, foldl_complete reply ns]
    simp only [State.complete, RequestUnit.complete, List.map_map, Function.comp_def, hslots, List.append_assoc, List.map_cons,
      List.singleton_append]

theorem num_ne_of_takes {s : State} {c : ReqCode} {r : Req} {n : Fin 4} (h : s.takes c r n) : ∀ k ∈ s.reqs.slots, k.num ≠ n := by
  obtain ⟨-, -, -, -, hfree⟩ := h
  have hall : s.reqs.slots.all (fun k => k.num != n) = true := by
    have := List.find?_some hfree
    exact this
  intro k hk
  simpa using List.all_eq_true.mp hall k hk

/-- The slots doomed are those overtaken among the slots held before (R163). -/
theorem doomed_eq {s : State} {r : Req} {n : Fin 4} (h : s.takes .partReset r n) :
    (s.inSlot .partReset r n).reqs.slots.filter ((s.inSlot .partReset r n).slotAborted n) = s.reqs.slots.filter s.overtaken := by
  have hnew : (s.inSlot .partReset r n).slotAborted n (slotFor .partReset r n .inProgress) = false := by
    simp [State.slotAborted, slotFor]
  show (s.reqs.slots ++ [slotFor .partReset r n .inProgress]).filter _ = _
  rw [List.filter_append, List.filter_cons_of_neg (by rw [hnew]; exact Bool.false_ne_true), List.filter_nil, List.append_nil]
  refine List.filter_congr (fun k hk => ?_)
  have hne : (k.num != n) = true := bne_iff_ne.mpr (num_ne_of_takes h k hk)
  rw [State.slotAborted, hne, Bool.true_and]
  rfl

theorem mem_doomed_iff (s : State) (m : Fin 4) :
    m ∈ (s.reqs.slots.filter s.overtaken).map Slot.num ↔ s.reqs.slots.any (fun j => j.num == m && s.overtaken j) = true := by
  simp only [List.mem_map, List.mem_filter, List.any_eq_true, Bool.and_eq_true, beq_iff_eq]
  exact ⟨fun ⟨j, ⟨hj, ho⟩, hn⟩ => ⟨j, hj, hn, ho⟩, fun ⟨j, hj, hn, ho⟩ => ⟨j, ⟨hj, ho⟩, hn⟩⟩

/-- The state in which PART RESET has overtaken the requests, its lines still to come (R163). -/
def State.resetting (s : State) (r : Req) (n : Fin 4) (clear : Bool) : State :=
  { s.heard r.seq with reqs := { s.reqs with
      slots := s.overtakenSlots ++ [slotFor .partReset r n .inProgress]
      order := s.overtakenOrder
      refusals := s.keptRefusals
      dropped := 0
      partReset := some ⟨some n, clear⟩ } }

theorem beginPartReset_eq {s : State} {r : Req} {n : Fin 4} (h : s.takes .partReset r n) (clear : Bool) :
    (s.inSlot .partReset r n).beginPartReset n clear = (allLines.foldl State.resetLine (s.resetting r n clear)).testPartReset := by
  have hnew : slotFor .partReset r n .inProgress = (if (slotFor .partReset r n .inProgress).num ∈ (s.reqs.slots.filter s.overtaken).map Slot.num
      then { slotFor .partReset r n .inProgress with phase := .completed (.plain .aborted) } else slotFor .partReset r n .inProgress) := by
    refine (if_neg (fun hm => ?_)).symm
    obtain ⟨k, hk, hn⟩ := List.mem_map.mp hm
    exact num_ne_of_takes h k (List.mem_filter.mp hk).1 hn
  have hslots : (s.inSlot .partReset r n).reqs.slots.map (fun k => if k.num ∈ (s.reqs.slots.filter s.overtaken).map Slot.num
      then { k with phase := .completed (.plain .aborted) } else k) = s.overtakenSlots ++ [slotFor .partReset r n .inProgress] := by
    show (s.reqs.slots ++ [slotFor .partReset r n .inProgress]).map _ = _
    rw [List.map_append, List.map_singleton, ← hnew]
    refine congrArg (· ++ [slotFor .partReset r n .inProgress]) (List.map_congr_left (fun k _ => ?_))
    exact ite_eq_of_iff (mem_doomed_iff s k.num) rfl rfl
  have horder : ((s.inSlot .partReset r n).reqs.order ++ ((s.reqs.slots.filter s.overtaken).map Slot.num).map RespItem.slot).filter
      (fun i => i != .refusal) = s.overtakenOrder := by
    rw [List.filter_append, List.map_map, State.overtakenOrder]
    refine congrArg (s.reqs.order.filter (fun i => i != .refusal) ++ ·) (List.filter_eq_self.mpr (fun i hi => ?_))
    obtain ⟨k, -, rfl⟩ := List.mem_map.mp hi
    rfl
  unfold State.beginPartReset State.emptyRefusals
  simp only [doomed_eq h, foldl_complete, hslots, horder]
  rfl

/-! ## The completion (R164) -/

theorem testPartReset_open_or (v : State) : v.testPartReset = v ∨ ∃ p, v.reqs.partReset = some p ∧ v.resetCompleted p v.testPartReset := by
  obtain ⟨hnot, hdone⟩ := testPartReset_thenCompletesReset v
  cases hp : v.reqs.partReset with
  | none => exact Or.inl (hnot (Or.inl hp))
  | some p =>
    by_cases hc : ∀ k, (v.line k).state = .closed
    · exact Or.inr ⟨p, rfl, hdone p hp hc⟩
    · exact Or.inl (hnot (Or.inr (Classical.not_forall.mp hc)))

/-- The completion leaves the cells, the reserved cells and the refusals as they are. -/
theorem testPartReset_keeps (v : State) (hd : v.reqs.dropped = 0) :
    v.testPartReset.reqs.refusals = v.reqs.refusals ∧ v.testPartReset.reqs.dropped = 0
      ∧ v.testPartReset.pool.free + v.testPartReset.sumLines (fun x => x.outQ.length + x.inQ.length)
        = v.pool.free + v.sumLines (fun x => x.outQ.length + x.inQ.length)
      ∧ v.testPartReset.pool.unreserved + v.testPartReset.sumLines (fun x => x.resOut + x.resIn)
        = v.pool.unreserved + v.sumLines (fun x => x.resOut + x.resIn) := by
  rcases testPartReset_open_or v with h | ⟨p, hp, hreqs, -, -, hpool, -, -, -, hline⟩
  · rw [h]; exact ⟨rfl, hd, rfl, rfl⟩
  · have hsum : ∀ f : Line → Nat, (∀ l, f (v.testPartReset.line l) = f (v.line l)) → v.testPartReset.sumLines f = v.sumLines f :=
      fun f h => State.sumLines_congr h
    rw [hsum _ (fun l => by rw [hline l]), hsum _ (fun l => by rw [hline l]), hpool, hreqs]
    cases p.slot <;> exact ⟨rfl, rfl, rfl, rfl⟩

theorem mem_allLines : ∀ l : Fin 8, l ∈ allLines := by decide

theorem nodup_allLines : allLines.Nodup := by decide

/-- Every line is CLOSED once the lines are taken, exactly when each was, or is aborted and waits for nothing. -/
theorem ResetLines.closed_iff {u v : State} (h : ResetLines u v allLines) (l : Fin 8) :
    (v.line l).state = .closed ↔ (u.line l).state = .closed ∨ ((u.line l).resetAborts ∧ ¬ (u.line l).resetWaits) :=
  Line.resetTo_closed (h.line l (mem_allLines l))

/-- A line that is CLOSED then has its CLOSED values, unless it was CLOSED before. -/
theorem ResetLines.line_closed {u v : State} (h : ResetLines u v allLines) {l : Fin 8}
    (hc : (u.line l).state = .closed ∨ ((u.line l).resetAborts ∧ ¬ (u.line l).resetWaits)) :
    v.line l = if (u.line l).state = .closed then u.line l else (u.line l).closedFrom := by
  obtain ⟨hsame, -, hclosed, -⟩ := h.line l (mem_allLines l)
  by_cases hs : (u.line l).state = .closed
  · rw [if_pos hs]; exact hsame (Or.inl hs)
  · obtain ⟨ha, hw⟩ := hc.resolve_left hs
    rw [if_neg hs]; exact hclosed ha hw

/-- The Request Unit once PART RESET is answered in its own slot (R160, R164). -/
theorem complete_resetting {s : State} {r : Req} {n : Fin 4} (h : s.takes .partReset r n) (clear : Bool) :
    RequestUnit.complete { (s.resetting r n clear).reqs with dropped := 0, partReset := none } n ⟨.ok, []⟩
      = { s.reqs with
          slots := s.overtakenSlots ++ [slotFor .partReset r n (.completed ⟨.ok, []⟩)], order := s.overtakenOrder ++ [.slot n]
          refusals := s.keptRefusals, dropped := 0, partReset := none } := by
  have hslots : (s.overtakenSlots ++ [slotFor .partReset r n .inProgress]).map
      (fun k => if k.num = n then { k with phase := Phase.completed ⟨.ok, []⟩ } else k)
      = s.overtakenSlots ++ [slotFor .partReset r n (.completed ⟨.ok, []⟩)] := by
    rw [List.map_append]
    refine congr (congrArg HAppend.hAppend ((List.map_congr_left (g := id) fun k hk => if_neg ?_).trans (List.map_id _)))
      (congrArg (fun k => [k]) (if_pos rfl))
    obtain ⟨j, hj, rfl⟩ := List.mem_map.mp hk
    have hne := num_ne_of_takes h j hj
    split <;> exact hne
  exact congrArg (fun q => ({ s.reqs with
    slots := q, order := s.overtakenOrder ++ [.slot n], refusals := s.keptRefusals, dropped := 0, partReset := none } : RequestUnit)) hslots

theorem ownPartReset_bad (s : State) (n : Fin 4) (b : Byte) (hb : 1 < b.toNat) : ownPartReset s n [b] = s.complete n (.plain .badOperand) := by
  unfold ownPartReset
  rw [u8_head]
  obtain ⟨k, hk⟩ := Nat.exists_eq_add_of_lt hb
  rw [show b.toNat = k + 2 by omega]
  rfl

theorem ownPartReset_taken (s : State) (n : Fin 4) (b : Byte) (hb : b = 0#8 ∨ b = 1#8) : ownPartReset s n [b] = s.beginPartReset n (b == 1#8) := by
  rcases hb with rfl | rfl <;> rfl

theorem byte_le_one {b : Byte} (h : b.toNat ≤ 1) : b = 0#8 ∨ b = 1#8 := by
  rcases Nat.le_one_iff_eq_zero_or_eq_one.mp h with h | h
  · exact Or.inl ((toNat_eq_iff (by decide)).mp h)
  · exact Or.inr ((toNat_eq_iff (by decide)).mp h)

/-! ## The obligation -/

theorem drainTaken_iff (x : Line) : x.drainTaken = true ↔ ∃ g, x.long = some g ∧ g.kind = .closeDrain ∧ g.completing = true := by
  unfold Line.drainTaken
  cases x.long with
  | none => simp
  | some g => simp

theorem underAbort_iff (x : Line) : x.underAbort = true ↔ x.state = .draining ∧ ∃ g, x.long = some g ∧ g.kind = .closeAbort := by
  rw [Line.underAbort, Bool.and_eq_true, beq_iff_eq, longIs_iff]

theorem slotOfTakenDrain_iff_long (s : State) (m : Fin 4) : s.slotOfTakenDrain m = true
    ↔ ∃ l g, (s.line l).long = some g ∧ g.kind = .closeDrain ∧ g.completing = true ∧ g.slot = some m := by
  rw [State.Owing.slotOfTakenDrain_iff]
  refine exists_congr (fun l => ?_)
  rw [drainTaken_iff]
  unfold Line.longSlot
  cases (s.line l).long with
  | none => simp
  | some g => simp [and_assoc]

/-- What PART RESET leaves, every line CLOSED (R164). -/
theorem partReset_completes {s : State} {r : Req} {n : Fin 4} (h : s.takes .partReset r n) (clear : Bool) {v : State}
    (hv : ResetLines (s.resetting r n clear) v allLines) (hc : ∀ l, (v.line l).state = .closed) :
    let t := v.testPartReset
    t.reqs = { s.reqs with
        slots := s.overtakenSlots ++ [slotFor .partReset r n (.completed ⟨.ok, []⟩)], order := s.overtakenOrder ++ [.slot n]
        refusals := s.keptRefusals, dropped := 0, partReset := none }
      ∧ t.events = EventUnit.powerOn ∧ t.trunk = { (s.heard r.seq).trunk with counters := ⟨0, 0, 0, 0, 0, 0, 0⟩ }
      ∧ t.pool = { v.pool with refresh := 0, refreshTimer := .stopped }
      ∧ (clear = true → (∀ i : Fin 8, t.profiles[i] = Profile.default) ∧ ∀ i : Fin 16, t.patterns[i] = Pattern.cleared)
      ∧ (clear = false → t.profiles = s.profiles ∧ t.patterns = s.patterns)
      ∧ ∀ l, t.line l = { v.line l with
          counters := ⟨0, 0, 0, 0, 0, 0, 0, 0, 0, 0⟩, auxo := false, binding := if clear then 0 else (v.line l).binding } := by
  obtain ⟨-, hdone⟩ := testPartReset_thenCompletesReset v
  have hp : v.reqs.partReset = some ⟨some n, clear⟩ := by rw [hv.reqs]; rfl
  obtain ⟨hreqs, hev, htrunk, hpool, -, hclear, hkeep, hline⟩ := hdone _ hp hc
  refine ⟨?_, hev, ?_, hpool, hclear, fun hb => ?_, hline⟩
  · rw [hreqs, hv.reqs]; exact complete_resetting h clear
  · rw [htrunk, hv.trunk]; rfl
  · obtain ⟨h1, h2⟩ := hkeep hb
    exact ⟨h1.trans hv.profiles, h2.trans hv.patterns⟩

/-- Settles O33: PART RESET refused, or taken and complete, or taken and waiting. -/
theorem partResetTaken : Obligations.PartResetTaken := by
  refine ⟨fun s r n b h hops => ⟨fun hb => ?_, fun hb => ?_⟩, slotOfTakenDrain_iff_long, fun x => ⟨drainTaken_iff x, underAbort_iff x⟩⟩
  · refine exec_turnedAway rfl h ?_
    rw [hops]; exact ownPartReset_bad _ n b hb
  · intro overtaken slots order aborts waits closes
    have hb' := byte_le_one hb
    have hexec : exec (.partReset r) s = .next (allLines.foldl State.resetLine (s.resetting r n (b == 1#8))).testPartReset := by
      rw [exec_owner rfl h, hops, ← beginPartReset_eq h]
      exact congrArg Host.Outcome.next (ownPartReset_taken _ n b hb')
    obtain ⟨v, hv, heq⟩ := resetLines_frame allLines (s.resetting r n (b == 1#8)) nodup_allLines
    rw [heq] at hexec
    obtain ⟨hrefusals, hdropped, hfree, hunres⟩ := testPartReset_keeps v (by rw [hv.reqs]; rfl)
    rw [hv.reqs] at hrefusals
    rw [hv.free] at hfree
    rw [hv.unreserved] at hunres
    refine ⟨v.testPartReset, hexec, fun f hf hc => hrefusals.trans (keptRefusals_on s f hf hc), fun hf => hrefusals.trans (keptRefusals_off s hf),
      hdropped, hfree, hunres, fun hall => ?_, fun hsome => ?_⟩
    · have hclosed : ∀ l, (v.line l).state = .closed := fun l => (hv.closed_iff l).mpr (hall l)
      obtain ⟨hreqs, hev, htrunk, hpool, hclear, hkeep, hline⟩ := partReset_completes h (b == 1#8) hv hclosed
      refine ⟨by rw [hreqs]; rfl, by rw [hreqs]; rfl, by rw [hreqs], hev, htrunk, by rw [hpool], by rw [hpool], fun h1 => hclear (by rw [h1]; rfl),
        fun h0 => hkeep (by rw [h0]; rfl), fun l => ?_⟩
      have hl := hv.line_closed (hall l)
      have hbind : (v.line l).binding = (s.line l).binding := by rw [hl]; split <;> rfl
      rw [hline l, hbind, hl]
      rcases hb' with rfl | rfl <;> rfl
    · obtain ⟨l, hl⟩ := hsome
      have ht : v.testPartReset = v := v.testPartReset_open l (fun hc => hl ((hv.closed_iff l).mp hc))
      rw [ht]
      refine ⟨by rw [hv.reqs]; rfl, by rw [hv.reqs]; rfl, by rw [hv.reqs]; rfl, hv.events, fun c => ?_, fun c k => ⟨fun ha => ?_, fun ha => ?_⟩,
        hv.trunk, hv.profiles, hv.patterns, hv.refresh.1, hv.refresh.2, fun k => hv.line k (mem_allLines k)⟩
      · rcases hv.place c 8 with ⟨⟨k, -, hk, -⟩, -⟩ | ⟨-, hk⟩
        · exact absurd hk (by revert k; decide)
        · exact hk
      · rcases hv.place c k.castSucc with ⟨-, hk⟩ | ⟨hno, -⟩
        · exact hk
        · exact absurd ⟨k, mem_allLines k, rfl, ha⟩ hno
      · rcases hv.place c k.castSucc with ⟨⟨j, -, hj, haj⟩, -⟩ | ⟨-, hk⟩
        · rw [Fin.castSucc_inj.mp hj] at ha
          exact absurd haj ha
        · exact hk

end Sys2Proof.Machine
end

section
/-!
PROOF. Stream positions (O51): how far a position lies beyond Rt, and the cells that hold the positions from Rt up to S, as bytes are
stored and as Rt moves on.
-/
namespace Sys2Proof.Machine

/-! ## Distances from Rt (R2) -/

theorem off_rt (x : Line) : x.off x.Rt = 0 := by simp [Line.off]

theorem off_inj {x : Line} {a b : Pos} (h : x.off a = x.off b) : a = b := by
  unfold Line.off at h; bv_omega

theorem off_add_one {x : Line} {q : Pos} (h : x.off q < 2 ^ 32 - 1) : x.off (q + 1) = x.off q + 1 := by
  unfold Line.off at *; bv_omega

theorem off_eq {x y : Line} (h : y.Rt = x.Rt) (q : Pos) : y.off q = x.off q := by unfold Line.off; rw [h]

/-- Rt moved on to a position: what lies at or beyond it is that much nearer. -/
theorem off_advance {x y : Line} {q : Pos} (h : x.off y.Rt ≤ x.off q) : y.off q + x.off y.Rt = x.off q := by
  unfold Line.off at *; bv_omega

theorem off_advance_le {x y : Line} {a b : Pos} (h : x.off y.Rt ≤ x.off a) (hab : x.off a ≤ x.off b) : y.off a ≤ y.off b := by
  have h1 := off_advance h
  have h2 := off_advance (Nat.le_trans h hab)
  omega

theorem off_advance_lt {x y : Line} {a b : Pos} (h : x.off y.Rt ≤ x.off a) (hab : x.off a < x.off b) : y.off a < y.off b := by
  have h1 := off_advance h
  have h2 := off_advance (Nat.le_trans h (Nat.le_of_lt hab))
  omega

/-- Between positions less than half the range beyond Rt, "below" is by their distance from Rt (R2). -/
theorem posLt_iff_off {x : Line} {a b : Pos} (ha : x.off a < 2 ^ 31) (hb : x.off b < 2 ^ 31) : posLt a b = true ↔ x.off a < x.off b := by
  rw [posLt_iff]; unfold Line.off at *; bv_omega

theorem posLe_iff_off {x : Line} {a b : Pos} (ha : x.off a < 2 ^ 31) (hb : x.off b < 2 ^ 31) : posLe a b = true ↔ x.off a ≤ x.off b := by
  rw [posLe_iff]; unfold Line.off at *; bv_omega

/-! ## Cells that hold positions (R9, R11) -/

/-- Cells that hold the positions from rt up to s, the oldest holding rt. -/
def coversFrom (rt : Pos) : List OutCell → Pos → Prop
  | [], s => rt = s
  | c :: cs, s => (rt - c.first).toNat < c.bytes.length ∧ cellsCover c.first (c :: cs) s

theorem queueCovers_iff (x : Line) : x.queueCovers ↔ coversFrom x.Rt x.outQ x.S := by
  unfold Line.queueCovers coversFrom
  cases x.outQ <;> exact Iff.rfl

/-- No cell holds more than 32 bytes. -/
def cellsWithin (q : List OutCell) : Prop := ∀ c ∈ q, c.bytes.length ≤ Config.cellBytes

theorem length_flatMap_le {q : List OutCell} (h : cellsWithin q) : (q.flatMap OutCell.bytes).length ≤ Config.cellBytes * q.length := by
  induction q with
  | nil => simp
  | cons c cs ih =>
    have hc := h c List.mem_cons_self
    have hcs := ih fun d hd => h d (List.mem_cons_of_mem _ hd)
    rw [List.flatMap_cons, List.length_append, List.length_cons, Nat.mul_succ]
    omega

/-- The positions a queue holds lie no further beyond Rt than its cells have bytes. -/
theorem off_S_le {x : Line} (h : x.queueCovers) (hq : cellsWithin x.outQ) (hl : x.outQ.length ≤ Config.poolCells) :
    x.off x.S ≤ Config.cellBytes * Config.poolCells := by
  have hlen := Nat.le_trans (length_flatMap_le hq) (Nat.mul_le_mul_left _ hl)
  rw [queueCovers_iff] at h
  unfold coversFrom at h
  cases ho : x.outQ with
  | nil => simp only [ho] at h; rw [← h, off_rt]; exact Nat.zero_le _
  | cons c cs =>
    simp only [ho] at h
    obtain ⟨hrt, hcover⟩ := h
    have hend := cellsCover_end _ _ _ hcover
    have hc : c.bytes.length ≤ ((c :: cs).flatMap OutCell.bytes).length := by
      rw [List.flatMap_cons, List.length_append]; exact Nat.le_add_right _ _
    rw [ho] at hlen
    simp only [Config.cellBytes, Config.poolCells] at hlen ⊢
    generalize ((c :: cs).flatMap OutCell.bytes).length = total at *
    unfold Line.off
    rw [hend]
    bv_omega

/-- A byte put into the tail cell (R9). -/
theorem cellsCover_extend (v : Byte) (c : OutCell) : ∀ (q : List OutCell) (a b : Pos), cellsCover a (q ++ [c]) b →
    cellsCover a (q ++ [{ c with bytes := c.bytes ++ [v] }]) (b + 1)
  | [], a, b, ⟨hf, h1, _, he⟩ => by
    refine ⟨hf, by simp, fun h => absurd rfl h, ?_⟩
    have he : a + BitVec.ofNat 32 c.bytes.length = b := he
    show a + BitVec.ofNat 32 (c.bytes ++ [v]).length = b + 1
    rw [← he, List.length_append, List.length_singleton]
    bv_omega
  | d :: q, a, b, ⟨hf, h1, hfull, hrest⟩ => ⟨hf, h1, fun _ => hfull (by simp), cellsCover_extend v c q _ b hrest⟩

/-- A byte put into a new cell behind a full one (R9). -/
theorem cellsCover_new (v : Byte) (c : OutCell) (hc : c.bytes.length = Config.cellBytes) : ∀ (q : List OutCell) (a b : Pos),
    cellsCover a (q ++ [c]) b → cellsCover a (q ++ [c] ++ [⟨b, [v]⟩]) (b + 1)
  | [], a, b, ⟨hf, h1, _, he⟩ => ⟨hf, h1, fun _ => hc, ⟨Eq.symm he, Nat.le_refl 1, fun h => absurd rfl h, congrArg (· + 1) he⟩⟩
  | d :: q, a, b, ⟨hf, h1, hfull, hrest⟩ => ⟨hf, h1, fun _ => hfull (by simp), cellsCover_new v c hc q _ b hrest⟩

/-- What a longer tail makes of the oldest cell. -/
theorem coversFrom_append {rt s s' : Pos} {q q' : List OutCell} {c c' : OutCell} (h : coversFrom rt (q ++ [c]) s) (hf : c'.first = c.first)
    (hl : c.bytes.length ≤ c'.bytes.length) (hcover : ∀ a, cellsCover a (q ++ [c]) s → cellsCover a (q ++ c' :: q') s') :
    coversFrom rt (q ++ c' :: q') s' := by
  cases q with
  | nil =>
    obtain ⟨hrt, hc⟩ := h
    refine ⟨?_, hf ▸ hcover _ hc⟩
    rw [hf]; omega
  | cons d q => exact ⟨h.1, hcover _ h.2⟩

/-- A stored byte keeps the queue in order (R9). -/
theorem queueCovers_storeByte {x : Line} (b : Byte) (h : x.queueCovers) (hq : cellsWithin x.outQ) :
    (x.storeByte b).queueCovers ∧ cellsWithin (x.storeByte b).outQ := by
  rw [queueCovers_iff] at *
  have one : ([b] : List Byte).length ≤ Config.cellBytes := by rw [List.length_singleton]; decide
  unfold Line.storeByte Line.newCell
  cases hl : x.outQ.getLast? with
  | none =>
    rw [List.getLast?_eq_none_iff] at hl
    rw [hl] at h
    have hrt : x.Rt = x.S := h
    refine ⟨?_, ?_⟩
    · simp only [hl, List.nil_append]
      show (x.Rt - x.S).toNat < 1 ∧ cellsCover x.S [⟨x.S, [b]⟩] (x.S + 1)
      rw [hrt]
      exact ⟨by simp, rfl, Nat.le_refl 1, fun h => absurd rfl h, rfl⟩
    · simp only [hl, List.nil_append]
      exact fun c hc => by rw [List.mem_singleton.mp hc]; exact one
  | some c =>
    obtain ⟨q, hqc⟩ := List.getLast?_eq_some_iff.mp hl
    rw [hqc] at h hq
    have hc : c.bytes.length ≤ Config.cellBytes := hq c (by simp)
    simp only
    split
    next hlt =>
      simp only [hqc, List.dropLast_concat]
      refine ⟨coversFrom_append h rfl (by simp) fun a => cellsCover_extend b c q a x.S, fun d hd => ?_⟩
      rcases List.mem_append.mp hd with hd | hd
      · exact hq d (List.mem_append_left _ hd)
      · rw [List.mem_singleton.mp hd, List.length_append]; exact hlt
    next hge =>
      simp only [hqc]
      refine ⟨?_, fun d hd => ?_⟩
      · rw [List.append_assoc]
        exact coversFrom_append h rfl (Nat.le_refl _) fun a ha => by
          have := cellsCover_new b c (by omega) q a x.S ha
          rwa [List.append_assoc] at this
      · rcases List.mem_append.mp hd with hd | hd
        · exact hq d hd
        · rw [List.mem_singleton.mp hd]; exact one

theorem queueCovers_storeBytes : ∀ (bs : List Byte) {x : Line}, x.queueCovers → cellsWithin x.outQ → (x.storeBytes bs).queueCovers
  | [], _, h, _ => h
  | b :: bs, _, h, hq => by
    obtain ⟨h1, h2⟩ := queueCovers_storeByte b h hq
    exact queueCovers_storeBytes bs h1 h2

/-- A cell lies wholly below a position that is as far beyond its first as it has bytes (R11). -/
theorem covered_iff {r : Pos} {c : OutCell} (hc : c.bytes.length < 2 ^ 31) (hr : (r - c.first).toNat < 2 ^ 31) :
    OutCell.covered r c = true ↔ c.bytes.length ≤ (r - c.first).toNat := by
  rw [OutCell.covered, posLe_iff]
  generalize c.bytes.length = n at hc ⊢
  bv_omega

theorem toNat_sub_lt {a s : Pos} {n : Nat} (h : s = a + BitVec.ofNat 32 n) (hn : n < 2 ^ 31) : (s - a).toNat < 2 ^ 31 := by
  subst h; bv_omega

/-- The cells wholly below a position freed, oldest first, the oldest that is left holds the position (R11). -/
theorem coversFrom_dropWhile (r : Pos) (q : List OutCell) (a s : Pos) (h : cellsCover a q s) (hr : (r - a).toNat ≤ (s - a).toNat)
    (hlen : (q.flatMap OutCell.bytes).length < 2 ^ 31) : coversFrom r (q.dropWhile (OutCell.covered r)) s := by
  induction q generalizing a with
  | nil =>
    have h : a = s := h
    subst h
    show r = a
    bv_omega
  | cons c cs ih =>
    have hend := cellsCover_end _ _ _ h
    obtain ⟨hfirst, h1, hfull, hrest⟩ := h
    rw [List.flatMap_cons, List.length_append] at hlen hend
    subst hfirst
    have hcov := covered_iff (r := r) (c := c) (by omega) (Nat.lt_of_le_of_lt hr (toNat_sub_lt hend hlen))
    by_cases hc : OutCell.covered r c = true
    · have hn := hcov.mp hc
      have e1 := toNat_sub_add hn
      have e2 := toNat_sub_add (Nat.le_trans hn hr)
      rw [List.dropWhile_cons_of_pos hc]
      exact ih _ hrest (by omega) (by omega)
    · rw [List.dropWhile_cons_of_neg hc]
      exact ⟨by rw [hcov] at hc; omega, rfl, h1, hfull, hrest⟩

/-- Rt moved to a stored position, or to S: the queue is in order from there on (R11). -/
theorem queueCovers_advance {x y : Line} (h : x.queueCovers) (hq : cellsWithin x.outQ) (hl : x.outQ.length ≤ Config.poolCells)
    (hr : x.off y.Rt ≤ x.off x.S) (hy : y.outQ = x.outQ.dropWhile (OutCell.covered y.Rt)) (hS : y.S = x.S) : y.queueCovers := by
  have hlen := Nat.le_trans (length_flatMap_le hq) (Nat.mul_le_mul_left _ hl)
  have hsmall : Config.cellBytes * Config.poolCells < 2 ^ 31 := by decide
  rw [queueCovers_iff] at *
  rw [hy, hS]
  cases ho : x.outQ with
  | nil =>
    rw [ho] at h
    have h : x.Rt = x.S := h
    rw [← h, off_rt] at hr
    exact (off_inj (x := x) (by rw [off_rt]; exact Nat.le_zero.mp hr)).trans h
  | cons c cs =>
    rw [ho] at h hlen
    obtain ⟨hrt, hcover⟩ := h
    refine coversFrom_dropWhile y.Rt _ _ _ hcover ?_ (by omega)
    have hend := cellsCover_end _ _ _ hcover
    have hc : c.bytes.length ≤ ((c :: cs).flatMap OutCell.bytes).length := by
      rw [List.flatMap_cons, List.length_append]; exact Nat.le_add_right _ _
    generalize ((c :: cs).flatMap OutCell.bytes).length = total at *
    unfold Line.off at hr
    rw [hend] at hr ⊢
    bv_omega

end Sys2Proof.Machine
end

section
/-!
PROOF. Stream positions (O51): what holds of one line, with the character in the shift register told apart; the outstanding list and the
markers; and the changes that leave all of it as it was.
-/
namespace Sys2Proof.Machine

/-! ## What holds of a line (R8) -/

/-- What a marker's place in the stream is read from. -/
def Marker.site (m : Marker) : MarkerKind × Pos := (m.kind, m.pos)

/-- A byte whose queue has been given up, and that is still in the shift register (R50, R54). -/
def Line.gaveUp (x : Line) (pos : Pos) : Prop :=
  pos ≠ x.Rt ∧ x.T = x.Rt
    ∧ ((x.longIs .flush = true ∧ (x.Rt - pos).toNat ≤ 2 ^ 14) ∨ (x.underAbort = true ∧ (x.Rt - pos).toNat ≤ 2 ^ 15))

/-- No block is ever formed in NONE and CODE mode (R88). -/
structure Line.blockless (x : Line) : Prop where
  blocks : x.blocks = []
  openBlock : x.openBlock = none
  state : x.state ≠ .stalled
  ack : x.ackTimer = .stopped

/-- The positions of a line, whatever is in its shift register. -/
structure Line.Flows (p : Profile) (x : Line) : Prop where
  cursor : x.off x.T ≤ x.off x.S
  queue : x.queueCovers
  blocks : x.blocksInOrder p
  markers : x.markersInOrder
  plain : p.outPacing ≠ .block → x.blockless
  sent : ∀ b ∈ x.blocks, (b.sent = true ∨ x.state = .stalled) → x.off b.fin ≤ x.off x.T
  stalled : x.state = .stalled → x.ackTimer = .stopped
  shut : p.outPacing = .block → x.openBlock = none → x.off x.T ≤ x.off x.newest
  opened : ∀ o, x.openBlock = some o → o.start = x.newest ∧ x.off x.newest < x.off x.T ∧ x.blocks.length < p.window

/-- The positions of the character in the shift register. -/
structure Line.Shifts (p : Profile) (x : Line) : Prop where
  resting : p.outPacing ≠ .block → (∀ ch pos, x.tx = .character ch → ch.kind ≠ .data pos) → x.T = x.Rt
  byte : p.outPacing ≠ .block → ∀ ch pos, x.tx = .character ch → ch.kind = .data pos → (pos = x.Rt ∧ x.T = x.Rt + 1) ∨ x.gaveUp pos
  entry : p.outPacing = .block → ∀ ch e, x.tx = .character ch → ch.role = .entryEnd e → ∀ b ∈ x.blocks, b.fin = e → x.off e ≤ x.off x.T

/-- The stream of a line in order. -/
def Line.Ordered (p : Profile) (x : Line) : Prop := x.Flows p ∧ x.Shifts p

theorem State.streamsInOrder_iff (s : State) : s.streamsInOrder ↔ ∀ l, (s.line l).Ordered (s.prof l) := by
  refine forall_congr' fun l => ⟨fun ⟨hc, hq, hb, hm, hplain, hblock⟩ => ?_, fun ⟨hf, ht⟩ => ?_⟩
  · by_cases hp : (s.prof l).outPacing = .block
    · obtain ⟨h1, h2, h3, h4, h5⟩ := hblock hp
      exact ⟨⟨hc, hq, hb, hm, fun h => absurd hp h, h1, h2, fun _ => h3, h4⟩, fun h => absurd hp h, fun h => absurd hp h, fun _ => h5⟩
    · obtain ⟨h1, h2, h3, h4, h5, h6⟩ := hplain hp
      refine ⟨⟨hc, hq, hb, hm, fun _ => ⟨h1, h2, h3, h4⟩, fun b hb => ?_, fun h => absurd h h3, fun h => absurd h hp, fun o ho => ?_⟩,
        fun _ => h5, fun _ => h6, fun h => absurd h hp⟩
      · rw [h1] at hb; cases hb
      · rw [h2] at ho; cases ho
  · refine ⟨hf.cursor, hf.queue, hf.blocks, hf.markers, fun hp => ?_, fun hp => ⟨hf.sent, hf.stalled, hf.shut hp, hf.opened, ht.entry hp⟩⟩
    obtain ⟨h1, h2, h3, h4⟩ := hf.plain hp
    exact ⟨h1, h2, h3, h4, ht.resting hp, ht.byte hp⟩

/-- With no character in the shift register, only a line that is not in BLOCK mode has its cursor fixed. -/
theorem Line.Shifts.of_quiet {p : Profile} {x : Line} (hc : x.inCharacter = false) (ht : p.outPacing ≠ .block → x.T = x.Rt) : x.Shifts p := by
  have hno : ∀ ch, x.tx ≠ .character ch := fun ch h => by simp [Line.inCharacter, h] at hc
  exact ⟨fun hp _ => ht hp, fun _ ch _ h => absurd h (hno ch), fun _ ch _ h => absurd h (hno ch)⟩

/-! ## The outstanding list (R76) -/

/-- The ends of the entries, from Rt on. -/
def Line.ends (x : Line) : List Pos := x.Rt :: x.blocks.map Block.fin

theorem newest_of_nil {x : Line} (h : x.blocks = []) : x.newest = x.Rt := by simp [Line.newest, Line.newestEnd, h]

theorem getLast?_ends (x : Line) : x.ends.getLast? = some x.newest := by
  unfold Line.ends Line.newest Line.newestEnd
  rw [List.getLast?_cons, List.getLast?_map]

theorem Line.ends_ne_nil (x : Line) : x.ends ≠ [] := List.cons_ne_nil _ _

theorem getLast_ends (x : Line) : x.ends.getLast x.ends_ne_nil = x.newest := by
  have h := getLast?_ends x
  rw [List.getLast?_eq_some_getLast x.ends_ne_nil] at h
  exact Option.some.inj h

theorem ends_eq_dropLast (x : Line) : x.ends.take x.blocks.length ++ [x.newest] = x.ends := by
  have h := List.dropLast_concat_getLast x.ends_ne_nil
  rw [getLast_ends, List.dropLast_eq_take] at h
  have hl : x.ends.length - 1 = x.blocks.length := by simp [Line.ends]
  rwa [hl] at h

namespace Line.Flows
variable {p : Profile} {x : Line} (h : x.Flows p)
include h

theorem starts : x.blocks.map Block.start = x.ends.take x.blocks.length := h.blocks.1

theorem rises : x.ends.Pairwise (fun a b => x.off a < x.off b) := by
  obtain ⟨-, hr, -⟩ := h.blocks
  exact hr

theorem newest_le_S : x.off x.newest ≤ x.off x.S := by
  obtain ⟨-, -, hn, -⟩ := h.blocks
  exact hn

theorem ends_le {e : Pos} (he : e ∈ x.ends) : x.off e ≤ x.off x.newest := by
  have hr := h.rises
  rw [← ends_eq_dropLast, List.pairwise_append] at hr
  obtain ⟨-, -, hlast⟩ := hr
  rw [← ends_eq_dropLast, List.mem_append] at he
  rcases he with he | he
  · exact Nat.le_of_lt (hlast e he x.newest (List.mem_singleton_self _))
  · exact Nat.le_of_eq (congrArg x.off (List.mem_singleton.mp he))

theorem fin_le_newest {b : Block} (hb : b ∈ x.blocks) : x.off b.fin ≤ x.off x.newest :=
  h.ends_le (List.mem_cons_of_mem _ (List.mem_map_of_mem hb))

end Line.Flows

/-- A position before the last end of contiguous entries lies in one of them. -/
theorem exists_entry (x : Line) (q : Pos) : ∀ (bs : List Block) (r : Pos), bs.map Block.start = (r :: bs.map Block.fin).take bs.length →
    x.off r ≤ x.off q → (∃ e ∈ bs.map Block.fin, x.off q < x.off e) → ∃ b ∈ bs, x.off b.start ≤ x.off q ∧ x.off q < x.off b.fin
  | [], _, _, _, ⟨_, he, _⟩ => by cases he
  | b :: bs, r, hs, hr, ⟨e, he, hlt⟩ => by
    simp only [List.map_cons, List.length_cons, List.take_succ_cons, List.cons.injEq] at hs
    obtain ⟨hstart, hrest⟩ := hs
    by_cases hq : x.off q < x.off b.fin
    · exact ⟨b, List.mem_cons_self, by rw [hstart]; exact hr, hq⟩
    · have he : e ∈ bs.map Block.fin := by
        rw [List.map_cons] at he
        rcases List.mem_cons.mp he with rfl | he
        · exact absurd hlt hq
        · exact he
      obtain ⟨c, hc, h⟩ := exists_entry x q bs b.fin hrest (Nat.not_lt.mp hq) ⟨e, he, hlt⟩
      exact ⟨c, List.mem_cons_of_mem _ hc, h⟩

theorem mem_entryAt {x : Line} {q : Pos} {b : Block} (h : x.entryAt q = some b) : b ∈ x.blocks ∧ posLt q b.fin = true := by
  have hp := List.find?_some h
  rw [Bool.and_eq_true] at hp
  exact ⟨List.mem_of_find?_eq_some h, hp.2⟩

/-- The positions of a line are less than half the range beyond Rt. -/
def Line.near (x : Line) : Prop := x.off x.S < 2 ^ 31

namespace Line.Flows
variable {p : Profile} {x : Line} (h : x.Flows p) (hn : x.near)
include h hn

theorem lt_fin_of_entryAt {b : Block} (hb : x.entryAt x.T = some b) : b ∈ x.blocks ∧ x.off x.T < x.off b.fin := by
  obtain ⟨hm, hlt⟩ := mem_entryAt hb
  have h1 := h.cursor
  have h2 := Nat.le_trans (h.fin_le_newest hm) h.newest_le_S
  unfold Line.near at hn
  exact ⟨hm, (posLt_iff_off (by omega) (by omega)).mp hlt⟩

/-- A byte that lies in no entry, where no block is open, lies just past them all. -/
theorem cursor_eq_newest (hp : p.outPacing = .block) (ho : x.openBlock = none) (he : x.entryAt x.T = none) : x.T = x.newest := by
  refine off_inj (x := x) (Nat.le_antisymm (h.shut hp ho) (Nat.not_lt.mp fun hlt => ?_))
  have hex : ∃ e ∈ x.blocks.map Block.fin, x.off x.T < x.off e := by
    have hmem : x.newest ∈ x.ends := List.mem_of_getLast? (getLast?_ends x)
    rcases List.mem_cons.mp hmem with hrt | hmem
    · rw [hrt, off_rt] at hlt; omega
    · exact ⟨_, hmem, hlt⟩
  obtain ⟨b, hb, h1, h2⟩ := exists_entry x x.T x.blocks x.Rt h.starts (by rw [off_rt]; omega) hex
  have hT := h.cursor
  have hfin := Nat.le_trans (h.fin_le_newest hb) h.newest_le_S
  unfold Line.near at hn
  have hno := List.find?_eq_none.mp he b hb
  exact hno (by
    rw [Bool.and_eq_true, posLe_iff_off (x := x) (by omega) (by omega), posLt_iff_off (x := x) (by omega) (by omega)]
    exact ⟨h1, h2⟩)

end Line.Flows

/-! ## Markers (R130, R66) -/

/-- Markers taken from the list, with every position as it was, leave the rest in order. -/
theorem markersInOrder_of_sites {x y : Line} (hx : x.markersInOrder) (hs : (y.markers.map Marker.site).Sublist (x.markers.map Marker.site))
    (hRt : y.Rt = x.Rt) (hS : x.off x.S ≤ x.off y.S)
    (hT : ∀ q, x.off x.T ≤ x.off q → x.off x.newest ≤ x.off q → x.off y.T ≤ x.off q ∧ x.off y.newest ≤ x.off q) : y.markersInOrder := by
  obtain ⟨hpair, hall⟩ := hx
  constructor
  · have hmap : (x.markers.map Marker.site).Pairwise (fun a b => x.off (a.2 + 1) < x.off (b.2 + 1)) := List.pairwise_map.mpr hpair
    have hsub := List.pairwise_map.mp (hmap.sublist hs)
    exact hsub.imp fun hlt => by rw [off_eq hRt, off_eq hRt]; exact hlt
  · intro m hm
    obtain ⟨k, hk, hsite⟩ := List.mem_map.mp (hs.subset (List.mem_map_of_mem hm))
    obtain ⟨h1, h2, h3⟩ := hall k hk
    have hkind : k.kind = m.kind := congrArg Prod.fst hsite
    have hpos : k.pos = m.pos := congrArg Prod.snd hsite
    simp only [off_eq hRt]
    refine ⟨?_, fun hmark => ?_, fun hhold => ?_⟩
    · rw [← hpos]; exact Nat.le_trans h1 hS
    · rw [← hpos]; exact Nat.lt_of_lt_of_le (h2 (hkind.trans hmark)) hS
    · obtain ⟨a, b⟩ := h3 (hkind.trans hhold)
      rw [← hpos]; exact hT _ a b

/-! ## Changes that leave a line's stream (R8) -/

/-- What is read of a line's stream. -/
def Line.stream (x : Line) : Pos × Pos × Pos × List OutCell × List Block × Option OpenBlock :=
  (x.Rt, x.T, x.S, x.outQ, x.blocks, x.openBlock)

/-- A change that leaves the stream: markers may go, the line may leave STALLED, and the ack timer may stop. -/
structure Line.KeepsFlow (x y : Line) : Prop where
  stream : y.stream = x.stream
  sites : (y.markers.map Marker.site).Sublist (x.markers.map Marker.site)
  stalled : y.state = .stalled → x.state = .stalled
  ack : x.ackTimer = .stopped → y.ackTimer = .stopped

/-- A change that leaves the character in the shift register too, and what waits for one given up goes on waiting. -/
structure Line.KeepsStream (x y : Line) : Prop extends x.KeepsFlow y where
  tx : y.tx = x.tx ∨ (x.inCharacter = false ∧ y.inCharacter = false)
  flush : x.inCharacter = true → x.longIs .flush = true → y.longIs .flush = true
  abort : x.inCharacter = true → x.underAbort = true → y.underAbort = true

namespace Line.KeepsFlow
variable {x y z : Line}

theorem refl (x : Line) : x.KeepsFlow x := ⟨rfl, .refl _, id, id⟩

theorem after (h' : y.KeepsFlow z) (h : x.KeepsFlow y) : x.KeepsFlow z :=
  ⟨h'.stream.trans h.stream, h'.sites.trans h.sites, fun c => h.stalled (h'.stalled c), fun c => h'.ack (h.ack c)⟩

theorem ite {c : Prop} [Decidable c] (hy : x.KeepsFlow y) (hz : x.KeepsFlow z) : x.KeepsFlow (if c then y else z) := by split <;> assumption

/-- Fields of equal value are enough. -/
theorem of_eq (h : (y.stream, y.markers, y.state, y.ackTimer) = (x.stream, x.markers, x.state, x.ackTimer)) : x.KeepsFlow y := by
  simp only [Prod.mk.injEq] at h
  obtain ⟨h1, h2, h3, h4⟩ := h
  exact ⟨h1, h2 ▸ List.Sublist.refl _, fun h => h3 ▸ h, fun h => h4.trans h⟩

theorem fields (h : x.KeepsFlow y) : y.Rt = x.Rt ∧ y.T = x.T ∧ y.S = x.S ∧ y.outQ = x.outQ ∧ y.blocks = x.blocks ∧ y.openBlock = x.openBlock := by
  have := h.stream
  simpa only [Line.stream, Prod.mk.injEq] using this

theorem newest (h : x.KeepsFlow y) : y.newest = x.newest := by
  obtain ⟨h1, -, -, -, h5, -⟩ := h.fields
  unfold Line.newest Line.newestEnd; rw [h1, h5]

theorem flows {p : Profile} (h : x.KeepsFlow y) (hx : x.Flows p) : y.Flows p := by
  obtain ⟨hRt, hT, hS, hQ, hB, hO⟩ := h.fields
  have hoff := off_eq hRt
  have hnew := h.newest
  refine ⟨?_, ?_, ?_, ?_, fun hp => ?_, fun b hb hs => ?_, fun hs => h.ack (hx.stalled (h.stalled hs)), fun hp ho => ?_, fun o ho => ?_⟩
  · rw [hoff, hoff, hT, hS]; exact hx.cursor
  · rw [queueCovers_iff, hRt, hQ, hS, ← queueCovers_iff]; exact hx.queue
  · have := hx.blocks
    unfold Line.blocksInOrder at *
    simpa only [hoff, hB, hRt, hS, hnew] using this
  · refine markersInOrder_of_sites hx.markers h.sites hRt (Nat.le_of_eq (congrArg x.off hS.symm)) fun q h1 h2 => ?_
    rw [hT, hnew]
    exact ⟨h1, h2⟩
  · obtain ⟨h1, h2, h3, h4⟩ := hx.plain hp
    exact ⟨hB.trans h1, hO.trans h2, fun hs => h3 (h.stalled hs), h.ack h4⟩
  · rw [hoff, hoff, hT]
    exact hx.sent b (hB ▸ hb) (hs.imp_right h.stalled)
  · rw [hoff, hoff, hT, hnew]; exact hx.shut hp (hO.symm.trans ho)
  · rw [hoff, hoff, hT, hnew, hB]; exact hx.opened o (hO.symm.trans ho)

end Line.KeepsFlow

theorem Line.Flows.keeps {p : Profile} {x y : Line} (h : x.Flows p) (hk : x.KeepsFlow y) : y.Flows p := hk.flows h

namespace Line.KeepsStream
variable {x y z : Line}

theorem refl (x : Line) : x.KeepsStream x := ⟨.refl x, Or.inl rfl, fun _ => id, fun _ => id⟩

theorem inCharacter_eq (h : x.KeepsStream y) : y.inCharacter = x.inCharacter := by
  rcases h.tx with h | ⟨h1, h2⟩
  · unfold Line.inCharacter; rw [h]
  · rw [h1, h2]

theorem after (h' : y.KeepsStream z) (h : x.KeepsStream y) : x.KeepsStream z where
  toKeepsFlow := .after h'.toKeepsFlow h.toKeepsFlow
  tx := by
    rcases h'.tx with e | ⟨e1, e2⟩
    · rcases h.tx with f | ⟨f1, f2⟩
      · exact Or.inl (e.trans f)
      · exact Or.inr ⟨f1, by rw [h'.inCharacter_eq]; exact f2⟩
    · exact Or.inr ⟨by rw [← h.inCharacter_eq]; exact e1, e2⟩
  flush := fun c hf => h'.flush (by rw [h.inCharacter_eq]; exact c) (h.flush c hf)
  abort := fun c hf => h'.abort (by rw [h.inCharacter_eq]; exact c) (h.abort c hf)

theorem ite {c : Prop} [Decidable c] (hy : x.KeepsStream y) (hz : x.KeepsStream z) : x.KeepsStream (if c then y else z) := by split <;> assumption

/-- Fields of equal value are enough. -/
theorem of_eq (h : (y.stream, y.markers, y.state, y.ackTimer) = (x.stream, x.markers, x.state, x.ackTimer)) (ht : y.tx = x.tx)
    (hl : y.long = x.long) : x.KeepsStream y where
  toKeepsFlow := .of_eq h
  tx := Or.inl ht
  flush := fun _ h => by unfold Line.longIs at *; rw [hl]; exact h
  abort := fun _ ha => by
    simp only [Prod.mk.injEq] at h
    obtain ⟨-, -, hst, -⟩ := h
    unfold Line.underAbort Line.longIs at *
    rw [hl, hst]; exact ha

theorem shifts {p : Profile} (h : x.KeepsStream y) (hx : x.Shifts p) : y.Shifts p := by
  obtain ⟨hRt, hT, -, -, hB, -⟩ := h.fields
  have quiet : ∀ z : Line, z.inCharacter = false → ∀ ch, z.tx ≠ .character ch := fun z hz ch hc => by simp [Line.inCharacter, hc] at hz
  rcases h.tx with htx | ⟨hx0, hy0⟩
  · refine ⟨fun hp hno => ?_, fun hp ch pos hc hk => ?_, fun hp ch e hc hr b hb hfin => ?_⟩
    · rw [hT, hRt]; exact hx.resting hp (by rw [← htx]; exact hno)
    · rw [htx] at hc
      have hin : x.inCharacter = true := by simp [Line.inCharacter, hc]
      refine (hx.byte hp ch pos hc hk).imp (fun ⟨h1, h2⟩ => ⟨by rw [hRt]; exact h1, by rw [hT, hRt]; exact h2⟩) fun ⟨h1, h2, h3⟩ => ?_
      refine ⟨by rw [hRt]; exact h1, by rw [hT, hRt]; exact h2, ?_⟩
      rw [hRt]
      exact h3.imp (And.imp_left (h.flush hin)) (And.imp_left (h.abort hin))
    · rw [off_eq hRt, off_eq hRt, hT]
      exact hx.entry hp ch e (htx ▸ hc) hr b (hB ▸ hb) hfin
  · exact .of_quiet hy0 fun hp => by rw [hT, hRt]; exact hx.resting hp fun ch _ hc => absurd hc (quiet x hx0 ch)

theorem ordered {p : Profile} (h : x.KeepsStream y) (hx : x.Ordered p) : y.Ordered p := ⟨h.toKeepsFlow.flows hx.1, h.shifts hx.2⟩

end Line.KeepsStream

theorem Line.Ordered.keeps {p : Profile} {x y : Line} (h : x.Ordered p) (hk : x.KeepsStream y) : y.Ordered p := hk.ordered h

end Sys2Proof.Machine
end

section
/-!
PROOF. Stream positions (O51): the character that starts, the stored bytes of a frame, and the queue given up.
-/
namespace Sys2Proof.Machine

/-- A line's cells are within 32 bytes each, and no more than the pool has. -/
def Line.holds (x : Line) : Prop := cellsWithin x.outQ ∧ x.outQ.length ≤ Config.poolCells

theorem Line.Flows.off_S_le {p : Profile} {x : Line} (h : x.Flows p) (hh : x.holds) : x.off x.S ≤ Config.cellBytes * Config.poolCells :=
  Machine.off_S_le h.queue hh.1 hh.2

theorem Line.Flows.near {p : Profile} {x : Line} (h : x.Flows p) (hh : x.holds) : x.near :=
  Nat.lt_of_le_of_lt (h.off_S_le hh) (by decide)

/-! ## The cursor moves on (R66, R67) -/

/-- The cursor moved on, the rest as it was. -/
theorem Line.Flows.forward {p : Profile} {x y : Line} (h : x.Flows p)
    (hsame : (y.Rt, y.S, y.outQ, y.blocks, y.markers, y.state, y.ackTimer) = (x.Rt, x.S, x.outQ, x.blocks, x.markers, x.state, x.ackTimer))
    (hle : x.off x.T ≤ x.off y.T) (hS : x.off y.T ≤ x.off x.S)
    (hhold : ∀ m ∈ x.markers, m.kind = .hold → x.off y.T ≤ x.off (m.pos + 1)) (hplain : p.outPacing ≠ .block → y.openBlock = none)
    (hshut : p.outPacing = .block → y.openBlock = none → x.off y.T ≤ x.off x.newest)
    (hopened : ∀ o, y.openBlock = some o → o.start = x.newest ∧ x.off x.newest < x.off y.T ∧ x.blocks.length < p.window) : y.Flows p := by
  simp only [Prod.mk.injEq] at hsame
  obtain ⟨hRt, hS', hQ, hB, hM, hst, hA⟩ := hsame
  have hoff := off_eq hRt
  have hnew : y.newest = x.newest := by unfold Line.newest Line.newestEnd; rw [hRt, hB]
  refine ⟨?_, ?_, ?_, ?_, fun hp => ?_, fun b hb hs => ?_, fun hs => hA.trans (h.stalled (hst ▸ hs)), fun hp ho => ?_, fun o ho => ?_⟩
  · rw [hoff, hoff, hS']; exact hS
  · rw [queueCovers_iff, hRt, hQ, hS', ← queueCovers_iff]; exact h.queue
  · have := h.blocks
    unfold Line.blocksInOrder at *
    simpa only [hoff, hB, hRt, hS', hnew] using this
  · obtain ⟨hpair, hall⟩ := h.markers
    unfold Line.markersInOrder
    simp only [hoff, hM, hS', hnew]
    refine ⟨hpair, fun m hm => ?_⟩
    obtain ⟨h1, h2, h3⟩ := hall m hm
    exact ⟨h1, h2, fun hk => ⟨hhold m hm hk, (h3 hk).2⟩⟩
  · obtain ⟨h1, -, h3, h4⟩ := h.plain hp
    exact ⟨hB.trans h1, hplain hp, hst ▸ h3, hA.trans h4⟩
  · rw [hoff, hoff]
    exact Nat.le_trans (h.sent b (hB ▸ hb) (hst ▸ hs)) hle
  · rw [hoff, hoff, hnew]; exact hshut hp ho
  · rw [hoff, hoff, hnew, hB]; exact hopened o ho

/-- The cursor lies at or below the position just past a HOLD marker (R66). -/
theorem Line.Flows.cursor_le_hold {p : Profile} {x : Line} (h : x.Flows p) {m : Marker} (hm : m ∈ x.markers) (hk : m.kind = .hold) :
    x.off x.T ≤ x.off (m.pos + 1) := by
  obtain ⟨-, -, hhold⟩ := h.markers.2 m hm
  exact (hhold hk).1

/-- The cursor where it was, with the open block begun where it was. -/
theorem Line.Flows.sameCursor {p : Profile} {x y : Line} (h : x.Flows p)
    (hsame : (y.Rt, y.S, y.outQ, y.blocks, y.markers, y.state, y.ackTimer) = (x.Rt, x.S, x.outQ, x.blocks, x.markers, x.state, x.ackTimer))
    (hT : y.T = x.T) (ho : y.openBlock.map OpenBlock.start = x.openBlock.map OpenBlock.start) : y.Flows p := by
  have hnone : y.openBlock = none → x.openBlock = none := fun h => by rw [h] at ho; simpa using ho.symm
  refine h.forward hsame (Nat.le_of_eq (by rw [hT])) (by rw [hT]; exact h.cursor) (fun m hm hk => by rw [hT]; exact h.cursor_le_hold hm hk)
    (fun hp => ?_) (fun hp hn => by rw [hT]; exact h.shut hp (hnone hn)) (fun o hy => ?_)
  · rw [(h.plain hp).openBlock] at ho; simpa using ho
  · rw [hy] at ho
    cases hx : x.openBlock with
    | none => rw [hx] at ho; cases ho
    | some o' =>
      rw [hx] at ho
      have hs : o.start = o'.start := Option.some.inj ho
      rw [hT, hs]; exact h.opened o' hx

/-- The oldest HOLD marker lies lowest. -/
theorem hold_le_of_find {x : Line} {m₀ : Marker} : ∀ {ms : List Marker}, ms.Pairwise (fun a b => x.off (a.pos + 1) < x.off (b.pos + 1)) →
    ms.find? (fun m => m.kind == .hold) = some m₀ → ∀ m ∈ ms, m.kind = .hold → x.off (m₀.pos + 1) ≤ x.off (m.pos + 1)
  | [], _, h, _, _, _ => by cases h
  | a :: ms, hp, h, m, hm, hk => by
    obtain ⟨ha, hp⟩ := List.pairwise_cons.mp hp
    by_cases hka : a.kind = .hold
    · rw [List.find?_cons_of_pos (by rw [hka]; rfl)] at h
      cases h
      rcases List.mem_cons.mp hm with rfl | hm
      · exact Nat.le_refl _
      · exact Nat.le_of_lt (ha m hm)
    · rw [List.find?_cons_of_neg (by simpa using hka)] at h
      rcases List.mem_cons.mp hm with rfl | hm
      · exact absurd hk hka
      · exact hold_le_of_find hp h m hm hk

/-- Where the barrier allows the byte at T, no HOLD marker lies below it (R66, R133). -/
theorem Line.Flows.hold_of_barrierAllows {p : Profile} {x : Line} (h : x.Flows p) (hn : x.near) (ha : x.barrierAllows = true) :
    ∀ m ∈ x.markers, m.kind = .hold → x.off (x.T + 1) ≤ x.off (m.pos + 1) := by
  intro m hm hk
  obtain ⟨hpair, hall⟩ := h.markers
  cases hb : x.barrier with
  | none => exact absurd (by rw [hk]; rfl) (List.find?_eq_none.mp hb m hm)
  | some m₀ =>
    have hle := (barrierAllows_iff x).mp ha m₀ hb
    have hm₀ := List.mem_of_find?_eq_some hb
    have hk₀ : m₀.kind = .hold := by simpa using List.find?_some hb
    have hT := h.cursor_le_hold hm₀ hk₀
    have hS := (hall m₀ hm₀).1
    refine Nat.le_trans ?_ (hold_le_of_find hpair hb m hm hk)
    rw [posLe_iff] at hle
    unfold Line.near at hn
    unfold Line.off at *
    bv_omega

/-! ## A character starts (R64 to R67, R73, R85) -/

theorem Line.Shifts.of_character {p : Profile} {y : Line} {ch : ShiftChar} (hy : y.tx = .character ch)
    (hbyte : p.outPacing ≠ .block → ∀ pos, ch.kind = .data pos → pos = y.Rt ∧ y.T = y.Rt + 1)
    (hrest : p.outPacing ≠ .block → (∀ pos, ch.kind ≠ .data pos) → y.T = y.Rt) (hentry : ∀ e, ch.role = .entryEnd e → e = y.T) : y.Shifts p := by
  have hch : ∀ {c}, y.tx = .character c → c = ch := fun h => by rw [hy] at h; exact (TxState.character.inj h).symm
  refine ⟨fun hp hno => hrest hp fun pos => hno ch pos hy, fun hp c pos hc hk => ?_, fun _ c e hc hr b _ _ => ?_⟩
  · rw [hch hc] at hk; exact Or.inl (hbyte hp pos hk)
  · rw [hch hc] at hr; exact Nat.le_of_eq (congrArg y.off (hentry e hr))

/-- In IDLE the cursor of a line that is not in BLOCK mode is at Rt. -/
theorem Line.Shifts.resting_of_idle {p : Profile} {x : Line} (h : x.Shifts p) (hx : x.tx = .idle) (hp : p.outPacing ≠ .block) : x.T = x.Rt :=
  h.resting hp fun ch _ hc => by rw [hx] at hc; cases hc

section
variable {p : Profile} {x : Line}

theorem Line.Ordered.startCode (h : x.Ordered p) (hx : x.tx = .idle) : (x.startCode p).Ordered p :=
  ⟨h.1.sameCursor rfl rfl rfl, .of_character rfl (fun _ _ h => by cases h) (fun hp _ => h.2.resting_of_idle hx hp) (fun _ h => by cases h)⟩

theorem Line.Ordered.startEnd (h : x.Ordered p) (hx : x.tx = .idle) : (x.startEnd p).Ordered p := by
  unfold Line.startEnd
  split
  next b hb =>
    exact ⟨h.1.sameCursor rfl rfl (by rw [hb]; rfl), .of_character rfl (fun _ _ h => by cases h) (fun hp _ => h.2.resting_of_idle hx hp)
      (fun _ h => by cases h)⟩
  next hb =>
    exact ⟨h.1.sameCursor rfl rfl rfl, .of_character rfl (fun _ _ h => by cases h) (fun hp _ => h.2.resting_of_idle hx hp)
      (fun _ h => (EndRole.entryEnd.inj h).symm)⟩

/-- What the gate of the byte at T says of the cursor. -/
structure Line.Goes (p : Profile) (x : Line) : Prop where
  below : x.off (x.T + 1) = x.off x.T + 1 ∧ x.off x.T < x.off x.S
  hold : ∀ m ∈ x.markers, m.kind = .hold → x.off (x.T + 1) ≤ x.off (m.pos + 1)
  allows : x.blockAllows p = true

theorem Line.Flows.goes (h : x.Flows p) (hn : x.near) (hd : x.dataReady p = true) : x.Goes p := by
  obtain ⟨-, hlt, -, hbar, hallow⟩ := (dataReady_iff p x).mp hd
  have hc := h.cursor
  have hn' : x.off x.S < 2 ^ 31 := hn
  exact ⟨⟨off_add_one (by omega), (posLt_iff_off (by omega) (by omega)).mp hlt⟩, h.hold_of_barrierAllows hn hbar, hallow⟩

theorem Line.Ordered.startResent (h : x.Ordered p) (hn : x.near) (hp : p.outPacing = .block) (hg : x.Goes p) (b : Byte) {e : Block}
    (he : x.entryAt x.T = some e) : (x.startResent p b e).Ordered p := by
  obtain ⟨hm, hlt⟩ := h.1.lt_fin_of_entryAt hn he
  obtain ⟨⟨hT, hS⟩, hhold, -⟩ := hg
  have hnew := h.1.fin_le_newest hm
  refine ⟨h.1.forward (y := x.startResent p b e) rfl ?_ ?_ hhold (fun h => absurd hp h) (fun _ _ => ?_) (fun o ho => ?_), ?_⟩
  · show x.off x.T ≤ x.off (x.T + 1); omega
  · show x.off (x.T + 1) ≤ _; omega
  · show x.off (x.T + 1) ≤ _; omega
  · obtain ⟨h1, h2, h3⟩ := h.1.opened o ho
    exact ⟨h1, by show _ < x.off (x.T + 1); omega, h3⟩
  · refine .of_character rfl (fun h => absurd hp h) (fun h => absurd hp h) fun q hq => ?_
    simp only at hq
    split at hq
    next hlast =>
      simp only [Bool.and_eq_true, beq_iff_eq] at hlast
      exact (EndRole.entryEnd.inj hq).symm.trans hlast.1.symm
    · cases hq

theorem Line.Ordered.startFirst (h : x.Ordered p) (hn : x.near) (hp : p.outPacing = .block) (hg : x.Goes p) (b : Byte)
    (he : x.entryAt x.T = none) : (x.startFirst p b).Ordered p := by
  obtain ⟨⟨hT, hS⟩, hhold, hallow⟩ := hg
  have hopen : ∀ o, (x.startFirst p b).openBlock = some o → o.start = x.newest ∧ x.off x.newest ≤ x.off x.T ∧ x.blocks.length < p.window := by
    intro o ho
    rw [Line.startFirst] at ho
    cases hx : x.openBlock with
    | some o' =>
      simp only [hx] at ho
      cases ho
      obtain ⟨h1, h2, h3⟩ := h.1.opened o' hx
      exact ⟨h1, Nat.le_of_lt h2, h3⟩
    | none =>
      simp only [hx] at ho
      cases ho
      have hnew := h.1.cursor_eq_newest hn hp hx he
      refine ⟨hnew, Nat.le_of_eq (by rw [hnew]), ?_⟩
      rcases (blockAllows_iff p x).mp hallow hp with ⟨e, h1, -⟩ | h1 | h1
      · rw [he] at h1; cases h1
      · exact absurd hx h1
      · exact h1
  refine ⟨h.1.forward (y := x.startFirst p b) rfl ?_ ?_ hhold (fun h => absurd hp h) (fun _ hc => by cases hc) (fun o ho => ?_), ?_⟩
  · show x.off x.T ≤ x.off (x.T + 1); omega
  · show x.off (x.T + 1) ≤ _; omega
  · obtain ⟨h1, h2, h3⟩ := hopen o ho
    exact ⟨h1, by show _ < x.off (x.T + 1); omega, h3⟩
  · refine .of_character rfl (fun h => absurd hp h) (fun h => absurd hp h) fun q hq => ?_
    simp only at hq
    split at hq <;> cases hq

theorem Line.Ordered.startPlain (h : x.Ordered p) (hp : p.outPacing ≠ .block) (hx : x.tx = .idle) (hg : x.Goes p) (b : Byte) :
    (x.startData p b).Ordered p := by
  rw [startData_plain b hp]
  obtain ⟨⟨hT, hS⟩, hhold, -⟩ := hg
  have hrest := h.2.resting_of_idle hx hp
  have hno := (h.1.plain hp).openBlock
  refine ⟨h.1.forward (y := { x with tx := .character ⟨.data x.T, b, .noEnd, frameChar p b⟩, T := x.T + 1 }) rfl ?_ ?_ hhold
    (fun _ => hno) (fun h => absurd h hp) (fun o ho => ?_), ?_⟩
  · show x.off x.T ≤ x.off (x.T + 1); omega
  · show x.off (x.T + 1) ≤ _; omega
  · rw [show x.openBlock = some o from ho] at hno; cases hno
  · refine .of_character rfl (fun _ pos hk => ?_) (fun _ hk => absurd rfl (hk x.T)) (fun _ h => by cases h)
    cases hk
    exact ⟨hrest, congrArg (· + 1) hrest⟩

/-- Whatever character starts, the stream stays in order. -/
theorem Line.Ordered.choose (h : x.Ordered p) (hn : x.near) (hx : x.tx = .idle) : (x.choose p).Ordered p := by
  unfold Line.choose
  split
  · exact h.startCode hx
  split
  · exact h.startEnd hx
  split
  next hd =>
    have hg := h.1.goes hn ((dataMayGo_iff p x).mp hd).1
    split
    next b _ =>
      by_cases hp : p.outPacing = .block
      · unfold Line.startData
        simp only [hp]
        split
        next e he => exact h.startResent hn hp hg b he
        next he => exact h.startFirst hn hp hg b he
      · exact h.startPlain hp hx hg b
    · exact h
  · exact h

end

/-! ## Stored bytes (R9, R129) -/

theorem off_add {x : Line} {q : Pos} {n : Nat} (h : x.off q + n < 2 ^ 32) : x.off (q + BitVec.ofNat 32 n) = x.off q + n := by
  unfold Line.off at *; bv_omega

/-- The cursor and the entries were not beyond S, so what S rises by leaves them as they were. -/
theorem Line.Flows.stored {p : Profile} {x y : Line} (h : x.Flows p)
    (hsame : (y.Rt, y.T, y.blocks, y.openBlock, y.state, y.ackTimer) = (x.Rt, x.T, x.blocks, x.openBlock, x.state, x.ackTimer))
    (hS : x.off x.S ≤ x.off y.S) (hq : y.queueCovers) (hm : y.markersInOrder) : y.Flows p := by
  simp only [Prod.mk.injEq] at hsame
  obtain ⟨hRt, hT, hB, hO, hst, hA⟩ := hsame
  have hoff := off_eq hRt
  have hnew : y.newest = x.newest := by unfold Line.newest Line.newestEnd; rw [hRt, hB]
  refine ⟨?_, hq, ?_, hm, fun hp => ?_, fun b hb hs => ?_, fun hs => hA.trans (h.stalled (hst ▸ hs)), fun hp ho => ?_, fun o ho => ?_⟩
  · rw [hoff, hoff, hT]; exact Nat.le_trans h.cursor hS
  · obtain ⟨h1, h2, h3, h4⟩ := h.blocks
    unfold Line.blocksInOrder
    simp only [hoff, hB, hRt, hnew]
    exact ⟨h1, h2, Nat.le_trans h3 hS, h4⟩
  · obtain ⟨h1, h2, h3, h4⟩ := h.plain hp
    exact ⟨hB.trans h1, hO.trans h2, hst ▸ h3, hA.trans h4⟩
  · rw [hoff, hoff, hT]; exact h.sent b (hB ▸ hb) (hst ▸ hs)
  · rw [hoff, hoff, hT, hnew]; exact h.shut hp (hO.symm.trans ho)
  · rw [hoff, hoff, hT, hnew, hB]; exact h.opened o (hO.symm.trans ho)

/-- The markers of a frame stand behind those before it, and below the new S (R129). -/
theorem Line.Flows.marked {p : Profile} {x y : Line} (h : x.Flows p) {o : Scan} (hrises : o.marks.Pairwise (fun a b => a.storedOff < b.storedOff))
    (hbelow : ∀ m ∈ o.marks, m.storedOff < o.stored.length) (hsum : x.off x.S + o.stored.length < 2 ^ 32)
    (hy : (y.Rt, y.T, y.S, y.blocks) = (x.Rt, x.T, x.S + BitVec.ofNat 32 o.stored.length, x.blocks))
    (hm : y.markers = x.markers ++ o.marks.map (fun m => m.marker x.A x.S)) : y.markersInOrder := by
  simp only [Prod.mk.injEq] at hy
  obtain ⟨hRt, hT, hS, hB⟩ := hy
  have hoff := off_eq hRt
  have hnew : y.newest = x.newest := by unfold Line.newest Line.newestEnd; rw [hRt, hB]
  obtain ⟨hpair, hall⟩ := h.markers
  have hyS : x.off y.S = x.off x.S + o.stored.length := by rw [hS]; exact off_add hsum
  have hpos : ∀ m ∈ o.marks, x.off (m.marker x.A x.S).pos = x.off x.S + m.storedOff := fun m hmem => by
    have := hbelow m hmem
    exact off_add (q := x.S) (n := m.storedOff) (by omega)
  have hnext : ∀ m ∈ o.marks, x.off ((m.marker x.A x.S).pos + 1) = x.off x.S + m.storedOff + 1 := fun m hmem => by
    have h1 := hpos m hmem
    have h2 := hbelow m hmem
    rw [off_add_one (by omega), h1]
  unfold Line.markersInOrder
  simp only [hoff, hm, hT, hnew]
  refine ⟨List.pairwise_append.mpr ⟨hpair, List.pairwise_map.mpr ?_, fun a ha b hb => ?_⟩, fun m hmem => ?_⟩
  · refine hrises.imp_of_mem fun {a b} ha hb hlt => ?_
    rw [hnext a ha, hnext b hb]; omega
  · obtain ⟨m, hmem, rfl⟩ := List.mem_map.mp hb
    rw [hnext m hmem]
    have := (hall a ha).1
    omega
  · have hc := h.cursor
    have hn := h.newest_le_S
    rcases List.mem_append.mp hmem with hmem | hmem
    · obtain ⟨h1, h2, h3⟩ := hall m hmem
      exact ⟨by omega, fun hk => Nat.lt_of_lt_of_le (h2 hk) (by omega), h3⟩
    · obtain ⟨k, hk, rfl⟩ := List.mem_map.mp hmem
      have h1 := hpos k hk
      have h2 := hnext k hk
      have h3 := hbelow k hk
      exact ⟨by omega, fun _ => by omega, fun _ => by omega⟩

/-- A frame stored, within the cells a line may hold. -/
theorem Line.Ordered.accept {p : Profile} {x : Line} (h : x.Ordered p) (hh : x.holds) {pats : Vector Pattern 16}
    (hlen : ∀ e : Fin 16, 1 ≤ (pats[e]).length) (l : Fin 8) (payload : List Byte) (n : Nat)
    (hsum : x.off x.S + (scan pats l payload).stored.length < 2 ^ 32) : (x.accept p (scan pats l payload) n).Ordered p := by
  have hfits := scanFits (l := l) hlen 0 0 payload
  obtain ⟨q, hq, -⟩ := storeBytes_frame (scan pats l payload).stored x
  have hcover := queueCovers_storeBytes (scan pats l payload).stored h.1.queue hh.1
  obtain ⟨g, hy⟩ := x.accept_eq p (scan pats l payload) n
  rw [hq] at hy hcover
  rw [hy]
  refine ⟨h.1.stored rfl ?_ hcover (h.1.marked (o := scan pats l payload) (hfits.rises.imp And.left) (fun m hm => ?_) hsum rfl rfl), ?_⟩
  · show x.off x.S ≤ x.off (x.S + BitVec.ofNat 32 (scan pats l payload).stored.length)
    rw [off_add hsum]; exact Nat.le_add_right _ _
  · have := (hfits.marks m hm).storedTo
    rw [Nat.zero_add] at this
    exact this
  · exact ⟨h.2.resting, h.2.byte, h.2.entry⟩

/-! ## The queue given up (R50, R54) -/

/-- A line with nothing stored. -/
theorem Line.Flows.of_empty {p : Profile} {x : Line} (hpos : x.T = x.Rt ∧ x.S = x.Rt) (hq : x.outQ = []) (hb : x.blocks = []) (ho : x.openBlock = none)
    (hm : x.markers = []) (hst : x.state ≠ .stalled) (ha : x.ackTimer = .stopped) : x.Flows p := by
  obtain ⟨hT, hS⟩ := hpos
  have hnew : x.newest = x.Rt := newest_of_nil hb
  refine ⟨Nat.le_of_eq (by rw [hT, hS]), ?_, ?_, ?_, fun _ => ⟨hb, ho, hst, ha⟩, fun b h => ?_, fun _ => ha, fun _ _ => Nat.le_of_eq (by rw [hT, hnew]), fun o h => ?_⟩
  · rw [queueCovers_iff, hq]; exact hS.symm
  · unfold Line.blocksInOrder
    rw [hb, hnew, hS]
    exact ⟨rfl, List.pairwise_singleton _ _, Nat.le_refl _, Nat.zero_le _⟩
  · unfold Line.markersInOrder
    rw [hm]
    exact ⟨.nil, fun m h => by cases h⟩
  · rw [hb] at h; cases h
  · rw [ho] at h; cases h

theorem Line.Shifts.of_empty {p : Profile} {x : Line} (hT : x.T = x.Rt) (hb : x.blocks = [])
    (hbyte : p.outPacing ≠ .block → ∀ ch pos, x.tx = .character ch → ch.kind = .data pos → x.gaveUp pos) : x.Shifts p :=
  ⟨fun _ _ => hT, fun hp ch pos hc hk => Or.inr (hbyte hp ch pos hc hk), fun _ _ _ _ _ b h => by rw [hb] at h; cases h⟩

/-- Where the byte in the shift register lies, seen from S: the queue given up leaves it below Rt, and not far (R50, R54). -/
theorem Line.Ordered.byte_below_S {p : Profile} {x : Line} (h : x.Ordered p) (hh : x.holds) (hp : p.outPacing ≠ .block) {ch : ShiftChar} {pos : Pos}
    (hc : x.tx = .character ch) (hk : ch.kind = .data pos) (hna : x.underAbort = false) :
    pos ≠ x.S ∧ (x.S - pos).toNat ≤ 2 ^ 15 ∧ (x.longIs .flush = false → (x.S - pos).toNat ≤ 2 ^ 14) := by
  have hS := h.1.off_S_le hh
  simp only [Config.cellBytes, Config.poolCells] at hS
  have hcur := h.1.cursor
  rcases h.2.byte hp ch pos hc hk with ⟨rfl, hT⟩ | ⟨hne, -, hfar | hfar⟩
  · rw [hT] at hcur
    unfold Line.off at *
    bv_omega
  · obtain ⟨hl, hfar⟩ := hfar
    refine ⟨?_, ?_, fun h => by rw [hl] at h; cases h⟩ <;> (unfold Line.off at *; bv_omega)
  · rw [hna] at hfar; cases hfar.1

end Sys2Proof.Machine
end

section
/-!
PROOF. Stream positions (O51): Rt moves on, blocks end, a resend begins and a line stalls.
-/
namespace Sys2Proof.Machine

/-! ## Rt moves on (R10, R11, R132) -/

/-- A marker not passed lies at or beyond the position, if it lay in the stream at all. -/
theorem off_le_of_not_passed {x : Line} {r : Pos} {m : Marker} (hr : x.off r < 2 ^ 31) (hpos : x.off m.pos < 2 ^ 31) (hk : m.kind = .mark)
    (h : m.passed r = false) : x.off r ≤ x.off m.pos := by
  unfold Marker.passed at h
  rw [hk, show (MarkerKind.mark == MarkerKind.mark) = true from rfl, Bool.true_and, Bool.eq_false_iff, ne_eq, posLt_iff_off hpos hr] at h
  exact Nat.not_lt.mp h

/-- The markers left when Rt has moved on, no further than the cursor (R132). -/
theorem Line.Flows.markers_advance {p : Profile} {x y : Line} (h : x.Flows p) (hn : x.near) (hr : x.off y.Rt ≤ x.off x.T)
    (hy : (y.T, y.S) = (x.T, x.S)) (hm : y.markers = x.markers.filter (fun m => !m.passed y.Rt))
    (hnew : x.off y.Rt ≤ x.off y.newest) (hhold : ∀ q, x.off x.T ≤ x.off q → x.off x.newest ≤ x.off q → x.off y.newest ≤ x.off q) : y.markersInOrder := by
  simp only [Prod.mk.injEq] at hy
  obtain ⟨hT, hS⟩ := hy
  obtain ⟨hpair, hall⟩ := h.markers
  have hcur := h.cursor
  have hn' : x.off x.S < 2 ^ 31 := hn
  have hmem : ∀ m ∈ y.markers, m ∈ x.markers ∧ m.passed y.Rt = false := fun m hm' => by
    rw [hm] at hm'
    simpa using List.mem_filter.mp hm'
  have hnext : ∀ m ∈ y.markers, x.off y.Rt ≤ x.off (m.pos + 1) ∧ (m.kind = .mark → x.off y.Rt ≤ x.off m.pos) := fun m hm' => by
    obtain ⟨h1, h2⟩ := hmem m hm'
    obtain ⟨-, hmark, hh⟩ := hall m h1
    cases hk : m.kind with
    | mark =>
      have hlt := hmark hk
      have := off_le_of_not_passed (x := x) (r := y.Rt) (by omega) (by omega) hk h2
      have := off_add_one (x := x) (q := m.pos) (by omega)
      exact ⟨by omega, fun _ => by omega⟩
    | hold => exact ⟨Nat.le_trans hr (hh hk).1, fun hc => by cases hc⟩
  constructor
  · rw [hm]
    refine (hpair.filter _).imp_of_mem fun {a b} ha hb hlt => ?_
    rw [← hm] at ha hb
    exact off_advance_lt (hnext a ha).1 hlt
  · intro m hm'
    obtain ⟨h1, -⟩ := hmem m hm'
    obtain ⟨hle, hmark, hh⟩ := hall m h1
    obtain ⟨n1, n2⟩ := hnext m hm'
    rw [hS, hT]
    refine ⟨off_advance_le n1 hle, fun hk => off_advance_lt (n2 hk) (hmark hk), fun hk => ⟨off_advance_le hr (hh hk).1, off_advance_le hnew ?_⟩⟩
    exact hhold _ (hh hk).1 (hh hk).2

/-- Rt moved on, no further than the cursor, with what is left of the list in order. -/
theorem Line.Flows.advance {p : Profile} {x y : Line} (h : x.Flows p) (hh : x.holds) (hr : x.off y.Rt ≤ x.off x.T)
    (hy : (y.T, y.S, y.openBlock, y.state, y.ackTimer) = (x.T, x.S, x.openBlock, x.state, x.ackTimer))
    (hq : y.outQ = x.outQ.dropWhile (OutCell.covered y.Rt)) (hm : y.markers = x.markers.filter (fun m => !m.passed y.Rt))
    (hb : y.blocksInOrder p) (hsub : ∀ b ∈ y.blocks, b ∈ x.blocks ∧ x.off y.Rt ≤ x.off b.fin)
    (hnew : x.off y.Rt ≤ x.off y.newest) (hhold : ∀ q, x.off x.T ≤ x.off q → x.off x.newest ≤ x.off q → x.off y.newest ≤ x.off q)
    (hblock : p.outPacing = .block → y.newest = x.newest ∧ y.blocks.length ≤ x.blocks.length) : y.Flows p := by
  have hn := h.near hh
  simp only [Prod.mk.injEq] at hy
  obtain ⟨hT, hS, hO, hst, hA⟩ := hy
  refine ⟨?_, ?_, hb, ?_, fun hp => ?_, fun b hbm hs => ?_, fun hs => hA.trans (h.stalled (hst ▸ hs)), fun hp ho => ?_, fun o ho => ?_⟩
  · rw [hT, hS]; exact off_advance_le hr h.cursor
  · exact queueCovers_advance h.queue hh.1 hh.2 (Nat.le_trans hr h.cursor) hq hS
  · exact h.markers_advance hn hr (by rw [hT, hS]) hm hnew hhold
  · obtain ⟨h1, h2, h3, h4⟩ := h.plain hp
    refine ⟨List.eq_nil_iff_forall_not_mem.mpr fun b hbm => ?_, hO.trans h2, hst ▸ h3, hA.trans h4⟩
    have := (hsub b hbm).1
    rw [h1] at this; cases this
  · obtain ⟨h1, h2⟩ := hsub b hbm
    rw [hT]; exact off_advance_le h2 (h.sent b h1 (hst ▸ hs))
  · obtain ⟨h1, -⟩ := hblock hp
    rw [hT, h1]; exact off_advance_le hr (h.shut hp (hO.symm.trans ho))
  · obtain ⟨h1, h2, h3⟩ := h.opened o (hO.symm.trans ho)
    have hp : p.outPacing = .block := by
      refine Classical.byContradiction fun hp => ?_
      have := (h.plain hp).openBlock
      rw [hO.symm.trans ho] at this; cases this
    obtain ⟨e, hl⟩ := hblock hp
    rw [e] at hnew
    rw [hT, e]
    exact ⟨h1, off_advance_lt hnew h2, by omega⟩

section
variable {p : Profile} {x : Line}

/-- The line when a byte at Rt has retired (R88, R132). -/
def Line.byteRetired (due : Bool) (x : Line) : Line :=
  { x with
    Rt := x.Rt + 1
    outQ := x.outQ.dropWhile (OutCell.covered (x.Rt + 1))
    markers := x.markers.filter (fun m => !m.passed (x.Rt + 1))
    grantDue := due }

theorem Line.Flows.byteRetired (h : x.Flows p) (hh : x.holds) (hp : p.outPacing ≠ .block) (hT : x.T = x.Rt + 1) (due : Bool) :
    (x.byteRetired due).Flows p := by
  have hnil := (h.plain hp).blocks
  have hy : (x.byteRetired due).newest = x.Rt + 1 := newest_of_nil hnil
  refine h.advance (y := x.byteRetired due) hh ?_ rfl rfl rfl ?_ (fun b hb => ?_) ?_ (fun q hq _ => ?_) (fun h => absurd h hp)
  · rw [hT]; exact Nat.le_refl _
  · unfold Line.blocksInOrder
    have hb : (x.byteRetired due).blocks = [] := hnil
    rw [hb, hy, show (x.byteRetired due).off (x.Rt + 1) = 0 from off_rt (x.byteRetired due)]
    exact ⟨rfl, List.pairwise_singleton _ _, Nat.zero_le _, Nat.zero_le _⟩
  · rw [show (x.byteRetired due).blocks = [] from hnil] at hb; cases hb
  · rw [hy]; exact Nat.le_refl _
  · rw [hy, ← hT]; exact hq

/-- The line when its oldest entry has been retired, and what the ack timer makes of it not yet (R79, R132). -/
def Line.entryRetired (k : Block) (ks : List Block) (due : Bool) (x : Line) : Line :=
  { x with
    blocks := ks
    retry := 0
    Rt := k.fin
    outQ := x.outQ.dropWhile (OutCell.covered k.fin)
    grantDue := due
    markers := x.markers.filter (fun m => !m.passed k.fin) }

theorem newest_entryRetired {k : Block} {ks : List Block} (hb : x.blocks = k :: ks) (due : Bool) : (x.entryRetired k ks due).newest = x.newest := by
  unfold Line.newest Line.newestEnd Line.entryRetired
  rw [hb, List.getLast?_cons]
  cases ks.getLast? <;> rfl

theorem Line.Flows.entryRetired (h : x.Flows p) (hh : x.holds) {k : Block} {ks : List Block} (hb : x.blocks = k :: ks)
    (hs : k.sent = true ∨ x.state = .stalled) (due : Bool) : (x.entryRetired k ks due).Flows p := by
  have hk : k ∈ x.blocks := by rw [hb]; exact List.mem_cons_self
  have hks : ∀ b ∈ ks, b ∈ x.blocks := fun b hm => by rw [hb]; exact List.mem_cons_of_mem _ hm
  have hnew := newest_entryRetired hb due
  have hstarts := h.starts
  have hrises := h.rises
  obtain ⟨-, -, -, hlen⟩ := h.blocks
  rw [Line.ends, hb] at hstarts hrises
  simp only [List.map_cons, List.length_cons, List.take_succ_cons, List.cons.injEq] at hstarts hrises
  have hlater := (List.pairwise_cons.mp (List.pairwise_cons.mp hrises).2).1
  have hfin : ∀ b ∈ ks, x.off k.fin ≤ x.off b.fin := fun b hm => Nat.le_of_lt (hlater _ (List.mem_map_of_mem hm))
  have hle : x.off k.fin ≤ x.off x.newest := h.fin_le_newest hk
  refine h.advance (y := x.entryRetired k ks due) hh (h.sent k hk hs) rfl rfl rfl ⟨hstarts.2, ?_, ?_, ?_⟩
    (fun b hm => ⟨hks b hm, hfin b hm⟩) (by rw [hnew]; exact hle) (fun q _ hq => by rw [hnew]; exact hq)
    (fun _ => ⟨hnew, by rw [hb]; exact Nat.le_succ _⟩)
  · refine (List.pairwise_cons.mp hrises).2.imp_of_mem fun {a b} ha _ hlt => off_advance_lt (x := x) ?_ hlt
    show x.off k.fin ≤ x.off a
    rcases List.mem_cons.mp ha with rfl | ha
    · exact Nat.le_refl _
    · exact Nat.le_of_lt (hlater a ha)
  · rw [hnew]; exact off_advance_le (y := x.entryRetired k ks due) hle h.newest_le_S
  · rw [hb] at hlen; exact Nat.le_trans (Nat.le_succ _) hlen

/-- The line when every entry has been given up, STALLED not yet left (R57). -/
def Line.entriesDropped (due : Bool) (x : Line) : Line :=
  { x with
    Rt := x.newest
    outQ := x.outQ.dropWhile (OutCell.covered x.newest)
    grantDue := due
    markers := x.markers.filter (fun m => !m.passed x.newest)
    blocks := []
    retry := 0
    resend := false
    ackTimer := .stopped }

theorem Line.Flows.entriesDropped (h : x.Flows p) (hh : x.holds) (hs : x.state = .stalled) (due : Bool) : (x.entriesDropped due).Flows p := by
  have hnew : (x.entriesDropped due).newest = x.newest := newest_of_nil rfl
  have hle : x.off x.newest ≤ x.off x.T := by
    rcases List.mem_cons.mp (List.mem_of_getLast? (getLast?_ends x)) with hrt | hm
    · rw [hrt, off_rt]; exact Nat.zero_le _
    · obtain ⟨b, hb, hfin⟩ := List.mem_map.mp hm
      rw [← hfin]; exact h.sent b hb (Or.inr hs)
  refine h.advance (y := x.entriesDropped due) hh hle (by rw [h.stalled hs]; rfl) rfl rfl ?_ (fun b hb => by cases hb) (by rw [hnew]; exact Nat.le_refl _)
    (fun q _ hq => by rw [hnew]; exact hq) (fun _ => ⟨hnew, Nat.zero_le _⟩)
  unfold Line.blocksInOrder
  rw [hnew, show (x.entriesDropped due).off x.newest = 0 from off_rt (x.entriesDropped due)]
  exact ⟨rfl, List.pairwise_singleton _ _, Nat.zero_le _, Nat.zero_le _⟩

/-! ## The ack timer in BLOCK mode (R77) -/

theorem Line.Flows.setAck (h : x.Flows p) (hp : p.outPacing = .block) {a : AckTimer} (ha : x.state = .stalled → a = .stopped) :
    ({ x with ackTimer := a } : Line).Flows p :=
  ⟨h.cursor, h.queue, h.blocks, h.markers, fun hne => absurd hp hne, h.sent, ha, h.shut, h.opened⟩

theorem Line.Flows.started_stalled (h : x.Flows p) (q : Profile) (hs : x.state = .stalled) : x.started q = .stopped := by
  rw [Line.started, if_neg (fun hc => hc.2 hs)]
  exact h.stalled hs

theorem Line.Flows.ackStart (h : x.Flows p) (hp : p.outPacing = .block) (q : Profile) : (x.ackStart q).Flows p := by
  rw [ackStart_started]
  exact h.setAck hp (h.started_stalled q)

/-! ## A block's end (R76, R85) -/

/-- The open block joins the list where the cursor is. -/
theorem Line.Flows.joined (h : x.Flows p) {o : OpenBlock} (ho : x.openBlock = some o) (k : EndKind) :
    ({ x with blocks := x.blocks ++ [⟨o.start, x.T, k, true⟩], openBlock := none } : Line).Flows p := by
  obtain ⟨hstart, hlt, hlen⟩ := h.opened o ho
  have hp : p.outPacing = .block := by
    refine Classical.byContradiction fun hp => ?_
    have := (h.plain hp).openBlock
    rw [ho] at this; cases this
  generalize hy : ({ x with blocks := x.blocks ++ [⟨o.start, x.T, k, true⟩], openBlock := none } : Line) = y
  have hRt : y.Rt = x.Rt := by rw [← hy]
  have hyT : y.T = x.T := by rw [← hy]
  have hyS : y.S = x.S := by rw [← hy]
  have hyB : y.blocks = x.blocks ++ [⟨o.start, x.T, k, true⟩] := by rw [← hy]
  have hyM : y.markers = x.markers := by rw [← hy]
  have hst : y.state = x.state := by rw [← hy]
  have hA : y.ackTimer = x.ackTimer := by rw [← hy]
  have hO : y.openBlock = none := by rw [← hy]
  have hQ : y.outQ = x.outQ := by rw [← hy]
  have hoff := off_eq hRt
  have hnew : y.newest = x.T := by unfold Line.newest Line.newestEnd; rw [hyB]; simp
  have hends : x.Rt :: (x.blocks ++ [(⟨o.start, x.T, k, true⟩ : Block)]).map Block.fin = x.ends ++ [x.T] := by simp [Line.ends]
  refine ⟨?_, ?_, ⟨?_, ?_, ?_, ?_⟩, ?_, fun hne => absurd hp hne, fun b hb hs => ?_, fun hs => hA.trans (h.stalled (hst ▸ hs)), fun _ _ => ?_,
    fun o ho => ?_⟩
  · rw [hoff, hoff, hyT, hyS]; exact h.cursor
  · rw [queueCovers_iff, hRt, hQ, hyS, ← queueCovers_iff]; exact h.queue
  · rw [hyB, hRt, hends]
    have hl : x.ends.length = x.blocks.length + 1 := by simp [Line.ends]
    rw [List.map_append, h.starts, List.length_append, List.length_singleton, ← hl, List.take_left, List.map_singleton, hstart]
    exact ends_eq_dropLast x
  · rw [hyB, hRt, hends]
    simp only [hoff]
    refine List.pairwise_append.mpr ⟨h.rises, List.pairwise_singleton _ _, fun a ha b hb => ?_⟩
    rw [List.mem_singleton.mp hb]
    exact Nat.lt_of_le_of_lt (h.ends_le ha) hlt
  · rw [hoff, hoff, hnew, hyS]; exact h.cursor
  · rw [hyB, List.length_append, List.length_singleton]; exact hlen
  · refine markersInOrder_of_sites h.markers (hyM ▸ List.Sublist.refl _) hRt (Nat.le_of_eq (by rw [hyS])) fun q h1 _ => ?_
    rw [hyT, hnew]; exact ⟨h1, h1⟩
  · rw [hoff, hoff, hyT]
    rw [hyB] at hb
    rcases List.mem_append.mp hb with hb | hb
    · exact Nat.le_trans (h.fin_le_newest hb) (Nat.le_of_lt hlt)
    · exact Nat.le_of_eq (by rw [List.mem_singleton.mp hb])
  · exact Nat.le_of_eq (by rw [hoff, hoff, hyT, hnew])
  · rw [hO] at ho; cases ho

/-- Entries with other sent flags, set only where the cursor is past their end. -/
theorem Line.Flows.resent (h : x.Flows p) {f : Block → Block} (hf : ∀ b, (f b).start = b.start ∧ (f b).fin = b.fin)
    (hsent : ∀ b ∈ x.blocks, ((f b).sent = true ∨ x.state = .stalled) → x.off b.fin ≤ x.off x.T) : ({ x with blocks := x.blocks.map f } : Line).Flows p := by
  have hstart : (x.blocks.map f).map Block.start = x.blocks.map Block.start := by
    rw [List.map_map]; exact List.map_congr_left fun b _ => (hf b).1
  have hfin : (x.blocks.map f).map Block.fin = x.blocks.map Block.fin := by
    rw [List.map_map]; exact List.map_congr_left fun b _ => (hf b).2
  have hnew : ({ x with blocks := x.blocks.map f } : Line).newest = x.newest := by
    unfold Line.newest Line.newestEnd
    rw [← List.getLast?_map, ← List.getLast?_map, hfin]
  obtain ⟨b1, b2, b3, b4⟩ := h.blocks
  refine ⟨h.cursor, h.queue, ⟨?_, ?_, ?_, ?_⟩, ?_, fun hp => ?_, fun b hb hs => ?_, h.stalled, fun hp ho => ?_, fun o ho => ?_⟩
  · simp only [hstart, hfin, List.length_map]; exact b1
  · simp only [hfin]; exact b2
  · rw [hnew]; exact b3
  · rw [List.length_map]; exact b4
  · refine markersInOrder_of_sites h.markers (.refl _) rfl (Nat.le_refl _) fun q h1 h2 => ?_
    rw [hnew]; exact ⟨h1, h2⟩
  · obtain ⟨h1, h2, h3, h4⟩ := h.plain hp
    exact ⟨by simp only [h1, List.map_nil], h2, h3, h4⟩
  · obtain ⟨c, hc, rfl⟩ := List.mem_map.mp hb
    rw [(hf c).2]; exact hsent c hc hs
  · rw [hnew]; exact h.shut hp ho
  · rw [hnew, List.length_map]; exact h.opened o ho

theorem Line.Flows.joinBlock (h : x.Flows p) {o : OpenBlock} (ho : x.openBlock = some o) (hp : p.outPacing = .block) (q : Profile) (k : EndKind) :
    (x.joinBlock q k o).Flows p := (h.joined ho k).ackStart hp q

theorem Line.Flows.markSent (h : x.Flows p) (hp : p.outPacing = .block) (q : Profile) {e : Pos} (he : ∀ b ∈ x.blocks, b.fin = e → x.off e ≤ x.off x.T) :
    (x.markSent q e).Flows p := by
  have hy := h.resent (f := fun b => if b.fin = e then { b with sent := true } else b) (fun b => by split <;> exact ⟨rfl, rfl⟩) fun b hb hs => by
    by_cases hfin : b.fin = e
    · rw [hfin]; exact he b hb hfin
    · rw [if_neg hfin] at hs; exact h.sent b hb hs
  obtain ⟨rs, heq, -⟩ := markSent_frame q e x
  rw [heq]
  exact Line.KeepsFlow.flows (x := { x with
    blocks := x.blocks.map (fun b => if b.fin = e then { b with sent := true } else b), ackTimer := x.started q }) (.of_eq rfl)
    (hy.setAck hp (h.started_stalled q))

/-! ## A resend and a stall (R84, R86) -/

theorem Line.Ordered.beginResend (h : x.Ordered p) (hp : p.outPacing = .block) (hst : x.state ≠ .stalled) : x.beginResend.Ordered p := by
  have hy := h.1.resent (f := fun b => { b with sent := false }) (fun b => ⟨rfl, rfl⟩) fun b hb hs => by
    rcases hs with hs | hs
    · cases hs
    · exact absurd hs hst
  refine ⟨⟨?_, hy.queue, hy.blocks, ?_, fun hne => absurd hp hne, fun b hb hs => ?_, fun _ => rfl, fun _ _ => ?_, fun o ho => by cases ho⟩,
    fun hne => absurd hp hne, fun hne => absurd hp hne, fun _ ch e hc hr => ?_⟩
  · show x.off x.Rt ≤ _
    rw [off_rt]; exact Nat.zero_le _
  · refine markersInOrder_of_sites (y := x.beginResend) hy.markers (.refl _) rfl (Nat.le_refl _) fun q h1 h2 => ⟨?_, h2⟩
    show x.off x.Rt ≤ _
    rw [off_rt]; exact Nat.zero_le _
  · obtain ⟨c, -, rfl⟩ := List.mem_map.mp hb
    rcases hs with hs | hs
    · cases hs
    · exact absurd hs hst
  · show x.off x.Rt ≤ _
    rw [off_rt]; exact Nat.zero_le _
  · have htx : x.tx.abandon = .character ch := hc
    cases hx : x.tx with
    | character c =>
      rw [hx] at htx
      have := TxState.character.inj htx
      rw [← this] at hr; cases hr
    | _ => rw [hx] at htx; cases htx

theorem off_stallCursor (h : x.Flows p) (hn : x.near) : x.off x.T ≤ x.off x.stallCursor ∧ x.off x.newest ≤ x.off x.stallCursor
    ∧ (x.stallCursor = x.T ∨ x.stallCursor = x.newest) := by
  have hT := h.cursor
  have hN := h.newest_le_S
  have hn' : x.off x.S < 2 ^ 31 := hn
  unfold Line.stallCursor
  cases he : x.newestEnd with
  | none =>
    have hnew : x.newest = x.Rt := by unfold Line.newest; rw [he]; rfl
    exact ⟨Nat.le_refl _, by rw [hnew, off_rt]; exact Nat.zero_le _, Or.inl rfl⟩
  | some e =>
    have hnew : x.newest = e := by unfold Line.newest; rw [he]; rfl
    rw [hnew] at hN ⊢
    have hiff := posLt_iff_off (x := x) (a := x.T) (b := e) (by omega) (by omega)
    by_cases hlt : posLt x.T e = true
    · simp only [if_pos hlt]
      exact ⟨Nat.le_of_lt (hiff.mp hlt), Nat.le_refl _, Or.inr trivial⟩
    · simp only [if_neg hlt]
      exact ⟨Nat.le_refl _, Nat.not_lt.mp (mt hiff.mpr hlt), Or.inl trivial⟩

theorem Line.Ordered.enterStalled (h : x.Ordered p) (hn : x.near) (hp : p.outPacing = .block) : x.enterStalled.Ordered p := by
  obtain ⟨hT, hN, hor⟩ := off_stallCursor h.1 hn
  have hle : ∀ q, x.off x.T ≤ x.off q → x.off x.newest ≤ x.off q → x.off x.stallCursor ≤ x.off q := fun q h1 h2 => by
    rcases hor with e | e <;> rw [e] <;> assumption
  refine ⟨⟨hle x.S h.1.cursor h.1.newest_le_S, h.1.queue, h.1.blocks, ?_, fun hne => absurd hp hne, fun b hb _ => Nat.le_trans (h.1.fin_le_newest hb) hN,
    fun _ => rfl, fun _ ho => hle x.newest (h.1.shut hp ho) (Nat.le_refl _), fun o ho => ?_⟩, fun hne => absurd hp hne, fun hne => absurd hp hne,
    fun _ ch e hc hr b hb hfin => Nat.le_trans (h.2.entry hp ch e hc hr b hb hfin) hT⟩
  · exact markersInOrder_of_sites (y := x.enterStalled) h.1.markers (.refl _) rfl (Nat.le_refl _) fun q h1 h2 => ⟨hle q h1 h2, h2⟩
  · obtain ⟨h1, h2, h3⟩ := h.1.opened o ho
    exact ⟨h1, Nat.lt_of_lt_of_le h2 hT, h3⟩

end

end Sys2Proof.Machine
end

section
/-!
PROOF. Stream positions (O51): the operations that leave a line's stream, and what follows within an event.
-/
namespace Sys2Proof.Machine

/-! ## The operations that leave a line's stream -/

theorem underAbort_iff_state (x : Line) : x.underAbort = true ↔ x.state = .draining ∧ x.longIs .closeAbort = true := by
  rw [Line.underAbort, Bool.and_eq_true, beq_iff_eq]

theorem sites_setReached : ∀ ms : List Marker, (setReached ms).map Marker.site = ms.map Marker.site
  | [] => rfl
  | m :: ms => by
    unfold setReached
    split
    · rfl
    · rw [List.map_cons, List.map_cons, sites_setReached ms]

namespace Line.KeepsStream
variable (x : Line) (p : Profile)

/-- A state left that an abort is not under. -/
theorem of_state {x y : Line} (h : (y.stream, y.ackTimer, y.tx, y.long) = (x.stream, x.ackTimer, x.tx, x.long))
    (hm : (y.markers.map Marker.site).Sublist (x.markers.map Marker.site)) (hs : y.state = .stalled → x.state = .stalled)
    (hd : x.state ≠ .draining) : x.KeepsStream y := by
  simp only [Prod.mk.injEq] at h
  obtain ⟨h1, h2, h3, h4⟩ := h
  refine ⟨⟨h1, hm, hs, fun h => h2.trans h⟩, Or.inl h3, fun _ h => ?_, fun _ ha => absurd ((underAbort_iff_state x).mp ha).1 hd⟩
  unfold Line.longIs at *; rw [h4]; exact h

theorem standing : x.KeepsStream (x.standing p) := by
  obtain ⟨e, t, q, u, h⟩ := x.standing_frame p
  rw [h]; exact .of_eq rfl rfl rfl

theorem applyMarks : x.KeepsStream (x.applyMarks p) := by
  obtain ⟨a, b, c, h, -⟩ := x.applyMarks_frame p
  rw [h]; exact .of_eq rfl rfl rfl

theorem enterHeld : x.KeepsStream x.enterHeld := by
  unfold Line.enterHeld
  split
  next hr => exact .of_state rfl (.refl _) (fun h => by cases h) (by rw [hr]; exact LineState.noConfusion)
  · exact .refl x

theorem setReached : x.KeepsStream { x with markers := Machine.setReached x.markers } where
  stream := rfl
  sites := sites_setReached x.markers ▸ List.Sublist.refl _
  stalled := id
  ack := id
  tx := Or.inl rfl
  flush := fun _ => id
  abort := fun _ => id

theorem sealCurrent : x.KeepsStream x.sealCurrent := by
  unfold Line.sealCurrent; split <;> exact .of_eq rfl rfl rfl

theorem sealOrTime (b : Byte) : x.KeepsStream (x.sealOrTime p b) := by
  unfold Line.sealOrTime
  split
  · exact .ite (.sealCurrent x) (.of_eq rfl rfl rfl)
  · exact .refl x

theorem ackOnCondition : x.KeepsStream (x.ackOnCondition p) := by
  rw [ackOnCondition_eq]
  exact ⟨⟨rfl, .refl _, id, fun h => by simp only [h]⟩, Or.inl rfl, fun _ => id, fun _ => id⟩

/-- The HOLD markers or the oldest of them go. -/
theorem release (h : x.state = .held) : x.KeepsStream x.release :=
  .of_state rfl (List.eraseP_sublist.map _) (fun h => by cases h) (by rw [h]; exact LineState.noConfusion)

/-- Where no character is in the shift register, the long request and the transmitter are free. -/
theorem of_quiet {x y : Line} (h : x.KeepsFlow y) (hx : x.inCharacter = false) (hy : y.inCharacter = false) : x.KeepsStream y :=
  { toKeepsFlow := h
    tx := Or.inr ⟨hx, hy⟩
    flush := fun hc => by rw [hx] at hc; cases hc
    abort := fun hc => by rw [hx] at hc; cases hc }

end Line.KeepsStream

/-- Line l keeps its stream. -/
def State.KeepsStream (l : Fin 8) (s t : State) : Prop := (s.line l).KeepsStream (t.line l)

namespace State.KeepsStream
variable {l : Fin 8} {s t : State}

theorem refl : State.KeepsStream l s s := Line.KeepsStream.refl _

theorem setLine (h : State.KeepsStream l s t) {y : Line} (hy : (t.line l).KeepsStream y) : State.KeepsStream l s (t.setLine l y) := by
  unfold State.KeepsStream; rw [State.line_setLine_same]; exact hy.after h

theorem mapLine (h : State.KeepsStream l s t) {f : Line → Line} (hf : (t.line l).KeepsStream (f (t.line l))) :
    State.KeepsStream l s (t.mapLine l f) := h.setLine hf

theorem raise (h : State.KeepsStream l s t) (r : EventRec) : State.KeepsStream l s (t.raise l r) := h

theorem ite {c : Prop} [Decidable c] {u : State} (ha : State.KeepsStream l s t) (hb : State.KeepsStream l s u) :
    State.KeepsStream l s (if c then t else u) := by split <;> assumption

theorem count (h : State.KeepsStream l s t) (f) (r : EventRec) : State.KeepsStream l s ((t.mapLine l (·.count f)).raise l r) :=
  raise (h.mapLine (.of_eq rfl rfl rfl)) r

theorem dropInbound (h : State.KeepsStream l s t) (k) : State.KeepsStream l s (t.dropInbound l k) := by
  obtain ⟨i, a, b, c, he, -⟩ := t.dropInbound_frame l k
  rw [he]; exact h.setLine (.of_eq rfl rfl rfl)

theorem reachBarrier (h : State.KeepsStream l s t) (q) : State.KeepsStream l s (t.reachBarrier l q) := by
  unfold State.reachBarrier
  split
  · exact h
  · refine ite (ite (h.mapLine (.enterHeld _)) (raise (h.mapLine ?_) _)) h
    exact .after (.enterHeld _) (.setReached (t.line l))

theorem adopt (h : State.KeepsStream l s t) (c) : State.KeepsStream l s (t.adopt l c) := by
  have h1 : State.KeepsStream l s (t.mapLine l (fun ln => { ln with settled := c, candidate := none, debounceTimer := .stopped })) :=
    h.mapLine (.of_eq rfl rfl rfl)
  have h2 := h1.mapLine (f := fun ln => Line.ackOnCondition (t.prof l) { ln with cond := ((t.prof l).entry c).cond, unreported := addCount ln.unreported 1 })
    (.after (.ackOnCondition _ _) (.of_eq rfl rfl rfl))
  exact ite h1 (ite (raise (h2.mapLine (.of_eq rfl rfl rfl)) _) h2)

theorem storeIn (h : State.KeepsStream l s t) (b) : State.KeepsStream l s (t.storeIn l b) := by
  unfold State.storeIn
  simp only
  split
  · exact h.setLine (.after (.sealOrTime _ _ _) (.of_eq rfl rfl rfl))
  · refine ite (t := State.takeCells _ _) ?_ (h.count _ _)
    exact h.setLine (.after (.sealOrTime _ _ _) (.after (.applyMarks _ _) (.of_eq rfl rfl rfl)))

/-- A long request that waits for no character in the shift register ends (R40). -/
theorem finishLong (h : State.KeepsStream l s t) (r : Reply)
    (hl : (t.line l).inCharacter = true → (t.line l).longIs .flush = false ∧ (t.line l).underAbort = false) :
    State.KeepsStream l s (t.finishLong l r) := by
  rw [finishLong_eq]
  refine h.setLine (y := { t.line l with long := none }) ⟨.of_eq rfl, Or.inl rfl, fun hc hf => ?_, fun hc ha => ?_⟩
  · rw [(hl hc).1] at hf; cases hf
  · rw [(hl hc).2] at ha; cases ha

theorem testFlush (h : State.KeepsStream l s t) : State.KeepsStream l s (t.testFlush l) := by
  unfold State.testFlush State.completeFlush
  split
  next hf =>
    rw [Line.flushDone, Bool.and_eq_true, Bool.not_eq_true'] at hf
    split
    · exact h.finishLong _ fun hc => by rw [hf.2] at hc; cases hc
    · exact h
  · exact h

theorem testDrain (h : State.KeepsStream l s t) : State.KeepsStream l s (t.testDrain l) := by
  unfold State.testDrain State.takeDrain
  refine ite ((h.dropInbound _).mapLine ?_) h
  generalize (t.dropInbound l fun c => c.inFrame).line l = x
  have hl : ∀ k, Line.longIs { x with
      gapTimer := .stopped, rx := .idle, candidate := none, debounceTimer := .stopped
      long := x.long.map (fun g => { g with completing := true, inBytes := (t.line l).discardableBytes, outBytes := 0 }) } k = x.longIs k := by
    intro k
    unfold Line.longIs
    cases x.long <;> rfl
  refine ⟨.of_eq rfl, Or.inl rfl, fun _ hf => (hl _).trans hf, fun _ ha => ?_⟩
  unfold Line.underAbort at *
  rw [hl]; exact ha

/-- What follows an event, up to the entry to CLOSED (R69, R48, R53). -/
theorem standing (h : State.KeepsStream l s t) (p : Profile) : State.KeepsStream l s (((t.mapLine l (Line.standing p)).testFlush l).testDrain l) :=
  ((h.mapLine (.standing _ p)).testFlush).testDrain

end State.KeepsStream

/-! ## What follows within an event -/

theorem State.prof_congr {s t : State} {k : Fin 8} (hp : t.profiles = s.profiles) (hl : t.line k = s.line k) : t.prof k = s.prof k := by
  simp only [State.prof, hp, hl]

/-- The changes of line l leave every line's profile. -/
theorem LineMoves.prof {l : Fin 8} {keep : Prop} {s t : State} (h : LineMoves l keep s t) (k : Fin 8) : t.prof k = s.prof k := by
  induction h with
  | refl => rfl
  | @tail b c _ hstep ih =>
    refine Eq.trans ?_ ih
    have set : ∀ y : Line, y.binding = (b.line l).binding → (b.setLine l y).prof k = b.prof k := fun y hy => by
      by_cases hk : k = l
      · subst hk; exact b.prof_setLine_same k y hy
      · exact b.prof_setLine_ne y hk
    cases hstep with
    | line y f tame => exact set y tame.binding
    | raise => rfl
    | removeLine => rfl
    | finishLong reply => rw [finishLong_eq]; exact set { b.line l with long := none } rfl
    | take y still _ _ k' slot nIn nOut => exact set (y.setLong k' slot nIn nOut) still.tame.binding

/-- Every line that is not CLOSED has its stream in order. -/
def State.OpenOrdered (s : State) : Prop := ∀ l, (s.line l).state ≠ .closed → (s.line l).Ordered (s.prof l)

namespace State.OpenOrdered
variable {s t u : State} {l : Fin 8}

/-- Every line still open keeps its profile and its stream. -/
theorem of_lines (h : s.OpenOrdered) (hl : ∀ k, (t.line k).state ≠ .closed → (s.line k).state ≠ .closed ∧ t.prof k = s.prof k
    ∧ (s.line k).KeepsStream (t.line k)) : t.OpenOrdered := fun k hk => by
  obtain ⟨h1, h2, h3⟩ := hl k hk
  rw [h2]; exact h3.ordered (h k h1)

/-- One line changed. -/
theorem setLine (h : s.OpenOrdered) {y : Line} (hy : y.Ordered (s.prof l)) (hb : y.binding = (s.line l).binding)
    (ht : ∀ k, t.line k = (s.setLine l y).line k) (hp : t.profiles = s.profiles) : t.OpenOrdered := fun k hk => by
  have hprof : t.prof k = (s.setLine l y).prof k := State.prof_congr hp (ht k)
  rw [hprof]
  by_cases hkl : k = l
  · subst hkl
    rw [ht k, State.line_setLine_same, s.prof_setLine_same k y hb]; exact hy
  · rw [ht k, State.line_setLine_ne _ _ hkl] at hk ⊢
    rw [s.prof_setLine_ne y hkl]; exact h k hk

/-- Changes of line l, which is in order after them. -/
theorem moves (h : s.OpenOrdered) (hm : LineMoves l False s u) (hu : (u.line l).Ordered (s.prof l)) : u.OpenOrdered := fun k hk => by
  rw [hm.prof k]
  by_cases hkl : k = l
  · subst hkl; exact hu
  · rw [hm.other hkl] at hk ⊢; exact h k hk

theorem testPartReset (h : s.OpenOrdered) : s.testPartReset.OpenOrdered := by
  unfold State.testPartReset
  split
  next pr _ =>
    split
    next hc =>
      intro k hk
      rw [State.line_completePartReset] at hk
      exact absurd ((allClosed_iff s).mp hc k) hk
    · exact h
  · exact h

theorem testClose (h : s.OpenOrdered) (l : Fin 8) : (s.testClose l).testPartReset.OpenOrdered := by
  apply testPartReset
  have closed : ∀ t : State, (∀ k, k ≠ l → t.line k = s.line k) → t.profiles = s.profiles → (t.enterClosed l).OpenOrdered := by
    intro t ht hp k hk
    by_cases hkl : k = l
    · subst hkl
      exact absurd (congrArg Line.state (State.line_setLine_same t k (t.line k).closedFrom)) hk
    · have e : (t.enterClosed l).line k = s.line k := (State.line_setLine_ne t _ hkl).trans (ht k hkl)
      have hprof : (t.enterClosed l).prof k = s.prof k := State.prof_congr hp e
      rw [e] at hk ⊢
      rw [hprof]; exact h k hk
  unfold State.testClose State.closeLine
  split
  · split
    · rw [finishLong_eq]
      exact closed _ (fun k hk => State.line_setLine_ne s _ hk) rfl
    · exact closed s (fun _ _ => rfl) rfl
  · exact h

/-- After an event in which line l is in order, what follows leaves every open line so. -/
theorem settle (h : s.OpenOrdered) (hm : LineMoves l False s u) (hu : (u.line l).Ordered (s.prof l)) : (u.settle l).OpenOrdered := by
  have hk : State.KeepsStream l u (((u.mapLine l (Line.standing (u.prof l))).testFlush l).testDrain l) := State.KeepsStream.refl.standing _
  exact testClose (h.moves ((hm.standing _).testFlush.testDrain) (Line.KeepsStream.ordered hk hu)) l

end State.OpenOrdered

/-! ## The other invariants -/

/-- The invariants that the order of the streams leans on. -/
def State.Sound (s : State) : Prop := s.Balanced ∧ s.closedAtRest ∧ TablesValid s.profiles s.patterns ∧ s.Matches

namespace State.Sound
variable {s : State} (h : s.Sound)
include h

theorem balanced : s.Balanced := by
  obtain ⟨hb, -⟩ := h
  exact hb

theorem atRest : s.closedAtRest := by
  obtain ⟨-, hr, -⟩ := h
  exact hr

theorem matched : s.Matches := by
  obtain ⟨-, -, -, hm⟩ := h
  exact hm

/-- Every pattern entry has a length, in use or not (R124, R125). -/
theorem length_pos (e : Fin 16) : 1 ≤ (s.patterns[e]).length := by
  obtain ⟨-, -, ⟨-, hv⟩, -⟩ := h
  rcases hv e with he | ⟨-, hlen, -⟩
  · rw [he]; exact Nat.le_refl 1
  · exact hlen

end State.Sound

/-- Two properties kept are kept together. -/
theorem Kept.and {P Q : State → Prop} (hP : Kept P) (hQ : Kept Q) : Kept (fun s => P s ∧ Q s) where
  powerOn s a b h := ⟨hP.powerOn s a b h.1, hQ.powerOn s a b h.2⟩
  noted s t hn h := ⟨hP.noted s t hn h.1, hQ.noted s t hn h.2⟩
  linkRestart s c h := ⟨hP.linkRestart s c h.1, hQ.linkRestart s c h.2⟩
  beginSession s q a h := ⟨hP.beginSession s q a h.1, hQ.beginSession s q a h.2⟩
  takeData s l d h := ⟨hP.takeData s l d h.1, hQ.takeData s l d h.2⟩
  dropRequest s h := ⟨hP.dropRequest s h.1, hQ.dropRequest s h.2⟩
  listRefusal s e he h := ⟨hP.listRefusal s e he h.1, hQ.listRefusal s e he h.2⟩
  admitted s c a o n h1 h2 h3 h4 h5 h := ⟨hP.admitted s c a o n h1 h2 h3 h4 h5 h.1, hQ.admitted s c a o n h1 h2 h3 h4 h5 h.2⟩
  testPartReset s h := ⟨hP.testPartReset s h.1, hQ.testPartReset s h.2⟩
  arbiterChoice s h := ⟨hP.arbiterChoice s h.1, hQ.arbiterChoice s h.2⟩
  frameEnd s h := ⟨hP.frameEnd s h.1, hQ.frameEnd s h.2⟩
  refreshExpiry s h := ⟨hP.refreshExpiry s h.1, hQ.refreshExpiry s h.2⟩
  announceExpiry s h := ⟨hP.announceExpiry s h.1, hQ.announceExpiry s h.2⟩
  repeatExpiry s c h := ⟨hP.repeatExpiry s c h.1, hQ.repeatExpiry s c h.2⟩
  lineEvent i l s t h1 h2 h h3 := ⟨hP.lineEvent i l s t h1 h2 h.1 h3, hQ.lineEvent i l s t h1 h2 h.2 h3⟩

theorem State.sound_kept : Kept State.Sound :=
  State.balanced_kept.kept.and (State.closedAtRest_kept.and (tablesValid_kept.kept.and State.matches_kept))

/-- A line's cells within what the pool has. -/
theorem State.Accounts.holds {s : State} (h : s.Accounts) (l : Fin 8) : (s.line l).holds ∧ (s.line l).resOut ≤ Config.poolCells := by
  obtain ⟨-, hres, hfits⟩ := h
  obtain ⟨hq, -, -, hc⟩ := hfits l
  have hsum := sumLines_setLine s l (s.line l).closedFrom Line.reserved
  have h0 : (s.line l).closedFrom.reserved = 0 := rfl
  have hle : (s.line l).resOut ≤ (s.line l).reserved := Nat.le_add_right _ _
  exact ⟨⟨hc, by omega⟩, by omega⟩

/-- A CLOSED line's stream is in order, whatever its profile. -/
theorem Line.Rests.ordered {x : Line} (h : x.Rests) (p : Profile) : x.Ordered p := by
  rw [h]
  exact ⟨.of_empty ⟨rfl, rfl⟩ rfl rfl rfl rfl LineState.noConfusion rfl, .of_quiet rfl fun _ => rfl⟩

/-- The open lines in order, with the invariants this leans on. -/
def State.InOrder (s : State) : Prop := s.Sound ∧ s.OpenOrdered

namespace State.InOrder
variable {s t u : State} {l : Fin 8} (h : s.InOrder)
include h

theorem ordered (l : Fin 8) : (s.line l).Ordered (s.prof l) := by
  by_cases hc : (s.line l).state = .closed
  · exact Line.Rests.ordered (h.1.atRest l hc) _
  · exact h.2 l hc

theorem holds (l : Fin 8) : (s.line l).holds := (h.1.balanced.1.holds l).1

theorem near (l : Fin 8) : (s.line l).near := (h.ordered l).1.near (h.holds l)

/-- An event that leaves the line's stream. -/
theorem keeps (hm : LineMoves l False s u) (hk : State.KeepsStream l s u) : u.OpenOrdered := h.2.moves hm (Line.KeepsStream.ordered hk (h.ordered l))

theorem keeps_settle (hm : LineMoves l False s u) (hk : State.KeepsStream l s u) : (u.settle l).OpenOrdered :=
  h.2.settle hm (Line.KeepsStream.ordered hk (h.ordered l))

end State.InOrder

end Sys2Proof.Machine
end

section
/-!
PROOF. Stream positions (O51): every command of a line.
-/
namespace Sys2Proof.Machine

/-! ## Acks, naks and expiries (R79 to R86) -/

section
variable {p q : Profile} {x : Line}

theorem Line.Ordered.retired (h : x.Ordered p) (hh : x.holds) (hp : p.outPacing = .block) {k : Block} {ks : List Block} (hb : x.blocks = k :: ks)
    (hs : k.sent = true ∨ x.state = .stalled) (due : Bool) : (x.retired q k ks due).Ordered p := by
  have hf := h.1.entryRetired hh hb hs due
  have hk : k ∈ x.blocks := by rw [hb]; exact List.mem_cons_self
  have hack := hf.setAck hp (a := (x.retired q k ks due).ackTimer) fun hst => by
    have hst : x.state = .stalled := hst
    show (if ks = [] then _ else _) = AckTimer.stopped
    rw [if_pos hst, h.1.stalled hst, ite_self]
  refine ⟨hack.keeps (y := x.retired q k ks due) ⟨rfl, .refl _, fun hst => ?_, id⟩, fun hne => absurd hp hne, fun hne => absurd hp hne,
    fun _ ch e hc hr b hbm hfin => ?_⟩
  · show x.state = .stalled
    have hst' : (if x.state = .stalled ∧ ks = [] then (if x.barrierReached then LineState.held else .running) else x.state) = .stalled := hst
    refine Classical.byContradiction fun hn => ?_
    rw [if_neg (fun hc => hn hc.1)] at hst'
    exact hn hst'
  · have hmem : b ∈ x.blocks := by rw [hb]; exact List.mem_cons_of_mem _ hbm
    have hle := h.2.entry hp ch e hc hr b hmem hfin
    refine off_advance_le (x := x) (y := x.retired q k ks due) (a := e) (b := x.T) ?_ hle
    have hrises := h.1.rises
    rw [Line.ends, hb] at hrises
    rw [← hfin]
    exact Nat.le_of_lt ((List.pairwise_cons.mp (List.pairwise_cons.mp hrises).2).1 _ (List.mem_map_of_mem hbm))

/-- In BLOCK mode the long request is no matter of the stream. -/
theorem Line.Ordered.setLong (h : x.Ordered p) (hp : p.outPacing = .block) (g : Option LongReq) : ({ x with long := g } : Line).Ordered p :=
  ⟨h.1.keeps (.of_eq rfl), fun hne => absurd hp hne, fun hne => absurd hp hne, h.2.entry⟩

end

section
variable {s : State} {l : Fin 8} {p : Profile}

/-- A resend or a stall, of a line that is not STALLED. -/
theorem ordered_retryOrStall (h : (s.line l).Ordered p) (hn : (s.line l).near) (hp : p.outPacing = .block) (hst : (s.line l).state ≠ .stalled) :
    ((s.retryOrStall l).line l).Ordered p := by
  unfold State.retryOrStall
  simp only
  split
  · have hx : ({ s.line l with retry := (s.line l).retry + 1 } : Line).Ordered p := h.keeps (.of_eq rfl rfl rfl)
    rw [State.line_mapLine_same]
    exact hx.beginResend hp hst
  · have hx : ∃ g, (s.failDrain l).line l = { s.line l with long := g } := by
      unfold State.failDrain
      split
      · rw [finishLong_eq]; exact ⟨none, s.line_setLine_same l _⟩
      · exact ⟨(s.line l).long, rfl⟩
    obtain ⟨g, hg⟩ := hx
    show (((s.failDrain l).mapLine l Line.enterStalled).line l).Ordered p
    rw [State.line_mapLine_same, hg]
    exact (h.setLong hp g).enterStalled hn hp

theorem ordered_takeAck (h : (s.line l).Ordered p) (hh : (s.line l).holds) (hp : p.outPacing = .block) : ((s.takeAck l).line l).Ordered p := by
  cases hb : (s.line l).blocks with
  | nil => rw [takeAck_none hb]; exact h.keeps (State.KeepsStream.refl.count _ _)
  | cons k ks =>
    by_cases ht : (s.line l).state = .stalled ∨ ((s.line l).resend = false ∧ k.sent = true)
    · obtain ⟨due, heq, -⟩ := retireOldest_frame s l (s.line l) rfl k ks hb
      rw [s.setLine_line] at heq
      rw [takeAck_taken hb ht, heq]
      have hy := h.retired (q := s.prof l) hh hp hb (ht.symm.imp_left And.right) due
      exact (s.line_setLine_same l _).symm ▸ hy
    · obtain ⟨h1, h2⟩ := not_or.mp ht
      have hlate : (s.line l).resend = true ∨ k.sent = false := by
        refine Classical.byContradiction fun hc => ?_
        obtain ⟨h3, h4⟩ := not_or.mp hc
        exact h2 ⟨by simpa using h3, by simpa using h4⟩
      rw [takeAck_late hb h1 hlate]
      exact h.keeps (State.KeepsStream.refl.count _ _)

theorem ordered_takeNak (h : (s.line l).Ordered p) (hn : (s.line l).near) (hp : p.outPacing = .block) : ((s.takeNak l).line l).Ordered p := by
  have stray : ((s.strayAck l).line l).Ordered p := h.keeps (State.KeepsStream.refl.count _ _)
  unfold State.takeNak
  simp only
  split
  · exact stray
  · split
    next ht => exact ordered_retryOrStall h hn hp ht.1
    · exact stray

/-- A good character, by what the pacing mode makes of it (R71, R72, R79, R81). -/
theorem ordered_goodCharacter (h : (s.line l).Ordered (s.prof l)) (hh : (s.line l).holds) (v : Byte) :
    ((s.goodCharacter l v).line l).Ordered (s.prof l) := by
  have hk : State.KeepsStream l s (s.mapLine l (fun ln => { ln.count Counters.addReceived with rx := .idle, armed := true })) :=
    State.KeepsStream.refl.mapLine (.of_eq rfl rfl rfl)
  have h1 := h.keeps hk
  have hh1 : ((s.mapLine l (fun ln => { ln.count Counters.addReceived with rx := .idle, armed := true })).line l).holds := by
    rw [State.line_mapLine_same]; exact hh
  unfold State.goodCharacter State.goodUnderCode
  simp only
  split
  · exact h.keeps (hk.storeIn v)
  · exact h.keeps (State.KeepsStream.ite (hk.mapLine (.of_eq rfl rfl rfl)) (.ite (hk.mapLine (.of_eq rfl rfl rfl))
      ((hk.mapLine (.of_eq rfl rfl rfl)).storeIn v)))
  next hp =>
    split
    · exact ordered_takeAck h1 hh1 hp
    split
    · exact ordered_takeNak h1 (h1.1.near hh1) hp
    · exact h.keeps (hk.storeIn v)

theorem ordered_sortCharacter (h : (s.line l).Ordered (s.prof l)) (hh : (s.line l).holds) (a : Byte) (b c : Bool) :
    ((s.sortCharacter l a b c).line l).Ordered (s.prof l) := by
  have hb : State.KeepsStream l s ((s.mapLine l (fun ln => Line.sealCurrent { ln.count Counters.addBreak with rx := .brk, armed := false })).raise l
      (.lineError { KindSet.empty with brk := true } 0 0 0)) :=
    .raise (State.KeepsStream.refl.mapLine (f := fun ln => Line.sealCurrent { ln.count Counters.addBreak with rx := .brk, armed := false })
      (.after (.sealCurrent _) (.of_eq rfl rfl rfl))) _
  unfold State.sortCharacter State.breakDetected State.framingError State.parityError
  simp only
  split
  · exact h.keeps (State.KeepsStream.ite (hb.dropInbound _) hb)
  split
  · exact h.keeps (State.KeepsStream.raise (.mapLine .refl (.of_eq rfl rfl rfl)) _)
  split
  · exact h.keeps (State.KeepsStream.raise (.mapLine .refl (.of_eq rfl rfl rfl)) _)
  · exact ordered_goodCharacter h hh _

/-! ## The completion of a character (R63, R76, R85, R88) -/

/-- After a character, or a break, the transmitter holds none. -/
theorem Line.KeepsFlow.afterCharacter (x : Line) (q : Profile) : x.KeepsFlow (x.afterCharacter q) ∧ (x.afterCharacter q).inCharacter = false := by
  unfold Line.afterCharacter Line.enterGap
  split
  · exact ⟨.of_eq rfl, rfl⟩
  split
  · exact ⟨.of_eq rfl, rfl⟩
  · exact ⟨.of_eq rfl, rfl⟩

theorem Line.Flows.afterCharacter {x : Line} (h : x.Flows p) (ht : p.outPacing ≠ .block → x.T = x.Rt) (q : Profile) : (x.afterCharacter q).Ordered p := by
  obtain ⟨hk, hq⟩ := Line.KeepsFlow.afterCharacter x q
  obtain ⟨hRt, hT, -⟩ := hk.fields
  exact ⟨hk.flows h, .of_quiet hq fun hp => by rw [hRt, hT]; exact ht hp⟩

/-- A block's end in BLOCK mode. -/
theorem flows_endCompletes (h : (s.line l).Ordered p) (hp : p.outPacing = .block) {ch : ShiftChar} (hx : (s.line l).tx = .character ch) :
    ((s.endCompletes l ch).line l).Flows p := by
  have step : ∀ {f : Line → Line} {r}, (f (s.line l)).Flows p → (((s.mapLine l f).reachBarrier l r).line l).Flows p := fun {f r} hf =>
    (State.KeepsStream.refl.reachBarrier r).toKeepsFlow.flows (by rw [State.line_mapLine_same]; exact hf)
  unfold State.endCompletes
  simp only
  split
  · exact h.1
  · split
    next b ho => exact step (h.1.joinBlock ho hp _ _)
    · exact h.1
  next e hr =>
    split
    · exact step (h.1.markSent hp _ fun b hb hfin => h.2.entry hp ch e hx hr b hb hfin)
    · exact h.1

/-- A byte in NONE or CODE mode: it retires at Rt, and one given up only ends. -/
theorem flows_byteCompletes (h : (s.line l).Ordered p) (hh : (s.line l).holds) (hp : p.outPacing ≠ .block) {ch : ShiftChar} {pos : Pos}
    (hx : (s.line l).tx = .character ch) (hk : ch.kind = .data pos) :
    ((s.byteCompletes l pos).line l).Flows p ∧ ((s.byteCompletes l pos).line l).T = ((s.byteCompletes l pos).line l).Rt := by
  rcases h.2.byte hp ch pos hx hk with ⟨rfl, hT⟩ | ⟨hne, hT, -⟩
  · obtain ⟨due, hmove, -⟩ := s.moveRt_frame l ((s.line l).Rt + 1)
    have hmarks := reachMarks_eq (s.moveRt l ((s.line l).Rt + 1)) l
    have hline : ((s.moveRt l ((s.line l).Rt + 1)).reachMarks l).line l = (s.line l).byteRetired due := by
      rw [hmarks, hmove]
      exact (State.line_setLine_same _ l _).trans (by rw [State.line_freeCells, State.line_setLine_same]; rfl)
    have hb : State.KeepsStream l ((s.moveRt l ((s.line l).Rt + 1)).reachMarks l) (s.byteCompletes l (s.line l).Rt) := by
      rw [State.byteCompletes, if_pos rfl]
      exact State.KeepsStream.refl.reachBarrier _
    obtain ⟨hRt, hT', -⟩ := hb.fields
    rw [hline] at hRt hT'
    have hf := h.1.byteRetired hh hp hT due
    rw [← hline] at hf
    refine ⟨hf.keeps hb.toKeepsFlow, ?_⟩
    rw [hRt, hT']; exact hT
  · rw [State.byteCompletes, if_neg hne]
    exact ⟨h.1, hT⟩

/-- The pacer's part of a completion (R63). -/
theorem flows_pacerCompletes (h : (s.line l).Ordered (s.prof l)) (hh : (s.line l).holds) {ch : ShiftChar} (hx : (s.line l).tx = .character ch) :
    ((s.pacerCompletes l ch).line l).Flows (s.prof l)
      ∧ ((s.prof l).outPacing ≠ .block → ((s.pacerCompletes l ch).line l).T = ((s.pacerCompletes l ch).line l).Rt) := by
  have hrest : (∀ pos, ch.kind ≠ .data pos) → (s.prof l).outPacing ≠ .block → (s.line l).T = (s.line l).Rt := fun hk hp =>
    h.2.resting hp fun c pos hc => by rw [hx] at hc; rw [← TxState.character.inj hc]; exact hk pos
  unfold State.pacerCompletes
  split
  next hk => exact ⟨h.1, hrest fun pos hc => by rw [hk] at hc; cases hc⟩
  next hk =>
    by_cases hp : (s.prof l).outPacing = .block
    · exact ⟨flows_endCompletes h hp hx, fun hne => absurd hp hne⟩
    · obtain ⟨hb, ho, -⟩ := h.1.plain hp
      have hnone : ch.role = .noEnd ∨ (ch.role = .openEnd ∧ (s.line l).openBlock = none)
          ∨ ∃ e, ch.role = .entryEnd e ∧ ∀ k ∈ (s.line l).blocks, k.fin ≠ e := by
        cases hr : ch.role with
        | noEnd => exact Or.inl rfl
        | openEnd => exact Or.inr (Or.inl ⟨rfl, ho⟩)
        | entryEnd e => exact Or.inr (Or.inr ⟨e, rfl, fun k hk => by rw [hb] at hk; cases hk⟩)
      rw [endCompletes_nothing s l ch hnone]
      exact ⟨h.1, hrest fun pos hc => by rw [hk] at hc; cases hc⟩
  next pos hk =>
    by_cases hp : (s.prof l).outPacing = .block
    · rw [if_pos hp]
      exact ⟨flows_endCompletes h hp hx, fun hne => absurd hp hne⟩
    · rw [if_neg hp]
      obtain ⟨h1, h2⟩ := flows_byteCompletes h hh hp hx hk
      exact ⟨h1, fun _ => h2⟩

end

/-! ## Every command of a line -/

namespace State.InOrder
variable {s t : State} {l : Fin 8} (h : s.InOrder)
include h

theorem transmitterChoice : (s.transmitterChoice l).OpenOrdered := by
  unfold State.transmitterChoice
  split
  next ht =>
    refine h.2.settle (LineMoves.refl.mapLine (.choose _ _)) ?_
    rw [State.line_mapLine_same]
    exact (h.ordered l).choose (h.near l) ht
  · exact h.2

theorem characterCompletion : (s.characterCompletion l).OpenOrdered := by
  unfold State.characterCompletion
  split
  next ch hc =>
    let u := s.mapLine l (·.count Counters.addSent)
    have hm : LineMoves l False s u := LineMoves.refl.mapLine (.count _ _ .sent)
    have hu : (u.line l).Ordered (u.prof l) := by
      rw [hm.prof l]; exact (h.ordered l).keeps (State.KeepsStream.refl.mapLine (.of_eq rfl rfl rfl))
    have hline : u.line l = (s.line l).count Counters.addSent := s.line_mapLine_same l _
    obtain ⟨hf, hT⟩ := flows_pacerCompletes (s := u) (ch := ch) hu (by rw [hline]; exact h.holds l) (by rw [hline]; exact hc)
    rw [hm.prof l] at hf hT
    refine h.2.settle ((hm.pacerCompletes ch).mapLine (.afterCharacter _ _)) ?_
    rw [State.line_mapLine_same]
    exact hf.afterCharacter hT _
  · exact h.2

/-- A change of the transmitter with no character in it before or after. -/
theorem quiet_settle {f : Line → Line} (hk : (s.line l).KeepsFlow (f (s.line l))) (hx : (s.line l).inCharacter = false)
    (hy : (f (s.line l)).inCharacter = false) (hm : LineMoves l False s (s.mapLine l f)) : ((s.mapLine l f).settle l).OpenOrdered :=
  h.keeps_settle hm (State.KeepsStream.refl.mapLine (.of_quiet hk hx hy))

theorem gapExpiry : (s.gapExpiry l).OpenOrdered := by
  unfold State.gapExpiry
  simp only
  split
  next hg =>
    exact h.quiet_settle (f := fun x => { x with tx := .idle, gapTimer := .stopped }) (.of_eq rfl) (by rw [Line.inCharacter, hg.1]) rfl
      (LineMoves.refl.mapLine (.of_eq rfl rfl rfl id))
  · exact h.2

theorem beginPendingBreak : (s.beginPendingBreak l).OpenOrdered := by
  unfold State.beginPendingBreak
  simp only
  split
  next hp => exact h.quiet_settle (f := Line.beginBreak (s.prof l)) (.of_eq rfl) hp.2 rfl (LineMoves.refl.mapLine (.beginBreak _ _))
  · exact h.2

/-- The end of a break: the transmitter was in BREAK (R90). -/
theorem endBreak : (s.endBreak l).OpenOrdered := by
  unfold State.endBreak
  simp only
  split
  next hb =>
    have htx : (s.line l).inCharacter = false := by
      rw [Line.inCharacter, (h.1.matched l).tx.mpr hb.1]
    have hy : (Line.enterGap (s.prof l) { s.line l with brk := .none, breakTimer := .stopped }).inCharacter = false
        ∧ (s.line l).KeepsFlow (Line.enterGap (s.prof l) { s.line l with brk := .none, breakTimer := .stopped }) := by
      unfold Line.enterGap
      split <;> exact ⟨rfl, .of_eq rfl⟩
    have hm : LineMoves l False s (s.mapLine l (fun x => Line.enterGap (s.prof l) { x with brk := .none, breakTimer := .stopped })) :=
      LineMoves.refl.mapLine (.after (.enterGap _ _) (.of_eq rfl rfl rfl id))
    have hk : State.KeepsStream l s (s.mapLine l (fun x => Line.enterGap (s.prof l) { x with brk := .none, breakTimer := .stopped })) :=
      State.KeepsStream.refl.mapLine (.of_quiet hy.2 htx hy.1)
    split
    · refine h.keeps_settle (hm.finishLong _) (hk.finishLong _ fun hc => ?_)
      rw [State.line_mapLine_same, hy.1] at hc; cases hc
    · exact h.keeps_settle hm hk
  · exact h.2

theorem ackExpiry : (s.ackExpiry l).OpenOrdered := by
  unfold State.ackExpiry
  split
  next hr =>
    have hne : (s.line l).ackTimer ≠ .stopped := fun e => by rw [e] at hr; cases hr
    have hp : (s.prof l).outPacing = .block := by
      refine Classical.byContradiction fun hp => ?_
      exact hne ((h.ordered l).1.plain hp).ack
    have hst : (s.line l).state ≠ .stalled := fun hs => hne ((h.ordered l).1.stalled hs)
    have hm : LineMoves l False s (s.mapLine l (fun x => { x with ackTimer := .stopped })) := LineMoves.refl.mapLine (.of_eq rfl rfl rfl id)
    refine h.2.settle hm.retryOrStall (ordered_retryOrStall ?_ ?_ hp ?_)
    all_goals rw [State.line_mapLine_same]
    · exact (h.ordered l).keeps ⟨⟨rfl, .refl _, id, fun _ => rfl⟩, Or.inl rfl, fun _ => id, fun _ => id⟩
    · exact h.near l
    · exact hst
  · exact h.2

theorem pauseExpiry : (s.pauseExpiry l).OpenOrdered := by
  unfold State.pauseExpiry
  simp only
  split
  · exact h.keeps (.raise (LineMoves.refl.mapLine (.of_eq rfl rfl rfl id)) _ (by simp [EventRec.cls]))
      (.raise (State.KeepsStream.refl.mapLine (.of_eq rfl rfl rfl)) _)
  · exact h.2

theorem lingerExpiry : (s.lingerExpiry l).OpenOrdered := by
  unfold State.lingerExpiry
  split
  · exact h.keeps_settle (LineMoves.refl.mapLine (.of_eq rfl rfl rfl id)) (State.KeepsStream.refl.mapLine (.of_eq rfl rfl rfl))
  · exact h.2

theorem characterReceived (a b c) : (s.characterReceived l a b c).OpenOrdered := by
  let u := s.mapLine l (fun ln => { ln with rxd := if c then .mark else .space })
  have hm : LineMoves l False s u := LineMoves.refl.mapLine (.of_eq rfl rfl rfl id)
  have hk : State.KeepsStream l s u := State.KeepsStream.refl.mapLine (.of_eq rfl rfl rfl)
  have hu : (u.line l).Ordered (u.prof l) := by rw [hm.prof l]; exact (h.ordered l).keeps hk
  have hline : u.line l = { s.line l with rxd := if c then .mark else .space } := s.line_mapLine_same l _
  unfold State.characterReceived
  simp only
  split
  · refine h.2.settle (hm.sortCharacter a b c) ?_
    rw [← hm.prof l]
    exact ordered_sortCharacter (s := u) hu (by rw [hline]; exact h.holds l) a b c
  · exact h.keeps hm hk

theorem idleExpiry : (s.idleExpiry l).OpenOrdered := by
  unfold State.idleExpiry
  split
  · exact h.keeps (LineMoves.refl.mapLine (.after (.sealCurrent _) (.of_eq rfl rfl rfl id)))
      (State.KeepsStream.refl.mapLine (f := fun ln => Line.sealCurrent { ln with idleTimer := .stopped }) (.after (.sealCurrent _) (.of_eq rfl rfl rfl)))
  · exact h.2

theorem statusChange (c) : (s.statusChange l c).OpenOrdered := by
  have hk : State.KeepsStream l s (s.mapLine l (fun x => { x with st := c })) := State.KeepsStream.refl.mapLine (.of_eq rfl rfl rfl)
  have hm : LineMoves l False s (s.mapLine l (fun x => { x with st := c })) := LineMoves.refl.mapLine (.of_eq rfl rfl rfl id)
  unfold State.statusChange
  simp only
  split
  · split
    · exact h.keeps_settle (hm.adopt c) (hk.adopt c)
    · exact h.keeps_settle (hm.mapLine (.of_eq rfl rfl rfl id)) (hk.mapLine (.of_eq rfl rfl rfl))
  · exact h.keeps hm hk

theorem debounceExpiry : (s.debounceExpiry l).OpenOrdered := by
  unfold State.debounceExpiry
  simp only
  split
  · split
    · exact h.keeps_settle (LineMoves.refl.adopt _) (State.KeepsStream.refl.adopt _)
    · exact h.2
  · exact h.2

/-- Only the receiver's own record changes. -/
theorem receiver {f : Line → Line} (hs : (s.line l).Still (f (s.line l)))
    (hf : f (s.line l) = { s.line l with rxd := (f (s.line l)).rxd, rx := (f (s.line l)).rx, armed := (f (s.line l)).armed }) :
    (s.mapLine l f).OpenOrdered :=
  h.keeps (LineMoves.refl.mapLine hs) (State.KeepsStream.refl.mapLine (by rw [hf]; exact .of_eq rfl rfl rfl))

theorem lineEvent {i : Instr} (hl : i.eventLine = some l) (hd : ∀ seq payload, i ≠ .data l seq payload) (ht : exec i s = .next t) : t.OpenOrdered := by
  cases i with
  | data k seq payload => cases hl; exact absurd rfl (hd seq payload)
  | flushComplete k => cases hl; cases ht; rw [h.1.matched.testFlush_eq]; exact h.2
  | breakBegin k => cases hl; cases ht; exact h.beginPendingBreak
  | transmitterChoice k => cases hl; cases ht; exact h.transmitterChoice
  | characterCompletion k => cases hl; cases ht; exact h.characterCompletion
  | gapTimerExpiry k => cases hl; cases ht; exact h.gapExpiry
  | ackTimerExpiry k => cases hl; cases ht; exact h.ackExpiry
  | pauseTimerExpiry k => cases hl; cases ht; exact h.pauseExpiry
  | lingerTimerExpiry k => cases hl; cases ht; exact h.lingerExpiry
  | breakTimerExpiry k => cases hl; cases ht; exact h.endBreak
  | rdyiChange k a =>
    cases hl; cases ht
    exact h.keeps_settle (LineMoves.refl.mapLine (.of_eq rfl rfl rfl id)) (State.KeepsStream.refl.mapLine (.of_eq rfl rfl rfl))
  | characterReceived k a b c => cases hl; cases ht; exact h.characterReceived a b c
  | receiverBreakEnd k => cases hl; cases ht; exact h.receiver (.breakEnd _) (by unfold Line.breakEnd; split <;> rfl)
  | idleTimerExpiry k => cases hl; cases ht; exact h.idleExpiry
  | statusChange k c => cases hl; cases ht; exact h.statusChange c
  | debounceTimerExpiry k => cases hl; cases ht; exact h.debounceExpiry
  | drainComplete k => cases hl; cases ht; rw [h.1.matched.testDrain_eq]; exact h.2.testClose l
  | abortComplete k =>
    cases hl; cases ht
    split
    · exact h.2.testClose l
    · exact h.2
  | entryToClosed k => cases hl; cases ht; exact h.2.testClose l
  | startEdge k => cases hl; cases ht; exact h.receiver (.startEdge _) (by unfold Line.startEdge; split <;> rfl)
  | falseStart k => cases hl; cases ht; exact h.receiver (.falseStart _) (by unfold Line.falseStart; split <;> rfl)
  | receiverArmed k => cases hl; cases ht; exact h.receiver (.arm _) (by unfold Line.arm; split <;> rfl)
  | _ => simp [Instr.eventLine] at hl

end State.InOrder

end Sys2Proof.Machine
end

section
/-!
PROOF. Stream positions (O51): frames, requests, aborts and flushes; and the obligation.
-/
namespace Sys2Proof.Machine

/-! ## The queue given up (R50, R54) -/

section
variable {p : Profile} {x y : Line}

theorem character_of_abandon {t : TxState} {ch : ShiftChar} (h : t.abandon = .character ch) : ∃ c, t = .character c ∧ c.kind = ch.kind := by
  cases t with
  | character c => exact ⟨c, rfl, by rw [← TxState.character.inj h]⟩
  | _ => cases h

/-- A line whose queue is given up, T and Rt at S, with what waits for the byte in the shift register. -/
theorem Line.Ordered.emptied (h : x.Ordered p) (hh : x.holds) (hna : x.underAbort = false) (hpos : (y.Rt, y.T, y.S) = (x.S, x.S, x.S))
    (hnil : (y.outQ, y.blocks, y.openBlock, y.markers, y.ackTimer) = ([], [], none, [], .stopped)) (hst : y.state ≠ .stalled)
    (htx : ∀ ch, y.tx = .character ch → ∃ c, x.tx = .character c ∧ c.kind = ch.kind)
    (hwaits : y.underAbort = true ∨ (y.longIs .flush = true ∧ x.longIs .flush = false)) : y.Ordered p := by
  simp only [Prod.mk.injEq] at hpos hnil
  obtain ⟨hRt, hT, hS⟩ := hpos
  obtain ⟨hQ, hB, hO, hM, hA⟩ := hnil
  have hTR : y.T = y.Rt := hT.trans hRt.symm
  refine ⟨.of_empty ⟨hTR, hS.trans hRt.symm⟩ hQ hB hO hM hst hA, .of_empty hTR hB fun hp ch pos hc hk => ?_⟩
  obtain ⟨c, hx, hkind⟩ := htx ch hc
  obtain ⟨h1, h2, h3⟩ := h.byte_below_S hh hp hx (hkind.trans hk) hna
  refine ⟨by rw [hRt]; exact h1, hTR, ?_⟩
  rw [hRt]
  exact hwaits.symm.imp (fun ⟨hf, hxf⟩ => ⟨hf, h3 hxf⟩) (fun ha => ⟨ha, h2⟩)

/-- A line aborted, once what the abort overtakes is answered. -/
theorem Line.Ordered.aborted (h : x.Ordered p) (hh : x.holds) (hna : x.underAbort = false) (g : Option LongReq) (slot t a b c due) :
    (abortedLine { x with long := g } slot t a b c due).Ordered p := by
  refine h.emptied hh hna rfl rfl (fun hst => by cases hst) (fun ch hc => ?_) (Or.inl rfl)
  have htx : (if x.tx = .brk then .idle else x.tx.abandon) = TxState.character ch := hc
  split at htx
  · cases htx
  · exact character_of_abandon htx

/-- A FLUSH becomes the long request, what it discards discarded. -/
theorem Line.Ordered.flushed (h : x.Ordered p) (hh : x.holds) (hn : x.long = none) (out inn : Bool) (n nIn nOut due t a b c) :
    (x.flushedTo out inn n nIn nOut due t a b c).Ordered p := by
  have hlong : ∀ k, x.longIs k = false := fun k => by simp [Line.longIs, hn]
  have hna : x.underAbort = false := by simp [Line.underAbort, hlong]
  cases out with
  | true => exact h.emptied hh hna rfl rfl (fun hst => by cases hst) (fun ch hc => character_of_abandon hc) (Or.inr ⟨rfl, hlong _⟩)
  | false =>
    refine h.keeps ⟨⟨rfl, .refl _, id, id⟩, Or.inl rfl, fun _ hf => ?_, fun _ ha => ?_⟩
    · rw [hlong] at hf; cases hf
    · rw [hna] at ha; cases ha

/-- A long request begun where there was none, and no FLUSH nor abort waits for a character. -/
theorem Line.KeepsFlow.taking (h : x.KeepsFlow y) (ht : y.tx = x.tx) (hn : x.long = none) : x.KeepsStream y where
  toKeepsFlow := h
  tx := Or.inl ht
  flush := fun _ hf => by simp [Line.longIs, hn] at hf
  abort := fun _ ha => by simp [Line.underAbort, Line.longIs, hn] at ha

end

namespace State.OpenOrdered
variable {s : State} {l : Fin 8}

/-- A change of a line that leaves its stream, its state and its binding. -/
theorem keepsLine (h : s.OpenOrdered) {y : Line} (hk : (s.line l).KeepsStream y) (hs : y.state = (s.line l).state)
    (hb : y.binding = (s.line l).binding) : (s.setLine l y).OpenOrdered := h.of_lines fun k hc => by
  by_cases hkl : k = l
  · subst hkl
    rw [State.line_setLine_same] at hc ⊢
    exact ⟨hs ▸ hc, s.prof_setLine_same k y hb, hk⟩
  · rw [State.line_setLine_ne _ _ hkl] at hc ⊢
    exact ⟨hc, s.prof_setLine_ne y hkl, .refl _⟩

/-- Every line changed alike in what its stream is not read from. -/
theorem mapLines (h : s.OpenOrdered) {f : Line → Line} (hf : ∀ x : Line, x.KeepsStream (f x) ∧ (f x).state = x.state ∧ (f x).binding = x.binding) :
    (s.mapLines f).OpenOrdered := h.of_lines fun k hc => by
  obtain ⟨h1, h2, h3⟩ := hf (s.line k)
  rw [State.line_mapLines] at hc ⊢
  refine ⟨h2 ▸ hc, ?_, h1⟩
  simp only [State.prof, State.line_mapLines, h3]
  rfl

/-- A line aborted, and what follows (R50). -/
theorem abort (h : s.OpenOrdered) (hb : s.Balanced) (ho : (s.line l).state ≠ .closed) (hna : (s.line l).underAbort = false) {u : State}
    (hu : LineMoves l False s u) {g : Option LongReq} (hline : u.line l = { s.line l with long := g }) (slot : Option (Fin 4)) :
    ((u.abortLine l slot).settle l).OpenOrdered := by
  obtain ⟨t, a, b, c, due, heq, -⟩ := abortLine_frame u l slot _ hline
  refine h.settle (hu.abortLine (by rw [hline]; exact ho) False.elim slot) ?_
  have hy := (h l ho).aborted (hb.1.holds l).1 hna g slot t a b c due
  rw [heq]
  exact (State.line_setLine_same u l _).symm ▸ hy

theorem resetLine (h : s.OpenOrdered) (hb : s.Balanced) (l : Fin 8) : (s.resetLine l).OpenOrdered := by
  unfold State.resetLine
  simp only
  split
  · exact h
  next ho =>
  split
  · exact h
  split
  next ha =>
    have hl : ∀ k, Line.longIs { s.line l with long := (s.line l).long.map (fun g => { g with slot := none }) } k = (s.line l).longIs k := by
      intro k
      unfold Line.longIs
      cases (s.line l).long <;> rfl
    refine h.keepsLine (y := { s.line l with long := (s.line l).long.map (fun g => { g with slot := none }) })
      ⟨.of_eq rfl, Or.inl rfl, fun _ hf => (hl _).trans hf, fun _ ha => ?_⟩ rfl rfl
    unfold Line.underAbort at *
    rw [hl]; exact ha
  next ha => exact h.abort hb ho (by simpa using ha) .refl (g := (s.line l).long) rfl none

theorem resetLines : ∀ (ls : List (Fin 8)) {s : State}, s.OpenOrdered → s.Balanced → (ls.foldl State.resetLine s).OpenOrdered
  | [], _, h, _ => h
  | l :: ls, _, h, hb => resetLines ls (h.resetLine hb l) (State.balanced_kept.resetLine hb)

theorem completes (reply : Reply) : ∀ (ns : List (Fin 4)) {s : State}, s.OpenOrdered →
    (ns.foldl (fun (t : State) k => t.complete k reply) s).OpenOrdered
  | [], _, h => h
  | n :: ns, s, h => completes reply ns (s := s.complete n reply) h

theorem beginPartReset (h : s.OpenOrdered) (hb : s.Balanced) (n : Fin 4) (clear : Bool) : (s.beginPartReset n clear).OpenOrdered := by
  unfold State.beginPartReset
  simp only
  apply testPartReset
  apply resetLines
  · exact completes _ _ h
  · apply State.balanced_kept.partReset
    apply State.balanced_kept.emptyRefusals
    exact State.balanced_kept.completes _ _ hb

end State.OpenOrdered

namespace State.InOrder
variable {s t : State} {l : Fin 8} (h : s.InOrder)
include h

/-! ## Frames (R14, R19, R22) -/

theorem takeData (l : Fin 8) (payload : List Byte) : (s.takeData l payload).OpenOrdered := by
  have refused : ∀ r n, (s.refuseData l r n).OpenOrdered := fun r n => h.keeps (LineMoves.refl.refuseData r n) (State.KeepsStream.refl.count _ _)
  unfold State.takeData
  simp only
  split
  · exact refused _ _
  split
  · exact refused _ _
  next hcr =>
  split
  · exact refused _ _
  next hmk =>
  have hlen := h.1.length_pos
  have hstored := (scanFits (l := l) hlen 0 0 payload).stored
  have hoff := (h.ordered l).1.off_S_le (h.holds l)
  obtain ⟨-, hres⟩ := h.1.balanced.1.holds l
  obtain ⟨⟨-, -, hfits⟩, -⟩ := h.1.balanced
  obtain ⟨-, -, hroom, -⟩ := hfits l
  have htail := tailRoom_le (s.line l).outQ
  rw [Line.room_eq] at hroom
  have hcells : Config.cellBytes * ((s.line l).resOut - (s.line l).outQ.length) ≤ Config.cellBytes * Config.poolCells :=
    Nat.mul_le_mul_left _ (by omega)
  have hbig : Config.cellBytes * Config.poolCells + (Config.cellBytes * Config.poolCells + Config.cellBytes) < 2 ^ 32 := by decide
  have hscan : (scan s.patterns l payload).stored.length ≤ payload.length := hstored
  have hy := (h.ordered l).accept (h.holds l) hlen l payload payload.length (by omega)
  exact h.2.settle (LineMoves.refl.accept payload (Nat.not_lt.mp hcr) (Nat.not_lt.mp hmk)) ((s.line_setLine_same l _).symm ▸ hy)

theorem built (hb : Built s t) : t.OpenOrdered := by
  cases hb with
  | grant =>
    refine h.2.mapLines fun x => ?_
    unfold Line.granted
    split
    · exact ⟨.of_eq rfl rfl rfl, rfl, rfl⟩
    · exact ⟨.refl x, rfl, rfl⟩
  | data l => exact h.2.keepsLine (y := { s.line l with inQ := markInFrame (s.line l).frameCells.length (s.line l).inQ }) (.of_eq rfl rfl rfl) rfl rfl
  | _ => exact h.2

theorem frameEnd : s.frameEnd.OpenOrdered := by
  unfold State.frameEnd
  split
  · exact h.2
  simp only
  split
  · exact h.2
  next l _ =>
    have hu : State.InOrder (s.mapTrunk (fun t => { t with tx := none })) := h
    exact hu.keeps_settle (LineMoves.refl.dropInbound _) (State.KeepsStream.refl.dropInbound _)
  · exact h.2
  · exact h.2

/-! ## Requests -/

/-- A line opens at position 0 with nothing stored (R43, R117). -/
theorem openNow : (s.openNow l).OpenOrdered := by
  let u : State := { s.mapLine l (Line.opened (s.prof l)) with
    pool := { s.pool with unreserved := s.pool.unreserved - ((s.prof l).outQuota + (s.prof l).inQuota) } }
  have hu : u.OpenOrdered := h.2.setLine (y := (s.line l).opened (s.prof l))
    ⟨.of_empty ⟨rfl, rfl⟩ rfl rfl rfl rfl LineState.noConfusion rfl, .of_quiet rfl fun _ => rfl⟩ rfl (fun _ => rfl) rfl
  show (u.openDecoder l).OpenOrdered
  unfold State.openDecoder
  simp only
  have h1 : (u.mapLine l (fun ln => { ln with settled := (u.line l).st, cond := ((u.prof l).entry (u.line l).st).cond })).OpenOrdered :=
    hu.keepsLine (.of_eq rfl rfl rfl) rfl rfl
  split
  · split
    · exact h1.keepsLine (y := { State.line _ l with lastReported := (State.line _ l).cond, unreported := 0 }) (.of_eq rfl rfl rfl) rfl rfl
    · exact h1
  · exact hu

/-- A STALLED line is in BLOCK mode. -/
theorem block_of_stalled (hs : (s.line l).state = .stalled) : (s.prof l).outPacing = .block := by
  refine Classical.byContradiction fun hp => ?_
  exact ((h.ordered l).1.plain hp).state hs

theorem resumeStalled (hs : (s.line l).state = .stalled) : ((s.mapLine l Line.resumeStalled).settle l).OpenOrdered := by
  refine h.2.settle (LineMoves.refl.mapLine (.resumeStalled _)) ?_
  rw [State.line_mapLine_same]
  have hx : ({ s.line l with retry := 0, state := .running } : Line).Ordered (s.prof l) :=
    (h.ordered l).keeps (.of_state rfl (.refl _) (fun hc => LineState.noConfusion hc) (by rw [hs]; exact LineState.noConfusion))
  exact hx.beginResend (h.block_of_stalled hs) LineState.noConfusion

/-- Every entry given up, with Rt moved to the end of the newest (R57). -/
theorem discardTo (hs : (s.line l).state = .stalled) {rt : Pos} (hrt : rt = (s.line l).newest) :
    (((s.moveRt l rt).mapLine l Line.discardedBlocks).settle l).OpenOrdered := by
  have hp := h.block_of_stalled hs
  refine h.2.settle (LineMoves.refl.moveRt _ |>.mapLine (.discardedBlocks _)) ?_
  obtain ⟨due, hmove, -⟩ := s.moveRt_frame l rt
  have hline : ((s.moveRt l rt).mapLine l Line.discardedBlocks).line l = ((s.line l).entriesDropped due).leaveStalled := by
    rw [State.line_mapLine_same, hmove, State.line_freeCells, State.line_setLine_same, hrt]
    rfl
  rw [hline]
  have hf := (h.ordered l).1.entriesDropped (h.holds l) hs due
  have hk : ((s.line l).entriesDropped due).KeepsFlow ((s.line l).entriesDropped due).leaveStalled := ⟨rfl, .refl _, fun _ => hs, id⟩
  exact ⟨hf.keeps hk, fun hne => absurd hp hne, fun hne => absurd hp hne, fun _ _ _ _ _ b hb => by cases hb⟩

theorem discardBlocks (hs : (s.line l).state = .stalled) : (s.discardBlocks l).OpenOrdered := by
  unfold State.discardBlocks
  simp only
  refine h.discardTo hs ?_
  unfold Line.newest
  cases (s.line l).newestEnd <;> rfl

theorem change (hc : Change s t) : t.OpenOrdered := by
  cases hc with
  | refresh n => exact h.2.mapLines (f := fun ln => { ln with recentGrant := false }) fun x => ⟨.of_eq rfl rfl rfl, rfl, rfl⟩
  | profile i rec hlen hf hu =>
    refine h.2.of_lines fun k hk => ⟨hk, ?_, .refl _⟩
    have hne : (s.line k).binding ≠ i := fun hb => by
      simp only [State.profileInUse, List.any_eq_false, Vector.mem_toList_iff] at hu
      have := hu (s.line k) (Vector.getElem_mem k.isLt)
      rw [hb] at this
      simp only [beq_self_eq_true, Bool.true_and, bne_iff_ne, ne_eq, Classical.not_not] at this
      exact hk this
    show (s.profiles.set i.val _ i.isLt)[(s.line k).binding] = s.profiles[(s.line k).binding]
    exact Vector.getElem_set_ne _ _ fun e => hne (Fin.ext e.symm)
  | bind l i hcl =>
    refine h.2.of_lines fun k hk => ?_
    by_cases hkl : k = l
    · subst hkl
      rw [State.line_mapLine_same] at hk
      exact absurd hcl hk
    · rw [State.line_mapLine_ne _ _ hkl] at hk ⊢
      exact ⟨hk, s.prof_setLine_ne _ hkl, .refl _⟩
  | openLine l => exact h.openNow
  | counters l => exact h.2.keepsLine (y := { s.line l with counters := Counters.zero }) (.of_eq rfl rfl rfl) rfl rfl
  | paused l v => exact h.2.keepsLine (y := { s.line l with paused := v }) (.of_eq rfl rfl rfl) rfl rfl
  | aux l v => exact h.2.keepsLine (y := { s.line l with auxo := v }) (.of_eq rfl rfl rfl) rfl rfl
  | release l hl => exact h.keeps_settle (LineMoves.refl.mapLine (.release _)) (State.KeepsStream.refl.mapLine (.release _ hl))
  | resumeStalled l hl => exact h.resumeStalled hl
  | discard l hl => exact h.discardBlocks hl
  | _ => exact h.2

/-- Nothing that an abort may overtake is an abort (R44). -/
theorem abort (ho : (s.line l).state ≠ .closed) (ha : (s.line l).abortable = true) (n : Fin 4) :
    (((s.finishLong l (.plain .aborted)).abortLine l (some n)).settle l).OpenOrdered := by
  have hna : (s.line l).underAbort = false := by
    unfold Line.underAbort Line.longIs
    cases hg : (s.line l).long with
    | none => simp
    | some g =>
      unfold Line.abortable at ha
      rw [hg] at ha
      cases hk : g.kind <;> simp [hk] at ha ⊢
  refine h.2.abort h.1.balanced ho hna (LineMoves.refl.finishLong _) (g := none) ?_ (some n)
  rw [finishLong_eq]
  exact s.line_setLine_same l _

theorem sendBreak (ho : (s.line l).state ≠ .closed) (hn : (s.line l).long = none) (n : Fin 4) :
    ((s.mapLine l (fun x => Line.setLong .sendBreak (some n) 0 0 { x with brk := .pending })).beginPendingBreak l).OpenOrdered := by
  have hm : LineMoves l False s (s.mapLine l (fun x => Line.setLong .sendBreak (some n) 0 0 { x with brk := .pending })) :=
    LineMoves.refl.setLong (y := { s.line l with brk := .pending }) (.of_eq rfl rfl rfl id) ho False.elim .sendBreak (some n) 0 0
  have hk : State.KeepsStream l s (s.mapLine l (fun x => Line.setLong .sendBreak (some n) 0 0 { x with brk := .pending })) :=
    State.KeepsStream.refl.mapLine (Line.KeepsFlow.taking (.of_eq rfl) rfl hn)
  unfold State.beginPendingBreak
  simp only
  split
  next hp => exact h.keeps_settle (hm.mapLine (.beginBreak _ _)) (hk.mapLine (.of_quiet (.of_eq rfl) hp.2 rfl))
  · exact h.keeps hm hk

theorem taken {n : Fin 4} (ht : Taken n s t) : t.OpenOrdered := by
  cases ht with
  | @answered u hc reply =>
    have hu : u.OpenOrdered := h.change hc
    exact hu
  | drain l ho hs hn =>
    refine h.keeps_settle (LineMoves.refl.setLong (y := { s.line l with state := .draining, markers := (s.line l).markers.filter (fun m => m.kind != .hold) })
      ⟨rfl, id, fun hm => Nat.le_trans (List.length_filter_le _ _) hm, fun _ => by simp⟩ ho False.elim .closeDrain (some n) 0 0)
      (State.KeepsStream.refl.mapLine (Line.KeepsFlow.taking ⟨rfl, List.filter_sublist.map _, fun hc => LineState.noConfusion hc, id⟩ rfl hn))
  | abort l ho ha => exact h.abort ho ha n
  | flush l ho hd hn out inn =>
    have hm : LineMoves l False s (s.flushDiscard l out inn) := LineMoves.refl.flushDiscard out inn
    unfold State.beginFlush
    simp only
    refine h.2.settle (hm.setLong (.refl _) (hm.isOpen ho) False.elim .flush (some n) _ _) ?_
    obtain ⟨due, t, a, b, c, heq, -⟩ := flush_frame s l n out inn (if inn then (s.line l).discardableBytes else 0)
      (if out then ((s.line l).S - (s.line l).Rt).toNat else 0)
    have hy := (h.ordered l).flushed (h.holds l) hn out inn n (if inn then (s.line l).discardableBytes else 0)
      (if out then ((s.line l).S - (s.line l).Rt).toNat else 0) due t a b c
    have hline := (congrArg (fun w : State => w.line l) heq).trans (s.line_setLine_same l _)
    exact hline.symm ▸ hy
  | sendBreak l ho hn => exact h.sendBreak ho hn n
  | partReset clear => exact h.2.beginPartReset h.1.balanced n clear

end State.InOrder

/-! ## Every step -/

theorem State.inOrder_kept : Kept State.InOrder where
  powerOn s a b h := ⟨sound_kept.powerOn s a b h.1, fun k hk => by rw [s.line_powerOn] at hk; exact absurd rfl hk⟩
  noted s t hn h := ⟨sound_kept.noted s t hn h.1, by cases hn <;> exact h.2⟩
  linkRestart s c h := ⟨sound_kept.linkRestart s c h.1, h.2.of_lines fun k hk => by
    rw [s.line_linkRestart] at hk ⊢
    have hl : ∀ q, (s.line k).unanswered.longIs q = (s.line k).longIs q := fun q => by
      unfold Line.longIs Line.unanswered
      cases (s.line k).long <;> rfl
    refine ⟨hk, ?_, { toKeepsFlow := .of_eq rfl, tx := Or.inl rfl, flush := fun _ hf => (hl _).trans hf, abort := fun _ ha => ?_ }⟩
    · simp only [State.prof, s.line_linkRestart]; rfl
    · unfold Line.underAbort at *
      rw [hl]; exact ha⟩
  beginSession s q a h := ⟨sound_kept.beginSession s q a h.1,
    h.2.mapLines (f := fun ln => { ln with grantDue := ln.grantDue || ln.state != .closed }) fun x => ⟨.of_eq rfl rfl rfl, rfl, rfl⟩⟩
  takeData s l d h := ⟨sound_kept.takeData s l d h.1, h.takeData l d⟩
  dropRequest s h := ⟨sound_kept.dropRequest s h.1, h.2⟩
  listRefusal s e he h := ⟨sound_kept.listRefusal s e he h.1, h.2⟩
  admitted s c a o n h1 h2 h3 h4 h5 h := ⟨sound_kept.admitted s c a o n h1 h2 h3 h4 h5 h.1, by
    have hu : (s.holdSlot n c a o).InOrder := h
    exact hu.taken (toOwner_taken _ n c o h1 h2)⟩
  testPartReset s h := ⟨sound_kept.testPartReset s h.1, h.2.testPartReset⟩
  arbiterChoice s h := ⟨sound_kept.arbiterChoice s h.1, by
    obtain ⟨u, k, hu, -, -, he⟩ := builds_arbiterChoice s
    have ho : u.OpenOrdered := h.built hu
    rw [he]; exact ho⟩
  frameEnd s h := ⟨sound_kept.frameEnd s h.1, h.frameEnd⟩
  refreshExpiry s h := ⟨sound_kept.refreshExpiry s h.1, by
    unfold State.refreshExpiry
    split
    · exact h.2
    · exact h.2.mapLines (f := fun ln => { ln with grantDue := ln.grantDue || (ln.state != .closed && !ln.recentGrant), recentGrant := false })
        fun x => ⟨.of_eq rfl rfl rfl, rfl, rfl⟩⟩
  announceExpiry s h := ⟨sound_kept.announceExpiry s h.1, by unfold State.announceExpiry; split <;> exact h.2⟩
  repeatExpiry s c h := ⟨sound_kept.repeatExpiry s c h.1, h.2⟩
  lineEvent i l s t h1 h2 h h3 := ⟨sound_kept.lineEvent i l s t h1 h2 h.1 h3, h.lineEvent h1 h2 h3⟩

/-- Settles O51: every event leaves the streams of the lines it leaves open in order, and a CLOSED line has nothing in its stream. -/
theorem streamPositionsKept : Obligations.StreamPositionsKept := by
  intro s t hpool htables hmatch hs ht
  rw [State.poolAccounts_iff] at hpool
  rw [State.longRequestsMatch_iff] at hmatch
  rw [State.streamsInOrder_iff] at *
  obtain ⟨ha, hc⟩ := hpool
  have hin : s.InOrder := ⟨⟨⟨ha, fun l hl => by rw [hc l hl]; rfl⟩, hc, htables, hmatch⟩, fun l _ => hs l⟩
  exact (State.inOrder_kept.step (fun _ _ h => h) hin ht).ordered

end Sys2Proof.Machine
end
